-- ==== Sys2Proof/Word.lean ====
section
/-!
DEFINITION. The word of the ZT1024 and the other widths the spec gives (R1, R57, R112, R138).
-/
namespace Sys2Proof

/-- A word is 40 bits, numbered 39 down to 0 (R1). -/
abbrev Word := BitVec 40

/-- A byte of the flash (R243), of an Ethernet frame (R336) or of an SMBus block (R331). -/
abbrev Byte := BitVec 8

/-- A program address: SEG in bits 23:20, OFF in bits 19:0 (R138). -/
abbrev PAddr := BitVec 24

/-- A micro-word of the DSU microstore (R112). -/
abbrev MicroWord := BitVec 72

/-- A CRC-64 digest (R285). -/
abbrev Digest := BitVec 64

/-- The number of a core, 0 to 127 (R12 table, R28). -/
abbrev CoreId := Fin 128

/-- The number of a field exchange port, 0 to 3 (R336). -/
abbrev PortId := Fin 4

/-- The number of a host command slot, 0 to 23 (R321). -/
abbrev SlotId := Fin 24

end Sys2Proof
end

