-- ==== Sys2Proof/Syntax.lean ====
section
/-!
DEFINITION. The commands: one constructor of `Instr` for each row of spec/opcode_table.json, with the operands
the happening carries from outside.
-/
namespace Sys2Proof

/-- The function units of a core, in the order of CORE_STAT.BUSY (R55). -/
inductive FU where
  | alu0 | alu1 | mul | fxu0 | fxu1 | blu0 | blu1 | lsu0 | lsu1 | gtu | dsu | ctl
  deriving DecidableEq, Repr

/-- ALU operations, offsets 0x08 to 0x1F in order (R76). -/
inductive AluOp where
  | add | addc | sub | subc | and | or | xor | andn | shl | shr | sar | rol
  | min | max | minu | maxu | neg | abs | pass | sext | dadj | dadjl | dsbj | dsbjl
  deriving DecidableEq, Repr

/-- MUL operations, sockets 0x108 to 0x10D in order (R79). -/
inductive MulOp where
  | mul | mulu | div | divu | rem | remu
  deriving DecidableEq, Repr

/-- The rounding modes m of R84. -/
inductive Round where
  | trunc | halfUp | conv | zero
  deriving DecidableEq, Repr

/-- FXU operations with accumulator n and rounding mode m (R85). -/
inductive FxuOp where
  | fmac (n : Fin 4) (m : Round) | fmsu (n : Fin 4) (m : Round) | fmpy (n : Fin 4) (m : Round)
  | fadd (n : Fin 4) | fsub (n : Fin 4) | fsts (n : Fin 4) | fstw (n : Fin 4)
  | fshr (n : Fin 4) (m : Round)
  deriving DecidableEq, Repr

/-- BLU operations, offsets 0x08 to 0x1E in order (R95); the first eight are the register forms. -/
inductive BluOp where
  | btst | bset | bclr | binv | bcnt | bffs | bext | bswap
  | bld | bldn | band | bandn | bor | born | bxor | bout | boutn | bsetm | bclrm | btas | btac | bget | bput
  deriving DecidableEq, Repr

/-- LSU operations (R166). -/
inductive LsuOp where
  | ld | st | cax | faa
  deriving DecidableEq, Repr

/-- GTU triggers (R171). -/
inductive GtuOp where
  | gath | gcan
  deriving DecidableEq, Repr

/-- DSU operations, offsets 0x08 to 0x15 in order (R103). -/
inductive DsuOp where
  | dmovs | dadds | dsubs | dcmps | dmuld | dshrs | dshrt | dsgn | dcvtb | dcvtd
  | bmove | bfill | bscan | bscann
  deriving DecidableEq, Repr

/-- CTL triggers (R137). -/
inductive CtlOp where
  | jmp | call | jmpa | calla | ret | fence | iflush | eret | svc
  deriving DecidableEq, Repr

/-- What a trigger socket starts: an operation of a unit. -/
inductive Trigger where
  | alu (u : Fin 2) (op : AluOp)
  | mul (op : MulOp)
  | fxu (u : Fin 2) (op : FxuOp)
  | blu (u : Fin 2) (op : BluOp)
  | lsu (u : Fin 2) (op : LsuOp)
  | gtu (op : GtuOp)
  | dsu (op : DsuOp)
  | ctl (op : CtlOp)
  deriving DecidableEq, Repr

/-- A guard as the word carries it: a short guard (R65), a long guard (R64) or a predicate (R61). -/
inductive Guard where
  | short (g : BitVec 3)
  | long (g : BitVec 4)
  | pred (sense : Bool) (p : BitVec 3)
  deriving DecidableEq, Repr

/-- The source of a move: a socket, or the immediate of format 10 (R60). -/
inductive Source where
  | sock (n : BitVec 11)
  | imm (v : BitVec 23)
  deriving DecidableEq, Repr

/-- One move of an issue. -/
structure Mv where
  guard : Guard
  src   : Source
  dst   : BitVec 11
  disp  : BitVec 12
  deriving DecidableEq, Repr

/-- An instruction word by its format (R57). -/
inductive Form where
  | pair (ga : BitVec 3) (sa da : BitVec 8) (gb : BitVec 3) (sb db : BitVec 8)
  | long (g : BitVec 4) (src dst : BitVec 11) (disp : BitVec 12)
  | imm (g : BitVec 4) (dst : BitVec 11) (v : BitVec 23)
  | pred (sense : Bool) (p : BitVec 3) (src dst : BitVec 11) (disp : BitVec 12)
  deriving DecidableEq, Repr

/-- The acknowledgement fields of an END or IDLE block (R272), and FRAME of the packet's START block (R273). -/
structure Ack where
  ackv  : Bool
  nak   : Bool
  ack   : BitVec 12
  frame : Byte
  deriving DecidableEq, Repr

/-- The payload of a CONTROL IDENT message (R275). -/
structure IdentMsg where
  pairId  : Bool
  role    : BitVec 3
  frame   : Word
  digest  : BitVec 256
  layout  : Word
  frmCtl  : Word
  phase0  : Word
  phase1  : Word
  setCrc  : Digest
  deriving DecidableEq, Repr

/-- The payload of a DIGEST packet (R286): digest, separately inverted digest, health word, frame number. -/
structure DigestMsg where
  digest : Digest
  inv    : Digest
  health : Word
  frame  : Word
  deriving DecidableEq, Repr

/-- What the SFDP tables of the flash device declare (R239, R240, R325): the density, the 8D-8D-8D profile and
its highest clock, the erase and the page size. -/
structure Sfdp where
  densityMbit : Nat
  octal       : Bool
  maxMHz      : Nat
  eraseSize   : Nat
  pageSize    : Nat
  deriving DecidableEq, Repr

/-- The three references (R351). -/
inductive RefClk where
  | ref | eth | mir
  deriving DecidableEq, Repr

/-- The monitored rails, in the order of CLK_RSTWHY.BROWN (R362, R368). -/
inductive Rail where
  | vcore | vmem | vio18 | vio33 | vsd | vsdh
  deriving DecidableEq, Repr

/-- VIOFL as sensed at the release of PORST_N (R384). -/
inductive Viofl where
  | v18 | v33 | outOfRange
  deriving DecidableEq, Repr

/-- What the check bits of a word show when it is read (R176). -/
inductive Found where
  | good | single | double
  deriving DecidableEq, Repr

/-- What a scrubber visits (R177, R376): a memory word by its physical address, a word of a protection structure or of
a swappable set by its word index in BAR0, the margin plan record, or a core's microstores. -/
inductive ScrubLoc where
  | word (addr : Nat)
  | reg (idx : Nat)
  | planRecord
  | microstore (c : CoreId)
  deriving DecidableEq, Repr

/-- The BARs (R315). -/
inductive Bar where
  | bar0 | bar2 | bar4
  deriving DecidableEq, Repr

/-- The value of a host write to offset 0 of a word (32 bits), or of an 8-byte access (R319). -/
inductive HostVal where
  | low (v : BitVec 32)
  | whole (v : BitVec 64)
  deriving DecidableEq, Repr

/-- How a host write arrives (R317): good, poisoned, or with a dword only partly enabled. -/
inductive Quality where
  | good | poisoned | partialBytes
  deriving DecidableEq, Repr

/-- What resets the host interface (R316). -/
inductive HostReset where
  | conventional | hot | functionLevel | linkDown | d3hot
  deriving DecidableEq, Repr

/-- How a running host command ends (R323, R325): it finishes, the flash device reports an error (code 7), or
an abort takes hold after `units` words, pages or erase blocks. -/
inductive CmdEnd where
  | finished | deviceError | aborted (units : Nat)
  deriving DecidableEq, Repr

/-- The outcome of one PMBus transaction (R305, R306): a READ_VOUT reading in ULINEAR16, a READ_IOUT reading in LINEAR11, a NACK
or a PEC error. -/
inductive Pmbus where
  | written | vout (code : BitVec 16) | iout (code : BitVec 16) | failed
  deriving DecidableEq, Repr

/-- The speed a port link comes up at (R350 PSTAT). -/
inductive LinkSpeed where
  | m10 | m100 | g1 | g10
  deriving DecidableEq, Repr

/-- Why a packet is discarded (R276). -/
inductive BadPacket where
  | crc | seq
  deriving DecidableEq, Repr

/-- PEC on the command byte of an SMBus read (R331). -/
inductive Pec where
  | absent | correct | wrong
  deriving DecidableEq, Repr

/-- A core, and the steps that an access of it waited for grants ahead of its own (R118, R182; log entry 71). -/
structure CoreWait where
  core : CoreId
  wait : Nat
  deriving DecidableEq, Repr

/-- A core whose DSU operation ends, the steps that its reads waited, and its bursts that the BURST limit ended (R118, R183,
R187; log entry 71). -/
structure CoreCuts where
  core : CoreId
  wait : Nat
  cuts : Nat
  deriving DecidableEq, Repr

/-- A core, and the steps that pass on it before the step of the happening. -/
structure CoreHeld where
  core : CoreId
  held : Nat
  deriving DecidableEq, Repr

/-- The commands. A core issue command names the core whose next word issues; the word itself is the one at the
core's program address. -/
inductive Instr where
  -- moves (files 02, 03, 08)
  | move (c : CoreId)
  | windowAccess (c : CoreId)
  | immhWrite (c : CoreId)
  | coreModeWrite (c : CoreId)
  -- ALU triggers (file 04)
  | add (c : CoreId) | addc (c : CoreId) | sub (c : CoreId) | subc (c : CoreId)
  | and (c : CoreId) | or (c : CoreId) | xor (c : CoreId) | andn (c : CoreId)
  | shl (c : CoreId) | shr (c : CoreId) | sar (c : CoreId) | rol (c : CoreId)
  | min (c : CoreId) | max (c : CoreId) | minu (c : CoreId) | maxu (c : CoreId)
  | neg (c : CoreId) | abs (c : CoreId) | pass (c : CoreId) | sext (c : CoreId)
  | dadj (c : CoreId) | dadjl (c : CoreId) | dsbj (c : CoreId) | dsbjl (c : CoreId)
  -- MUL triggers
  | mul (c : CoreId) | mulu (c : CoreId) | div (c : CoreId) | divu (c : CoreId)
  | rem (c : CoreId) | remu (c : CoreId)
  -- FXU triggers
  | fmac (c : CoreId) | fmsu (c : CoreId) | fmpy (c : CoreId) | fadd (c : CoreId)
  | fsub (c : CoreId) | fsts (c : CoreId) | fstw (c : CoreId) | fshr (c : CoreId)
  -- BLU triggers (file 05)
  | btst (c : CoreId) | bset (c : CoreId) | bclr (c : CoreId) | binv (c : CoreId)
  | bcnt (c : CoreId) | bffs (c : CoreId) | bext (c : CoreId) | bswap (c : CoreId)
  | bld (c : CoreId) | bldn (c : CoreId) | band (c : CoreId) | bandn (c : CoreId)
  | bor (c : CoreId) | born (c : CoreId) | bxor (c : CoreId) | bout (c : CoreId)
  | boutn (c : CoreId) | bsetm (c : CoreId) | bclrm (c : CoreId) | btas (c : CoreId)
  | btac (c : CoreId) | bget (c : CoreId) | bput (c : CoreId)
  -- LSU and GTU triggers (file 08)
  | ld (c : CoreId) | st (c : CoreId) | cax (c : CoreId) | faa (c : CoreId)
  | gath (c : CoreId) | gcan (c : CoreId)
  -- DSU triggers (file 05)
  | dmovs (c : CoreId) | dadds (c : CoreId) | dsubs (c : CoreId) | dcmps (c : CoreId)
  | dmuld (c : CoreId) | dshrs (c : CoreId) | dshrt (c : CoreId) | dsgn (c : CoreId)
  | dcvtb (c : CoreId) | dcvtd (c : CoreId) | bmove (c : CoreId) | bfill (c : CoreId)
  | bscan (c : CoreId) | bscann (c : CoreId)
  -- CTL triggers (files 06, 07, 10)
  | jmp (c : CoreId) | call (c : CoreId) | jmpa (c : CoreId) | calla (c : CoreId)
  | ret (c : CoreId) | fence (c : CoreId) | fenceRelease (c : CoreId) | iflush (c : CoreId)
  | eret (c : CoreId) | svc (c : CoreId)
  -- completions and memory happenings of a core
  | icacheRefill (c : CoreWait)
  | unitCompletion (c : CoreWait) (u : FU)
  | divideCompletion (c : CoreId)
  | dsuCompletion (c : CoreCuts)
  | dsuMicrostoreParity (c : CoreHeld)
  | gtuElementCompletion (c : CoreWait)
  | storeRetirement (c : CoreId)
  | storePerformed (c : CoreWait) (k : Nat)
  | partialOverlapStallEnd (c : CoreId)
  -- events (file 10); `held` is how many steps pass on the core before the step of the happening
  | eventOccurrence (n : Fin 1024)
  | evinOccurrence (n : Fin 16)
  | tenantTimer (c : CoreId)
  | eventAcceptance (c : CoreId) (held : Nat)
  | trapAcceptance (c : CoreId) (held : Nat)
  -- frames and slots (file 11); `slack` is the distance in ns from the end of exit to CLOSE (R237)
  | frameBoundary
  | slotOpen (c : CoreId) (k : Fin 8)
  | tenantEnd (c : CoreId) (slack : Nat)
  | budgetFault (c : CoreId) (held : Nat)
  | paceFault (c : CoreId) (held : Nat)
  | slotClose (c : CoreId)
  | sentrySlot (c : CoreId)
  | selfTestComplete (c : CoreId) (firstFailing : Option Nat)
  | housekeepingSlot (c : CoreId)
  | housekeepingOverrun (c : CoreId) (steps : Nat)
  -- phase points and ports (files 01, 13, 16)
  | digestCompletion
  | verdictPoint
  | transmitPoint (p : PortId)
  | outputFrameSent (p : PortId)
  | inputCutoff
  | frameReceived (p : PortId) (bytes : List Byte) (fcsOk : Bool)
  | parseWritePerformed (p : PortId)
  | receiveTimeout (e : Fin 512)
  | txQueueItemSend (p : PortId)
  | portLinkDown (p : PortId)
  | portLinkUp (p : PortId) (speed : LinkSpeed)
  -- CONTROL messages received (R275)
  | ident (m : IdentMsg) (h : Ack)
  | join (frame : Word) (h : Ack)
  | pending (bits : BitVec 1024) (h : Ack)
  | actset (set : List (Nat × Word)) (h : Ack)
  | swap (target : Word) (crc : Digest) (h : Ack)
  | swapack (target : Word) (equal : Bool) (h : Ack)
  | handover (frame : Word) (h : Ack)
  | yield (h : Ack)
  | drop (h : Ack)
  | frame0 (instant : BitVec 64) (h : Ack)
  | leave (reason : Byte) (h : Ack)
  -- other packets received (R274)
  | digest (m : DigestMsg) (h : Ack)
  | input (off : Nat) (ws : List Word) (h : Ack)
  | mirror (off : Nat) (ws : List Word) (h : Ack)
  | shared (off : Nat) (ws : List Word) (h : Ack)
  | event (ws : List Word) (h : Ack)
  | hostw (writes : List (Nat × Word)) (h : Ack)
  | syncRequest (t1 : BitVec 64) (h : Ack)
  | syncReply (t1 t2 t3 : BitVec 64) (h : Ack)
  | reservedPacket (ty : Fin 8) (h : Ack)
  -- time alignment, deliveries and the link (R276 to R280, R292)
  | syncTimer
  | timeBaseSlew
  | eventDelivery (n : Fin 1024)
  | nakReceived (ack : BitVec 12)
  | replayTimeout
  | blockError
  | laneSignalDetect
  | blockLock
  | laneAlign (skew : BitVec 20)
  | linkDown
  | partnerSilent (pwHigh : Bool)
  | takeover (pwHigh : Bool)
  | waitupExpiry
  -- margin planner (file 14); a reading is (laps C, SLACK) of a sentinel; an upset changes one copy of a delay code
  | sentinelRound (readings : List (Nat × Nat))
  | readVoutPoll
  | pmbusResponse (r : Pmbus)
  | voutConfirmTimeout
  | firstPlanTimeout
  | delayCodeScrub (upsets : List (Fin 136 × Fin 3 × BitVec 6))
  | headLogInterval
  | memoryScrub (loc : ScrubLoc) (found : Found)
  | temperatureUpdate (tj : BitVec 16)
  -- reset, references, PTP, pulses (file 17); `pairId` is none between VIL and VIH (R383); `vout` is READ_VOUT in ULINEAR16
  | porstAssert
  | brownOut (r : Rail)
  | porstRelease (pairId : Option Bool) (viofl : Viofl) (vout : BitVec 16)
  | tapReset
  | pllTLock
  | refrdyTimeout
  | referenceLoss (r : RefClk)
  | referenceRelock (r : RefClk)
  | ptpSecondWrap
  | ppsOutFall
  | ppsInCapture
  -- binding loader (file 12); no SFDP tables is none
  | discovery (tables : Option Sfdp)
  | flashReadRetry (addr : Nat)
  | header
  | read
  | verify
  | relocate
  | setUp
  | sealSetUp
  | bankReject
  -- host interface (file 15); offsets are byte offsets in the BAR
  | barRead (b : Bar) (off : Nat) (whole : Bool)
  | barHighWrite (b : Bar) (off : Nat) (v : BitVec 32) (q : Quality)
  | bar2Write (off : Nat) (v : HostVal) (q : Quality)
  | registerWrite (b : Bar) (off : Nat) (v : HostVal) (q : Quality)
  | doorbell (n : Fin 128)
  | msixUnmask (v : Fin 64)
  | hostInterfaceReset (k : HostReset)
  -- host commands (R325)
  | nop (k : SlotId) (tag : Byte) (irq : Bool)
  | treset (k : SlotId) (tag : Byte) (irq : Bool)
  | qflush (k : SlotId) (tag : Byte) (irq : Bool)
  | abort (k : SlotId)
  | flread (k : SlotId) (tag : Byte) (irq : Bool)
  | flerase (k : SlotId) (tag : Byte) (irq : Bool)
  | flprog (k : SlotId) (tag : Byte) (irq : Bool)
  | selftest (k : SlotId) (tag : Byte) (irq : Bool)
  | snapshot (k : SlotId) (tag : Byte) (irq : Bool)
  | commandCompletion (k : SlotId) (e : CmdEnd)
  -- swap, mirror and clock registers with rows of their own
  | arm
  | cancel
  | copy
  | swapCheckComplete
  | copyComplete
  | mirDrop
  | mirHandover
  | mirJoin
  | ptpLoad
  | ptpStep
  | clkOutselWrite (v : Word)
  | clkTbloRead
  | clkPtp0Read
  -- management
  | smbusSnapshot (pec : Pec)
  | smbusIdentity (pec : Pec)
  | snapshotBuild
  -- rows added last by the table
  | idleBlock (h : Ack)
  | discardedPacket (why : BadPacket)
  | clkoutSwitchComplete
  | brownOutEnd (pairId : Option Bool) (viofl : Viofl) (vout : BitVec 16)
  | vio33RetentionLoss
  deriving DecidableEq, Repr

end Sys2Proof
end

