-- ==== Sys2Proof/Decode.lean ====
section
/-!
DEFINITION. The 40-bit instruction words (R57 to R61): reading and writing them. And the host's reading of a command
from a table word: the table gives no row any bits, so no word spells a command.
-/
namespace Sys2Proof

/-- NAME[hi:lo] of an instruction word as a field of its own width. -/
def wordField (w : Word) (lo n : Nat) : BitVec n := w.extractLsb' lo n

/-- The format of a word (R57); no format leaves a bit unassigned, so every word has a form. -/
def decodeWord (w : Word) : Form :=
  match (wordField w 38 2).toNat with
  | 0 => .pair (wordField w 35 3) (wordField w 27 8) (wordField w 19 8) (wordField w 16 3) (wordField w 8 8)
      (wordField w 0 8)
  | 1 => .long (wordField w 34 4) (wordField w 23 11) (wordField w 12 11) (wordField w 0 12)
  | 2 => .imm (wordField w 34 4) (wordField w 23 11) (wordField w 0 23)
  | _ => .pred ((wordField w 37 1).toNat == 1) (wordField w 34 3) (wordField w 23 11) (wordField w 12 11)
      (wordField w 0 12)

/-- The word of a form (R57). -/
def encodeWord : Form → Word
  | .pair ga sa da gb sb db => (0 : BitVec 2) ++ ga ++ sa ++ da ++ gb ++ sb ++ db
  | .long g src dst disp => (1 : BitVec 2) ++ g ++ src ++ dst ++ disp
  | .imm g dst v => (2 : BitVec 2) ++ g ++ dst ++ v
  | .pred sense p src dst disp => (3 : BitVec 2) ++ BitVec.ofBool sense ++ p ++ src ++ dst ++ disp

/-- The moves of a form, move A first. A short socket number names the core socket of that number (R58); a format 10
word carries its immediate (R60). -/
def Form.moves : Form → List Mv
  | .pair ga sa da gb sb db =>
    [⟨.short ga, .sock (sa.zeroExtend 11), da.zeroExtend 11, 0⟩,
      ⟨.short gb, .sock (sb.zeroExtend 11), db.zeroExtend 11, 0⟩]
  | .long g src dst disp => [⟨.long g, .sock src, dst, disp⟩]
  | .imm g dst v => [⟨.long g, .imm v, dst, 0⟩]
  | .pred sense p src dst disp => [⟨.pred sense p, .sock src, dst, disp⟩]

/-- The command a table word spells: none, since spec/opcode_table.json gives no row any bits. -/
def decodeTableWord (_nbits _w : Nat) : Option Instr := none

end Sys2Proof
end

