-- ==== Sys2Proof/Config.lean ====
section
/-!
DEFINITION. What an implementation fixes, and the free values: constants without a body, so that no proof can
learn a value of one.
-/
namespace Sys2Proof.Config

/-- A value the spec leaves undefined: what reads or is left where a distance is broken (R9, R86), and the
sampled PAIR_ID level of R383. Log entry 4. -/
opaque freeWord : Nat → Word

/-- A choice the spec leaves to the part: whether two eligible words pair (R40 'may'), whether a store that
enters a full buffer is lost (R126). Log entry 4. -/
opaque freeBool : Nat → Bool

/-- A position the spec leaves open: the buffered store that is replaced (R126), the cache line that is
replaced (R158), the words a stopped DSU operation had written (R111).
Log entry 4. -/
opaque freeNat : Nat → Nat

/-- CFG_FUSE.KEYV (R267): key-hash fuses are programmed. Log entry 3. -/
opaque fuseKeyv : Bool

/-- CFG_FUSE.SIGREQ (R267). Log entry 3. -/
opaque fuseSigreq : Bool

/-- CFG_FUSE.SVNMIN (R267). Log entry 3. -/
opaque fuseSvnmin : BitVec 8

/-- CFG_FUSE.FMAX (R267, R241). Log entry 3. -/
opaque fuseFmax : BitVec 8

/-- The key-hash fuses: SHA-256 of the accepted public key (R249 code 7). Log entry 3. -/
opaque fuseKeyHash : BitVec 256

/-- Vanget's PCI vendor ID (R314): the spec does not give its number. Log entry 3. -/
opaque vendorId : BitVec 16

/-- The DSU's microcode ROM (R112): its contents are fused and the spec does not give them. Log entry 4. -/
opaque rom : Nat → MicroWord

/-- The micro-address at which a DSU operation begins, by its trigger offset (R112): not given. Log entry 4. -/
opaque microEntry : Nat → BitVec 12

/-- Whether the internal condition of a select code, 1 to 31, holds in a step (R113): the data path is not documented.
Log entry 4. -/
opaque microCond : Nat → Nat → Bool

end Sys2Proof.Config
end

