-- ==== Sys2Proof/Machine/State.lean ====
section
/-!
DEFINITION. The state of the part as plain data, and the state right after reset. Each field's comment names the
rule that gives it. Registers of BAR0 are one sparse map from word index (byte offset / 8) to the word; a register
that is not listed holds its Reset column (Machine/Regs.lean). The sockets of a tenant's context are one sparse
map from socket number to the word; a socket that is not listed holds 0.
-/
namespace Sys2Proof.Machine

/-- A sparse map in canonical form: keys strictly rising, no entry equal to what an unlisted key reads as
(Machine/Map.lean). -/
abbrev Map (α : Type) := List (Nat × α)

/-- The condition of a word's check bits when it is not good (R176). -/
inductive BadBits where
  | single | double
  deriving DecidableEq, Repr

/-- A store in the store buffer, or retired and not yet performed (R123, R124). `mask` selects the bits stored;
`part` marks a partial store; `trig` is its trigger step, `entered` the step in which it entered the buffer, `due`
the step in which it is performed once it has retired. -/
structure Store where
  addr  : Nat
  data  : Word
  mask  : Word
  part  : Bool
  trig  : Nat
  entered : Nat
  due   : Nat
  deriving DecidableEq, Repr

/-- Where a memory operation found its word when it was triggered (R125): in the buffer, or at the target. -/
inductive Seen where
  | buffered (w : Word)
  | target
  deriving DecidableEq, Repr

/-- What an operation in flight does when it completes (R34). Operands sampled at the trigger are kept. -/
inductive Act where
  /-- socket writes, and the flags named by `fmask` taking the bits of `fval` -/
  | result (writes : List (Nat × Word)) (fmask fval : Word)
  /-- an FXU operation on the accumulators as they then stand (R86) -/
  | fxu (u : Fin 2) (op : FxuOp) (o t : Word)
  /-- a BLU memory form on bit or field `lo`, `width` of the word at `addr` (R95, R98) -/
  | bit (u : Fin 2) (op : BluOp) (addr lo width : Nat) (o : Word) (seen : Seen)
  /-- an LSU load (R166) -/
  | load (u : Fin 2) (addr : Nat) (seen : Seen)
  /-- a compare-exchange with its expected value (R166) -/
  | cax (u : Fin 2) (addr : Nat) (expected o : Word)
  /-- a fetch-add (R166) -/
  | faa (u : Fin 2) (addr : Nat) (o : Word)
  /-- a fault found in the completion step (R91, R96) -/
  | fault (code : Nat) (detail : Word)
  deriving DecidableEq, Repr

/-- An operation in flight: its unit, the socket and word that triggered it, its trigger and completion step. `shared`
says that its access may wait for grants (R118), so that `due` is its earliest completion. -/
structure Flight where
  unit : FU
  sk   : Nat
  phys : Nat
  trig : Nat
  due  : Nat
  shared : Bool
  act  : Act
  deriving DecidableEq, Repr

/-- What holds issue (R38, R122, R125, R127, R172, R216): `p` is a position in the store buffer or, for a fence,
the step P; `step` is the step of the issue that meets the stall. -/
inductive Hold where
  | divide
  | dsu
  | spine (u : FU)
  | spineStore (u : FU) (addr : Nat)
  | overlap (f : Flight) (p : Nat)
  | eretOverlap (step p : Nat)
  | gather (step p : Nat)
  | fence (p : Nat)
  deriving DecidableEq, Repr

/-- What a DSU operation found when it read its operands (R104, R105): the result words, the value of DA, flags,
or the first fault met with its FCODE and DETAIL. -/
structure DsuResult where
  words  : List Word
  da     : Option Word
  fmask  : Word
  fval   : Word
  fcode  : Nat
  detail : Word
  deriving DecidableEq, Repr

/-- The operand words of a decimal string operation as it reads them, one a step (R104, R105): those of DX and of DY read
so far; the step in which the next word is read, or, when all are read, in which DA and the destination are checked and
the result is formed; a word that waited for a partial store is read without a second stall (R125); an address that does
not exist; and the outcome once it is known. -/
structure DsuRead where
  xs    : List Word
  ys    : List Word
  next  : Nat
  again : Bool
  gone  : Option Nat
  res   : Option DsuResult
  deriving DecidableEq, Repr

/-- A DSU operation in progress: `widx` result words written before a resume (R110), `base` its count of
R103 and R128, trigger step `trig`, the step `start` of its first micro-instruction and the number `prog` executed before
it (R109, R110), the step `resume` at which issue would resume (R103), the words a block operation examines, and what it
has read. -/
structure DsuRun where
  op     : DsuOp
  widx   : Nat
  base   : Nat
  phys   : Nat
  trig   : Nat
  start  : Nat
  prog   : Nat
  resume : Nat
  words  : Nat
  rd     : DsuRead
  deriving DecidableEq, Repr

/-- What a micro-trap keeps beside the documented words of the DSU context (R109, R110): the steps that remained, and what
the operation had read; `rd.next` counts from the step at which it stopped. -/
structure DsuSaved where
  rem  : Nat
  rd   : DsuRead
  deriving DecidableEq, Repr

/-- An element of a gather as it was issued (R172, R173): its address, the step, and where its word is found; or why it is not
issued. -/
inductive Elem where
  | read (addr step : Nat) (seen : Seen)
  | fault (code : Nat) (detail : Word)
  | gone (addr : Nat)
  deriving DecidableEq, Repr

/-- A gather in progress (R171, R172): `k0` is the element it began or resumed with, `k` the next to complete, `trig` its
trigger step, `base` that step moved on by the stalls and waits it has met, `elems` the elements issued and not
completed, `next` the step in which the next one is issued, `again` as for the DSU. -/
structure GatherRun where
  vseg : Nat
  voff : Nat
  bseg : Nat
  boff : Int
  n    : Nat
  k0   : Nat
  k    : Nat
  phys : Nat
  trig : Nat
  base : Nat
  lat  : Nat
  shared : Bool
  elems : List Elem
  next : Nat
  again : Bool
  deriving DecidableEq, Repr

/-- A trap or fault raised and not yet accepted (R210, R214, R398). `decode` marks the decode rule. -/
structure Trap where
  code   : Nat
  sk     : Nat
  phys   : Nat
  detail : Word
  decode : Bool
  deriving DecidableEq, Repr

/-- What a stop during the 12 st of event entry puts back (R229): the acceptance step, the routed event, EVT_TCTX before
entry, the address of the frame and what its eight words held. -/
structure Entering where
  step  : Nat
  event : Option Nat
  tctx  : Word
  addr  : Nat
  old   : List Word
  deriving DecidableEq, Repr

/-- Who asked for a self-test (R378). -/
inductive TestSource where
  | retest
  | host (slot : Nat)
  | rotation
  deriving DecidableEq, Repr

/-- A self-test (R377): codes 1 UNIT, 2 USTORE, 3 ECC, 4 PROT. -/
structure Test where
  code : Nat
  src  : TestSource
  deriving DecidableEq, Repr

/-- The slot a core is in (R55, R222, R230, R231): none, a tenant slot in which the tenant issues, a tenant slot
in which the core is idle until CLOSE, the sentry or the housekeeping slot. -/
inductive SlotPhase where
  | closed | running | idle | sentry | housekeeping
  deriving DecidableEq, Repr

/-- What a transfer word's checkpoint records (R148): GHR and the return stack as they stood before the word's own
prediction (a pointer and an overwritten entry restore exactly this stack), the predicted next address, the address of the
other path as the predecode tag gives it, and whether the prediction was made with PRED_EN = 1 (R151). -/
structure Checkpoint where
  ghr  : BitVec 12
  ras  : List PAddr
  next : PAddr
  other : PAddr
  en   : Bool
  deriving DecidableEq, Repr

/-- What instruction fetch answers: a word with its physical address, a trap of code 1 or 15, or an address that does
not exist. -/
inductive Fetched where
  | word (w : Word) (phys : Nat)
  | trap (code phys : Nat) (detail : Word)
  | gone (a : Nat)
  deriving DecidableEq, Repr

/-- A word in stages PA to GR, or in FE (R39, R41): its program address, the step in which it was in PA or FE, what was
fetched, whether it is a transfer word, whether it was fetched as the target of one, and its checkpoint. -/
structure FWord where
  pc   : PAddr
  at_  : Nat
  got  : Fetched
  transfer : Bool
  jump : Bool
  ck   : Checkpoint
  deriving DecidableEq, Repr

/-- A miss in the instruction cache (R130): the line, the IC step in which it was found, and whether the word that stood in
GR may still issue. -/
structure Miss where
  line : Nat
  step : Nat
  go   : Bool
  deriving DecidableEq, Repr

/-- A line of the instruction cache (R158): its line address, its eight words, each with whether memory delivered it as
uncorrectable (R176), and whether the line's own check bits show an error. -/
structure Line where
  addr  : Nat
  words : List (Word × Bool)
  bad   : Bool
  deriving DecidableEq, Repr

/-- An update of a pattern counter that waits for its CM step (R146): the counter, the direction, and the first PA step that
reads the new value. -/
structure Bump where
  idx  : Nat
  up   : Bool
  from_ : Nat
  deriving DecidableEq, Repr

/-- The predictor of a core (R145 to R148). `pht` holds the counters that differ from 0b01; `bumps` the updates not yet
made; `ras` is the return stack, newest first; `ckpt` the issue steps of the words that hold the checkpoints. -/
structure Predictor where
  pht  : Map Nat
  bumps : List Bump
  ghr  : BitVec 12
  ras  : List PAddr
  ckpt : List Nat
  deriving DecidableEq, Repr

/-- A core. Its steps are numbered by `now`, the step in which its next word would issue (R9). -/
structure Core where
  /-- what the core does in its slot (R222, R224, R230, R231) -/
  phase    : SlotPhase
  /-- CORE_STAT.SLOT and the tenant index of TENANT (R55) -/
  slot     : Nat
  tenant   : Nat
  /-- the program address of the next word (R138) -/
  pc       : PAddr
  now      : Nat
  /-- operations in flight in trigger order (R33, R34) -/
  flights  : List Flight
  /-- the store buffer (R123), and the stores retired and not yet performed with the step of the last
  retirement (R124) -/
  buffer   : List Store
  retired  : List Store
  lastRet  : Nat
  /-- what holds issue, in the order in which it began, and the program address of the word that stalls (R38, R214) -/
  hold     : List Hold
  holdPc   : PAddr
  dsu      : Option DsuRun
  /-- gathers in progress, oldest first (R172) -/
  gathers  : List GatherRun
  /-- a CORE_MODE.MODE write and the moves counted since (R45) -/
  modeChange : Option (Nat × Bool)
  /-- a trap or fault raised and not yet accepted (R210) -/
  trap     : Option Trap
  entering : Option Entering
  /-- the step of the last move that wrote FLG, and FLG with the completions of that step alone (R35) -/
  flgMove  : Option (Nat × Word)
  pred     : Predictor
  /-- the instruction cache (R158) -/
  icache   : List Line
  /-- the words in stages PA to GR, oldest first, the step of the next PA, and a miss (R39, R41, R143); the step before which
  no acceptance point lies: slot entry, event entry, event return (R207) -/
  front    : List FWord
  paStep   : Nat
  miss     : Option Miss
  quiet    : Nat
  /-- the slot's tenant has issued its first move (R360 source 7) -/
  moved    : Bool
  /-- pending self-tests: the retest of R371 and host requests; tests running; the frame of the last M1 error (R378) -/
  retest   : Bool
  tests    : List Test
  running  : List Test
  lastM1   : Option Nat
  deriving DecidableEq, Repr

/-- The gather record's five values (R174). -/
structure GatherKey where
  vseg : Nat
  voff : Nat
  bseg : Nat
  boff : Int
  n    : Nat
  deriving DecidableEq, Repr

/-- A tenant's context (R53): its sockets G0 to G31, IMM, FLG, LINK, unit ports, P0 to P7, the stored bits of the
DSU status port and of GTU_DONE, the gather record, and the micro-state of a stopped DSU operation that its documented
context words do not hold (R109). Level, CPRI, TOPSEG and DEPTH are in EVT_TCTX (R217),
the window pointers in CORE_WIN (R167). -/
structure Ctx where
  sock   : Map Word
  gather : Option GatherKey
  dsu    : Option DsuSaved
  deriving DecidableEq, Repr

/-- The DSU patch RAM and match table, one image for every core (R114, R116, R399). -/
structure Patch where
  ram     : Map MicroWord
  entries : List (Nat × Nat)
  deriving DecidableEq, Repr

/-- A forwarded delivery (R280): event number, frame of the instant, and its offset in ns. -/
structure Delivery where
  event : Nat
  frame : Nat
  off   : Nat
  deriving DecidableEq, Repr

/-- A request that waits for a housekeeping slot (R234, R281, R325): tenant number or queue header, the first
frame in which it may be performed, and the command slot that waits. -/
structure Request where
  what : Nat
  notBefore : Nat
  slot : Option Nat
  deriving DecidableEq, Repr

/-- A queue flush that a tenant reset of core `core` leaves to a later frame (R235). -/
structure LaterFlush where
  core : Nat
  header : Nat
  notBefore : Nat
  deriving DecidableEq, Repr

/-- The pace governor's own state (file 11): frames have begun, the time base at the last boundary, the phase points D, V and I
that have passed in this frame (R13, R25), the slots that have opened in it (16 × core + entry, R222), tenant resets and queue
flushes that wait, queues flushed in this frame and in the last, the tenants that were stopped or held when the output set was
latched (R344), those reset in this frame (R345), and the time base and the tables of the last swap (R265). -/
structure Frame where
  started  : Bool
  boundary : Nat
  digested : Bool
  judged   : Bool
  frozen   : Bool
  opened   : List Nat
  resets   : List Request
  flushes  : List Request
  later    : List LaterFlush
  flushed  : List Nat
  flushedPrev : List Nat
  silent   : List Nat
  cancelled : List Nat
  swapped  : Option (Nat × Map Word)
  deriving DecidableEq, Repr

/-- A section table entry (R244). -/
structure Sect where
  ty   : Nat
  crit : Bool
  off  : Nat
  len  : Nat
  crc  : Nat
  deriving DecidableEq, Repr

/-- A held register record (R245): its section's index and type, the BAR0 word index and the value. -/
structure Rec where
  sect : Nat
  ty   : Nat
  idx  : Nat
  val  : Word
  deriving DecidableEq, Repr

/-- A region of the region table (R250). -/
structure Region where
  kind  : Nat
  index : Nat
  start : Nat
  deriving DecidableEq, Repr

/-- A relocation entry (R251). -/
structure Reloc where
  tkind : Nat
  field : Nat
  areg  : Nat
  tsel  : Nat
  tidx  : Nat
  deriving DecidableEq, Repr

/-- Why a bank is rejected (R249). -/
structure Why where
  code   : Nat
  sect   : Nat
  detail : Nat
  deriving DecidableEq, Repr

/-- The binding loader (file 12). A bank is false for Recto, true for Verso. `barred` says that REFRDY was not reached in
time (R364); `retryAt` and `retries` count the failures of one read (R241). -/
structure Loader where
  barred   : Bool
  sfdp     : Option Sfdp
  octal    : Bool
  divider  : Nat
  bank     : Bool
  rejected : List Bool
  fail     : Option Why
  retryAt  : Nat
  retries  : Nat
  imgLen   : Nat
  signed   : Bool
  svn      : Nat
  seqNo    : Nat
  sects    : List Sect
  regions  : List Region
  recs     : List Rec
  relocs   : List (Nat × Reloc)
  patch    : Option (Nat × List Byte)
  digest   : BitVec 256
  setUp    : Bool
  deriving DecidableEq, Repr

/-- The device's role in a pair (R270). -/
inductive Role where
  | none | solo | primary | secondary | standby | joining | dropped
  deriving DecidableEq, Repr

/-- The state of the receive direction of the link (R277). -/
inductive LinkState where
  | down | lock | align | ident | up
  deriving DecidableEq, Repr

/-- The contents of a packet of the sympathy link (R274, R275). -/
inductive Body where
  | ident (m : IdentMsg)
  | join (frame : Nat)
  | pending (bits : BitVec 1024)
  | actset (set : List (Nat × Word))
  | swap (target : Nat) (crc : Digest)
  | swapack (target : Nat) (equal : Bool)
  | handover (frame : Nat)
  | yield
  | drop
  | frame0 (instant : BitVec 64)
  | leave (reason : Nat)
  | digest (m : DigestMsg)
  | input (off : Nat) (ws : List Word)
  | mirror (off : Nat) (ws : List Word)
  | shared (off : Nat) (ws : List Word)
  | event (w : Word)
  | hostw (writes : List (Nat × Word))
  | syncRequest (t1 : BitVec 64)
  | syncReply (t1 t2 t3 : BitVec 64)
  deriving DecidableEq, Repr

/-- A packet sent: its SEQ, FRAME and contents (R272, R276). -/
structure Packet where
  seq   : BitVec 12
  frame : Byte
  body  : Body
  deriving DecidableEq, Repr

/-- A block of the link before it is scrambled (R272): its sync header, 0b10 for a control block, and its 64 payload bits. -/
structure Block where
  control : Bool
  payload : BitVec 64
  deriving DecidableEq, Repr

/-- A host write that a primary holds and forwards (R281): the word (commons physical address, or BAR0 word
index), the value, and the frame at whose boundary it is performed. -/
structure HeldWrite where
  addr  : Nat
  val   : Word
  frame : Nat
  deriving DecidableEq, Repr

/-- The redundant pair and the link (file 13). -/
structure Pair where
  /-- the role, the state of the receive direction, both PAIR_IDs, whether the images differ (R270, R277, R268) -/
  role      : Role
  link      : LinkState
  ownId     : Bool
  partId    : Bool
  unlike    : Bool
  /-- the partner is silent (R278); a partner takes part as SECONDARY, STANDBY or PRIMARY; the device waits for a
  partner after the seal (R271) -/
  silent    : Bool
  partner   : Bool
  waiting   : Bool
  /-- next SEQ to send and to accept; packets not acknowledged, oldest first, and packets that wait, each with its FRAME; a NAK has been
  sent since the last accepted packet; replays since ACK advanced (R276) -/
  txSeq     : BitVec 12
  rxSeq     : BitVec 12
  unacked   : List Packet
  waitq     : List (Body × Byte)
  nakSent   : Bool
  replays   : Nat
  /-- the partner's identity; join frame J and the role the joining device takes at J + 1; handover frame H; the
  instant of frame 0 (R271, R294, R295, R297) -/
  identRx   : Option IdentMsg
  joinFrame : Option Nat
  joinAs    : Role
  handFrame : Option Nat
  frame0At  : Option Nat
  /-- the frames of completed joins, and of drops (R291); a join is wanted -/
  completed : List Nat
  drops     : List Nat
  wantJoin  : Bool
  /-- host writes held for a boundary (R281) -/
  held      : List HeldWrite
  /-- CMPA's and CMPB's copies of the two digests, the health word of the current and of the last frame, the set last judged,
  a set that is never sent, a set that is not compared (R286, R287, R290, R295) -/
  ownDig    : Option DigestMsg
  partDig   : Option DigestMsg
  ownDigB   : Option DigestMsg
  partDigB  : Option DigestMsg
  health    : Word
  healthOut : Word
  verdictFor : Option Nat
  barred    : Option Nat
  notcmp    : Option Nat
  /-- words of the frozen input set forwarded (R25, R341); words of the forwarded set received; the set the own ports froze (R293); words of the join stream received
  (R295) -/
  fwdNext   : Nat
  fwdGot    : Nat
  ownFrozen : Option (Nat × Map Word)
  mirrorGot : Nat
  sharedGot : Nat
  pendingGot : Bool
  actsetGot : Option (List (Nat × Word))
  /-- the target for which this device has answered SWAP with an equal set, and the time base by which its answer must be
  acknowledged; what SWAPACK reported (R282) -/
  swapRx    : Option (Nat × Nat)
  swapAck   : Option Bool
  /-- θ, toward which the time base slews (R279) -/
  theta     : Int
  deriving DecidableEq, Repr

/-- A plan of the margin planner (R303): target in mV, planning step and need in ps, delay codes, worst sentinel. -/
structure Plan where
  v     : Nat
  pstep : Nat
  need  : Nat
  codes : List Nat
  worst : Nat
  deriving DecidableEq, Repr

/-- What the PMBus master is doing (R305, R306). -/
inductive PmbusWait where
  | command (code : Nat)
  | readVout
  | readIout
  deriving DecidableEq, Repr

/-- The margin planner (file 14). -/
structure Planner where
  /-- the three copies of each delay code, and the plan record's codes (R307) -/
  codes   : Map (Nat × Nat × Nat)
  record  : Map Nat
  /-- the plan in effect, and the newest candidate (R301) -/
  plan    : Option Plan
  cand    : Option Plan
  /-- V0 before the first plan (R311); the last change of V was a raise; READ_VOUT has not confirmed it; the regulator has
  failed it; the time base when VOUT_COMMAND was issued, and when READ_VOUT confirmed it (R306) -/
  v0      : Nat
  raising : Bool
  unconfirmed : Bool
  failed  : Bool
  changedAt : Nat
  settle  : Nat
  /-- the PMBus transaction in flight, a VOUT_COMMAND that waits for it, failed attempts (R306) -/
  inFlight : Option PmbusWait
  waiting : Option Nat
  tries   : Nat
  /-- the time base at the start of the round, and at the end of set-up (R301, R311) -/
  roundAt : Nat
  setUpAt : Option Nat
  /-- intervals of 1,024 hours since PORST_N (R312) -/
  intervals : Nat
  deriving DecidableEq, Repr

/-- The state of a command slot (R321). -/
inductive CmdState where
  | idle | queued | running | done | failed | aborted
  deriving DecidableEq, Repr

/-- A command slot (R322): its state, and the arguments and DATA words read at acceptance. -/
structure Cmd where
  st    : CmdState
  op    : Nat
  tag   : Byte
  irq   : Bool
  fail  : Nat
  prog  : Nat
  args  : List Word
  data  : List Word
  abort : Bool
  deriving DecidableEq, Repr

/-- The host interface (file 15): one read and one write latch for each BAR, ARG and DATA words of BAR4 by word
index, the BARs that are assigned (R316), the MSI-X table by dword, PBA, the causes whose message has been sent since their bit was
set (R330), D3hot, an Unsupported Request reported through AER (R314, R317), the slots and the flash commands in order of
acceptance. -/
structure HostIf where
  rdLatch : List (Bar × Nat × Byte)
  wrLatch : List (Bar × Nat × Byte)
  bar4    : Map Word
  bars    : List Bar
  msix    : Map (BitVec 32)
  pba     : BitVec 64
  sent    : BitVec 64
  d3      : Bool
  aerUr   : Bool
  slots   : Map Cmd
  flashQ  : List Nat
  deriving DecidableEq, Repr

/-- A parse write not yet performed (R341): the entry's tenant, the number of its input set, its place in the order of parse
completions (R17), and the words with their physical addresses. -/
structure ParseWrite where
  tenant : Nat
  set   : Nat
  seq   : Nat
  ws    : List (Nat × Word)
  deriving DecidableEq, Repr

/-- An output frame completely assembled (R343): its entry, the entry's two event modes, and its bytes. -/
structure Sending where
  entry  : Nat
  evSend : Bool
  evLate : Bool
  bytes  : List Byte
  deriving DecidableEq, Repr

/-- A field exchange port (file 16): its link, parse writes not performed, X has passed in this frame (R13), transmit entries
not yet assembled, the frame being sent, the flush of R349, receive-queue items that a retry of R196 holds back, each with
its frame length, and the time base until which a transmit-queue item and the gap after it last (R348). -/
structure Port where
  up       : Bool
  writes   : List ParseWrite
  begun    : Bool
  toSend   : List Nat
  sending  : Option Sending
  flushDue : Bool
  rxWait   : List (Nat × List (Nat × Word))
  busy     : Nat
  deriving DecidableEq, Repr

/-- A command of CLK_PTPCMD that waits for its count of the time base (R357): the count, the time to load, the step in ns. -/
structure PtpCmd where
  count : Nat
  load  : Option (BitVec 48 × Nat)
  step  : Int
  deriving DecidableEq, Repr

/-- The clock block (file 17): `owed` counts of the time base to leave out (R279), the time base at which PPS_OUT falls while it
is high (R358), the commands that wait (R357), CLKOUT's switch (R361), and for each scrubber the time base at the end of its
last pass (R376). -/
structure Clock where
  running : Bool
  owed    : Nat
  tb      : BitVec 64
  tbHi    : BitVec 24
  sec     : BitVec 48
  ns      : Nat
  frac    : BitVec 40
  ptp1    : Word
  pps     : Option Nat
  ptpCmds : List PtpCmd
  switching : Bool
  nextSel : Option Word
  scrubbed : Map Nat
  deriving DecidableEq, Repr

/-- The balls (R362, R382, R383): PORST_N held low, the rails out of range, the levels of EVIN, the test logic
in Test-Logic-Reset, VIOFL as sensed. -/
structure Pins where
  porstLow : Bool
  brown    : List Rail
  evin     : BitVec 16
  testReset : Bool
  viofl    : Viofl
  deriving DecidableEq, Repr

/-- What the part drives out, newest first: the model's own trace (log entry 6). -/
inductive Out where
  | completion (v : BitVec 64) (poisoned : Bool)
  | msi (vector : Nat)
  | frame (port : Nat) (bytes : List Byte)
  | packet (p : Packet) (blocks : List Block)
  | replayed (p : Packet) (blocks : List Block)
  | idle (b : Block)
  | block (bytes : List Byte) (pec : Byte)
  | smbusNack
  | pmbus (addr : Nat) (pec : Bool) (w : PmbusWait)
  | ppsOut (level : Bool)
  | unsupported
  deriving DecidableEq, Repr

/-- The state of the part. Commands that wait are in `pending`, first in, first out; `lv` holds the writes of LV fields
accepted and not yet applied, oldest first (R7). -/
structure State where
  pending : List Instr
  free    : Nat
  out     : List Out
  pins    : Pins
  regs    : Map Word
  lv      : List (Nat × Word)
  recto   : Map Word
  verso   : Map Word
  mem     : Map Word
  check   : Map (Option BadBits)
  flash   : Map Byte
  cores   : Map Core
  ctxs    : Map Ctx
  patch   : Patch
  events  : BitVec 1024
  deliver : List Delivery
  frm     : Frame
  ldr     : Loader
  pair    : Pair
  age     : Planner
  host    : HostIf
  snap    : List Byte
  ports   : Map Port
  timers  : Map (Option Nat)
  clk     : Clock
  deriving DecidableEq, Repr

/-- Why the machine stops. Closed. -/
inductive Fault where
  /-- Raised by a unit, window, fetch or DSU access that passed its segment check and whose physical word the spec
  says is unpopulated (R154) or is another core's scratchpad (R155). Safe: the loader refuses every image with
  such a segment (R161), so no loaded machine gets there. -/
  | unreachable (addr : Nat)
  deriving DecidableEq, Repr

/-- Why a command has no meaning. Closed. -/
inductive Refusal where
  /-- Raised by an arm of exec whose command has no meaning yet, with its mnemonic. Safe. -/
  | notModelled (mnemonic : String)
  deriving DecidableEq, Repr

/-- The predictor after PORST_N: every counter 0b01, history 0, return stack empty, checkpoints free (R145, R152). -/
def Predictor.reset : Predictor := ⟨[], [], 0, [], []⟩

/-- A core after reset: no slot open (CORE_STAT.SLOT = 0xF), nothing in flight. -/
def Core.reset : Core :=
  { phase := .closed, slot := 15, tenant := 0, pc := 0, now := 0, flights := [], buffer := [], retired := [], lastRet := 0,
    hold := [], holdPc := 0, dsu := none, gathers := [], modeChange := none, trap := none, entering := none,
    flgMove := none, pred := .reset, icache := [], front := [], paStep := 0, miss := none, quiet := 0,
    moved := false, retest := false, tests := [], running := [], lastM1 := none }

/-- A cleared context (R235); also what a context holds after a reset of the part (log entry 2). -/
def Ctx.reset : Ctx := ⟨[], none, none⟩

/-- The pace governor after reset. -/
def Frame.reset : Frame :=
  { started := false, boundary := 0, digested := false, judged := false, frozen := false, opened := [], resets := [],
    flushes := [], later := [], flushed := [], flushedPrev := [], silent := [], cancelled := [], swapped := none }

/-- The loader after reset: not started (PHASE 0). -/
def Loader.reset : Loader :=
  { barred := false, sfdp := none, octal := false, divider := 20, bank := false, rejected := [], fail := none,
    retryAt := 0, retries := 0, imgLen := 0, signed := false, svn := 0, seqNo := 0, sects := [], regions := [],
    recs := [], relocs := [], patch := none, digest := 0, setUp := false }

/-- The pair state after reset: no role, link down (R299). -/
def Pair.reset : Pair :=
  { role := .none, link := .down, ownId := false, partId := false, unlike := false, silent := true,
    partner := false, waiting := false, txSeq := 0, rxSeq := 0, unacked := [], waitq := [],
    nakSent := false, replays := 0, identRx := none, joinFrame := none, joinAs := .none, handFrame := none,
    frame0At := none, completed := [], drops := [], wantJoin := false, held := [], ownDig := none,
    partDig := none, ownDigB := none, partDigB := none, health := 0, healthOut := 0, verdictFor := none, barred := none, notcmp := none, fwdNext := 0, fwdGot := 0,
    ownFrozen := none, mirrorGot := 0, sharedGot := 0, pendingGot := false, actsetGot := none, swapRx := none,
    swapAck := none, theta := 0 }

/-- The planner after reset: delay codes 0x20 (R313), no plan. -/
def Planner.reset : Planner :=
  { codes := [], record := [], plan := none, cand := none, v0 := 0, raising := false, unconfirmed := true,
    failed := false, changedAt := 0, settle := 0, inFlight := none, waiting := none, tries := 0, roundAt := 0, setUpAt := none, intervals := 0 }

/-- A command slot after reset: IDLE (R321). -/
def Cmd.reset : Cmd := ⟨.idle, 0, 0, false, 0, 0, [], [], false⟩

/-- The host interface after reset. -/
def HostIf.reset : HostIf :=
  { rdLatch := [], wrLatch := [], bar4 := [], bars := [], msix := [], pba := 0, sent := 0, d3 := false, aerUr := false,
    slots := [], flashQ := [] }

/-- A port after reset: link down, nothing to do. -/
def Port.reset : Port := ⟨false, [], false, [], none, false, [], 0⟩

/-- The clock block after reset: no time base yet (R355). -/
def Clock.reset : Clock :=
  { running := false, owed := 0, tb := 0, tbHi := 0, sec := 0, ns := 0, frac := 0, ptp1 := 0, pps := none, ptpCmds := [],
    switching := false, nextSel := none, scrubbed := [] }

/-- The snapshot before the first build: SEQ 0, FRAME 0xFFFF_FFFF, PHASE 0 with FAULT_N asserted (R332, R364). -/
def snapReset : List Byte :=
  [0, 0, 0xFF, 0xFF, 0xFF, 0xFF, 0x40, 0, 0x08, 0, 0, 0, 0, 0, 0, 0, 0, 0, 0, 0, 0, 0, 0, 0, 0, 0, 0, 0]

/-- The part right after reset: PORST_N still low, every register at its Reset column, no command waiting. -/
def State.reset : State :=
  { pending := [], free := 0, out := [], pins := ⟨true, [], 0, false, .v18⟩, regs := [], lv := [], recto := [],
    verso := [], mem := [], check := [], flash := [], cores := [], ctxs := [], patch := ⟨[], []⟩, events := 0,
    deliver := [], frm := .reset, ldr := .reset, pair := .reset, age := .reset, host := .reset,
    snap := snapReset, ports := [], timers := [], clk := .reset }

end Sys2Proof.Machine
end

