-- ==== Sys2Proof/Machine/Map.lean ====
section
/-!
DEFINITION. Sparse maps in canonical form: keys strictly rising, no entry equal to what an unlisted key reads as.
-/
namespace Sys2Proof.Machine

/-- The entry at key `k`, or `d` where the map lists none. -/
def Map.get {α : Type} : Map α → Nat → α → α
  | [], _, d => d
  | (a, v) :: m, k, d => if a = k then v else Map.get m k d

/-- The map without any entry at key `k`. -/
def Map.erase {α : Type} : Map α → Nat → Map α
  | [], _ => []
  | (a, v) :: m, k => if a = k then Map.erase m k else (a, v) :: Map.erase m k

/-- The map with `v` at key `k`; `d` is what an unlisted key reads as, so writing `d` removes the entry. -/
def Map.set {α : Type} [DecidableEq α] : Map α → Nat → α → α → Map α
  | [], k, d, v => if v = d then [] else [(k, v)]
  | (a, w) :: m, k, d, v =>
    if a = k then if v = d then Map.erase m k else (k, v) :: m
    else if k < a then if v = d then (a, w) :: Map.erase m k else (k, v) :: (a, w) :: m
    else (a, w) :: Map.set m k d v

/-- The keys of the map are above `k`. -/
def Map.above {α : Type} (k : Nat) : Map α → Bool
  | [] => true
  | (a, _) :: _ => decide (k < a)

/-- The canonical form of a map whose unlisted keys read as `d`. -/
def Map.wf {α : Type} [DecidableEq α] (d : α) : Map α → Bool
  | [] => true
  | (a, v) :: m => decide (v ≠ d) && Map.above a m && Map.wf d m

end Sys2Proof.Machine
end

