-- ==== Sys2Proof/Machine/Crc.lean ====
section
/-!
DEFINITION. The cyclic redundancy checks: CRC-64 of the digest (R285), CRC-32C of images and packets (R243, R273), and
the frame check sequence of IEEE 802.3.
-/
namespace Sys2Proof.Machine

/-- `k` shifts of a bit-reflected CRC register. -/
def crcShift {n : Nat} (poly c : BitVec n) : Nat → BitVec n
  | 0 => c
  | k + 1 => crcShift poly (if c.getLsbD 0 then (c >>> 1) ^^^ poly else c >>> 1) k

/-- One byte into a bit-reflected CRC register. -/
def crcByte {n : Nat} (poly c : BitVec n) (b : Byte) : BitVec n := crcShift poly (c ^^^ b.zeroExtend n) 8

/-- A bit-reflected CRC with initial value and final XOR all ones; `poly` is the reflected polynomial. -/
def crcOf {n : Nat} (poly : BitVec n) (bs : List Byte) : BitVec n := ~~~(bs.foldl (crcByte poly) (~~~0))

/-- CRC-64 with polynomial 0x42F0_E1EB_A9EA_3693, reflected (R285). -/
def crc64 (bs : List Byte) : Digest := crcOf 0xC96C5795D7870F42#64 bs

/-- CRC-32C with polynomial 0x1EDC_6F41, reflected (R243, R273). -/
def crc32c (bs : List Byte) : BitVec 32 := crcOf 0x82F63B78#32 bs

/-- The frame check sequence of IEEE 802.3, polynomial 0x04C1_1DB7, reflected (PRESUMED, log entry 17). -/
def crc32 (bs : List Byte) : BitVec 32 := crcOf 0xEDB88320#32 bs

/-- A word as five bytes, least significant first (R285). -/
def wordBytes (w : Word) : List Byte := leBytes 5 w.toNat

/-- The CRC-64 of words (R285). -/
def crcWords (ws : List Word) : Digest := crc64 (ws.flatMap wordBytes)

end Sys2Proof.Machine
end

