-- ==== Sys2Proof/Machine/Blocks.lean ====
section
/-!
DEFINITION. The blocks of the sympathy link (R272, R273): the words of each packet, START, data and END blocks with their
CRC-32C, IDLE and ALIGN, the scrambler and the lanes.
-/
namespace Sys2Proof.Machine

/-! ### The words of a packet (R274, R275; the order of a message's words is the model's, log entry 88) -/

/-- A digest as two words: bits 39:0, then bits 63:40 (R286, R299). -/
def digLo (d : Digest) : Word := word (bits d 39 0)
def digHi (d : Digest) : Word := word (bits d 63 40)

/-- A 64-bit stamp as two words, in the layout of a digest. -/
def stampWords (t : BitVec 64) : List Word := [word (bits t 39 0), word (bits t 63 40)]

/-- TYPE and OFF of a packet (R274, R275). -/
def Body.kind : Body → Nat × Nat
  | .ident _ => (0, 1)
  | .join _ => (0, 2)
  | .pending _ => (0, 3)
  | .actset _ => (0, 4)
  | .swap _ _ => (0, 5)
  | .swapack _ _ => (0, 6)
  | .handover _ => (0, 7)
  | .yield => (0, 8)
  | .drop => (0, 9)
  | .frame0 _ => (0, 10)
  | .leave _ => (0, 11)
  | .digest _ => (1, 0)
  | .input off _ => (2, off)
  | .mirror off _ => (3, off)
  | .shared off _ => (4, off)
  | .event _ => (5, 0)
  | .hostw _ => (6, 0)
  | .syncRequest _ => (7, 0)
  | .syncReply _ _ _ => (7, 1)

/-- The LEN words of a packet; a message without a payload carries one word of zeros, LEN being at least 1 (R273). -/
def Body.words : Body → List Word
  | .ident m =>
    [word m.pairId.toNat, word m.role.toNat, m.frame] ++ ((List.range 7).map fun n => word (m.digest.toNat >>> (40 * n))) ++
      [m.layout, m.frmCtl, m.phase0, m.phase1, digLo m.setCrc, digHi m.setCrc]
  | .join f => [word f]
  | .pending b => (List.range 26).map fun n => word (b.toNat >>> (40 * n))
  | .actset l => l.map (·.2)
  | .swap t c => [word t, digLo c, digHi c]
  | .swapack t e => [word t, word e.toNat]
  | .handover f => [word f]
  | .yield => [0]
  | .drop => [0]
  | .frame0 i => stampWords i
  | .leave r => [word r]
  | .digest m => [digLo m.digest, digHi m.digest, digLo m.inv, digHi m.inv, m.health, m.frame]
  | .input _ ws => ws
  | .mirror _ ws => ws
  | .shared _ ws => ws
  | .event w => [w]
  | .hostw l => l.flatMap fun x => [word x.1, x.2]
  | .syncRequest t => stampWords t
  | .syncReply a b c => stampWords a ++ stampWords b ++ stampWords c

/-! ### Blocks (R272) -/

/-- A control block: byte 0 of the payload is the type, bits 55:0 of the fields lie above it (log entry 88). -/
def controlBlock (ty fields : Nat) : Block := ⟨true, BitVec.ofNat 64 (fields % 2 ^ 56 * 256 + ty)⟩

/-- The acknowledgement fields of END and IDLE: ACKV[23], NAK[22], ACK[11:0]. -/
def ackFields (nak : Bool) (ack : BitVec 12) : Nat := 2 ^ 23 + nak.toNat * 2 ^ 22 + ack.toNat

/-- An IDLE block with ACKV = 1. -/
def idleBlock (nak : Bool) (ack : BitVec 12) : Block := controlBlock 0x33 (ackFields nak ack)

/-- The ALIGN block of a lane. -/
def alignBlock (lane : Nat) : Block := controlBlock 0x4B (lane % 4 * 2 ^ 54)

/-- Bits 55:0 of a packet's START block. -/
def Packet.startFields (p : Packet) : Nat :=
  p.body.kind.1 * 2 ^ 52 + p.seq.toNat * 2 ^ 40 + p.frame.toNat * 2 ^ 32 + (p.body.words.length - 1) % 256 * 2 ^ 24 +
    p.body.kind.2 % 2 ^ 24

/-- The CRC-32C of a packet: the seven bytes of START, then five bytes of each word (R273). -/
def Packet.crc (p : Packet) : BitVec 32 := crc32c (leBytes 7 p.startFields ++ p.body.words.flatMap wordBytes)

/-- The five data blocks of a group of up to eight words: word i in bits 40i+39:40i (R273). -/
def groupBlocks (ws : List Word) : List Block :=
  let g := leNat ((ws.take 8).flatMap wordBytes)
  (List.range 5).map fun j => ⟨false, BitVec.ofNat 64 (g >>> (64 * j))⟩

/-- The data blocks of a packet's words; `n` bounds the groups. -/
def dataBlocks (ws : List Word) : Nat → List Block
  | 0 => []
  | n + 1 => if ws = [] then [] else groupBlocks ws ++ dataBlocks (ws.drop 8) n

/-- The blocks of a packet that carries an acknowledgement in its END block (R273, R276). -/
def Packet.blocks (p : Packet) (ack : BitVec 12) : List Block :=
  controlBlock 0x78 p.startFields :: dataBlocks p.body.words (p.body.words.length / 8 + 1) ++
    [controlBlock 0x87 (p.crc.toNat * 2 ^ 24 + ackFields false ack)]

/-! ### The lanes (R272) -/

/-- The lane of block `n` of the stream. -/
def laneOf (n : Nat) : Nat := n % 4

/-- `n` bits of the self-synchronising scrambler 1 + x^39 + x^58: `st` holds the last 58 bits sent, the newest in bit 0. -/
def scrambleBits (st : BitVec 58) (x : Nat) : Nat → BitVec 58 × Nat
  | 0 => (st, 0)
  | n + 1 =>
    let b := (x.testBit 0 != st.getLsbD 38) != st.getLsbD 57
    let r := scrambleBits ((st <<< 1) ||| BitVec.ofNat 58 b.toNat) (x / 2) n
    (r.1, b.toNat + 2 * r.2)

/-- `n` bits of the descrambler: `st` holds the last 58 bits received. -/
def descrambleBits (st : BitVec 58) (x : Nat) : Nat → BitVec 58 × Nat
  | 0 => (st, 0)
  | n + 1 =>
    let b := (x.testBit 0 != st.getLsbD 38) != st.getLsbD 57
    let r := descrambleBits ((st <<< 1) ||| BitVec.ofNat 58 (x % 2)) (x / 2) n
    (r.1, b.toNat + 2 * r.2)

/-- The 66 bits of a block on its lane: the sync header in bits 1:0, then the scrambled payload. -/
def Block.encode (b : Block) (st : BitVec 58) : BitVec 58 × BitVec 66 :=
  let r := scrambleBits st b.payload.toNat 64
  (r.1, BitVec.ofNat 66 (4 * r.2 + (if b.control then 2 else 1)))

/-- The types of control blocks (R272). -/
def blockTypes : List Nat := [0x33, 0x78, 0x87, 0x4B]

/-- What 66 bits carry: none is a block error, an invalid sync header or an unknown type (R272). -/
def Block.decode (x : BitVec 66) (st : BitVec 58) : BitVec 58 × Option Block :=
  let r := descrambleBits st (x.toNat / 4) 64
  (r.1,
    if x.toNat % 4 = 1 then some ⟨false, BitVec.ofNat 64 r.2⟩
    else if x.toNat % 4 = 2 ∧ blockTypes.contains (r.2 % 256) then some ⟨true, BitVec.ofNat 64 r.2⟩
    else none)

end Sys2Proof.Machine
end

