-- ==== Sys2Proof/Machine/Regs.lean ====
section
/-!
DEFINITION. The registers of BAR0. A register is named by its word index, its byte offset in BAR0 divided by 8
(R318); `layout` gives the fields of each register with their access codes and reset values, as the register
tables of the chapters list them. A bit no field names is reserved (R4).
-/
namespace Sys2Proof.Machine

/-- The access codes of R3. -/
inductive Acc where
  | ro | rw | w1c | wo | sl | lv
  deriving DecidableEq, Repr

/-- A field of a register: bits hi:lo, access code and Reset column. -/
structure Field where
  hi  : Nat
  lo  : Nat
  acc : Acc
  rst : Nat
  deriving DecidableEq, Repr

/-! The word index of each register. -/

-- R335, R117, R390
def devId : Nat := 0x0
def devUcode : Nat := 0x1
def devTemp : Nat := 0x2
def devPkg : Nat := 0x3
-- R54, R167
def coreReg (c k : Nat) : Nat := 0x20000 + 0x80 * c + k
def coreMode (c : Nat) : Nat := coreReg c 0
def coreStat (c : Nat) : Nat := coreReg c 1
def coreId (c : Nat) : Nat := coreReg c 2
def coreScnt (c : Nat) : Nat := coreReg c 3
def coreTrapsk (c : Nat) : Nat := coreReg c 4
def coreTrappc (c : Nat) : Nat := coreReg c 5
def coreIssue (c : Nat) : Nat := coreReg c 6
def corePaired (c : Nat) : Nat := coreReg c 7
def coreStall (c : Nat) : Nat := coreReg c 8
/-- Window w of tenant t (R167). -/
def coreWin (t w : Nat) : Nat := 0x20040 + 0x80 * (t / 8) + 4 * (t % 8) + w
-- R160: segment g of tenant t
def segDescA (t g : Nat) : Nat := 0x40000 + 0x20 * t + 2 * g
def segDescB (t g : Nat) : Nat := 0x40001 + 0x20 * t + 2 * g
-- R187
def spnCtl : Nat := 0x60000
def spnSlice0 : Nat := 0x60001
def spnSlice1 : Nat := 0x60002
def spnWaitmax : Nat := 0x60003
def spnBurstcut : Nat := 0x60004
def qmOwn (q : Nat) : Nat := 0x60200 + q
-- R204, R205, R217, R218, R219
def evtRoute (n : Nat) : Nat := 0x80000 + n
def evtDesc (c w e : Nat) : Nat := 0x80800 + 0x80 * c + 0x40 * w + e
def evtTctx (t : Nat) : Nat := 0x86000 + t
def evtPsum (c w : Nat) : Nat := 0x86800 + 2 * c + w
def evtTmr (c : Nat) : Nat := 0x86A00 + c
-- R238
def frmCtl : Nat := 0xA0000
def frmPhase0 : Nat := 0xA0001
def frmPhase1 : Nat := 0xA0002
def frmCount : Nat := 0xA0003
def frmHand (n : Nat) : Nat := 0xA0004 + n
def frmSlotA (c k : Nat) : Nat := 0xA2000 + 0x20 * c + 3 * k
def frmSlotB (c k : Nat) : Nat := 0xA2001 + 0x20 * c + 3 * k
def frmSlotC (c k : Nat) : Nat := 0xA2002 + 0x20 * c + 3 * k
def frmTcfg (t : Nat) : Nat := 0xA4000 + 8 * t
def frmTend (t : Nat) : Nat := 0xA4001 + 8 * t
def frmTstat (t : Nat) : Nat := 0xA4002 + 8 * t
def frmTuse (t : Nat) : Nat := 0xA4003 + 8 * t
def frmTq (t n : Nat) : Nat := 0xA4004 + 8 * t + n
-- R267
def cfgStat : Nat := 0xC0000
def cfgWhy (bank : Nat) : Nat := 0xC0001 + bank
def cfgImgid : Nat := 0xC0003
def cfgFuse : Nat := 0xC0004
def cfgDig (n : Nat) : Nat := 0xC0005 + n
def cfgSwapf : Nat := 0xC000C
def cfgSwapctl : Nat := 0xC000D
def cfgSwstat : Nat := 0xC000E
/-- The active and the shadow view of the swappable sets; word x / 8 of the set is added. -/
def cfgActive : Nat := 0xC2000
def cfgShadow : Nat := 0xC4000
-- R299
def mirCtl : Nat := 0xE0000
def mirStat : Nat := 0xE0001
def mirCmd : Nat := 0xE0002
def mirHandf : Nat := 0xE0003
def mirDly : Nat := 0xE0004
def mirTbofs : Nat := 0xE0005
def mirDigo0 : Nat := 0xE0006
def mirDigo1 : Nat := 0xE0007
def mirDigp0 : Nat := 0xE0008
def mirDigp1 : Nat := 0xE0009
def mirVerd : Nat := 0xE000A
def mirCnt0 : Nat := 0xE000B
def mirCnt1 : Nat := 0xE000C
def mirCnt2 : Nat := 0xE000D
def mirWhy : Nat := 0xE000E
def mirLayout : Nat := 0xE000F
def mirLane : Nat := 0xE0010
def mirStage : Nat := 0xE0011
-- R313
def ageCtl : Nat := 0x100000
def ageVlim : Nat := 0x100001
def agePmb : Nat := 0x100002
def agePolicy : Nat := 0x100003
def agePlan : Nat := 0x100004
def ageStat : Nat := 0x100005
def ageIout : Nat := 0x100006
def ageHead : Nat := 0x100007
def ageScrub : Nat := 0x100008
def ageSpnnear : Nat := 0x100009
def ageLog (n : Nat) : Nat := 0x100020 + n
def ageSent (n : Nat) : Nat := 0x100200 + n
-- R335
def hstLink : Nat := 0x120000
def hstIstat (n : Nat) : Nat := 0x120001 + n
def hstIen (n : Nat) : Nat := 0x120003 + n
def hstTick : Nat := 0x120005
def hstStat : Nat := 0x120006
def hstSubsys : Nat := 0x120007
def hstBwin (n : Nat) : Nat := 0x120008 + n
def mgtCtl : Nat := 0x130000
def mgtStat : Nat := 0x130001
-- R350
def xePcfg (p : Nat) : Nat := 0x140000 + 0x20 * p
def xePmac0 (p : Nat) : Nat := 0x140001 + 0x20 * p
def xePmac1 (p : Nat) : Nat := 0x140002 + 0x20 * p
def xePrxq (p : Nat) : Nat := 0x140003 + 0x20 * p
def xePtxq (p : Nat) : Nat := 0x140004 + 0x20 * p
def xePstat (p : Nat) : Nat := 0x140005 + 0x20 * p
def xePcnt (p n : Nat) : Nat := 0x140006 + 0x20 * p + n
def xeTxts0 (p : Nat) : Nat := 0x14000A + 0x20 * p
def xeTxts1 (p : Nat) : Nat := 0x14000B + 0x20 * p
def xeEstat (e : Nat) : Nat := 0x142000 + e
-- R368
def clkStat : Nat := 0x160000
def clkOutsel : Nat := 0x160001
def clkTblo : Nat := 0x160002
def clkTbhi : Nat := 0x160003
def clkPtp0 : Nat := 0x160004
def clkPtp1 : Nat := 0x160005
def clkPtpld0 : Nat := 0x160006
def clkPtpld1 : Nat := 0x160007
def clkPtpstep : Nat := 0x160008
def clkPtprate : Nat := 0x160009
def clkPtpcmd : Nat := 0x16000A
def clkPpsctl : Nat := 0x16000B
def clkPpscap0 : Nat := 0x16000C
def clkPpscap1 : Nat := 0x16000D
def clkPpstb0 : Nat := 0x16000E
def clkPpstb1 : Nat := 0x16000F
def clkRstwhy : Nat := 0x160010
-- R381
def errCtl : Nat := 0x180000
def errSum : Nat := 0x180001
def errStat : Nat := 0x180002
def errCecnt : Nat := 0x180003
def errCoreoff (n : Nat) : Nat := 0x180004 + n
def errStctl : Nat := 0x180008
def errScrub : Nat := 0x180009
def errLogA (n : Nat) : Nat := 0x180020 + 2 * n
def errLogB (n : Nat) : Nat := 0x180021 + 2 * n
def errFirstA : Nat := 0x180060
def errFirstB : Nat := 0x180061

/-- The kind of sentinel n (R300). -/
def sentKind (n : Nat) : Nat := if n < 128 then n % 4 else 4

/-- The fields of the core registers; `k` is the socket less 0x340 (R55). The access codes are those of the core's
own moves; from the host every one of them is read-only (R54). -/
def coreFields (c k : Nat) : List Field :=
  match k with
  | 0 => [⟨3, 3, .rw, 1⟩, ⟨2, 2, .ro, 0⟩, ⟨1, 1, .ro, 1⟩, ⟨0, 0, .rw, 1⟩]
  | 1 => [⟨35, 24, .ro, 0⟩, ⟨23, 22, .ro, 0⟩, ⟨21, 20, .ro, 0⟩, ⟨12, 4, .ro, 0⟩, ⟨3, 0, .ro, 15⟩]
  | 2 => [⟨15, 8, .ro, 1⟩, ⟨7, 2, .ro, c / 4⟩, ⟨1, 0, .ro, c % 4⟩]
  | 3 => [⟨31, 0, .ro, 0⟩]
  | 4 => [⟨27, 0, .ro, 0⟩]
  | 5 => [⟨27, 0, .ro, 0⟩]
  | 6 => [⟨39, 0, .rw, 0⟩]
  | 7 => [⟨39, 0, .rw, 0⟩]
  | 8 => [⟨39, 0, .rw, 0⟩]
  | _ => []

/-- The fields of the DEV_, SEG_, SPN_, QM_, CORE_ and EVT_ registers (R117, R335, R390, R55, R167, R159, R187,
R204, R205, R217, R218, R219). -/
def layoutLow (r : Nat) : List Field :=
  if r < 0x20000 then
    match r with
    | 0 => [⟨31, 16, .ro, 0x1024⟩, ⟨15, 8, .ro, 1⟩]
    | 1 => [⟨21, 16, .sl, 0⟩, ⟨15, 8, .sl, 0⟩, ⟨7, 0, .ro, 1⟩]
    | 2 => [⟨15, 0, .ro, 0⟩]
    | 3 => [⟨11, 8, .ro, 1⟩, ⟨1, 0, .ro, 0⟩]
    | _ => []
  else if r < 0x24000 then
    let k := (r - 0x20000) % 0x80
    if k < 0x40 then coreFields ((r - 0x20000) / 0x80) k
    else if k < 0x60 then [⟨39, 36, .sl, 0⟩, ⟨35, 23, .sl, 0⟩, ⟨22, 11, .sl, 0⟩, ⟨10, 0, .ro, 0⟩]
    else []
  else if r < 0x40000 then []
  else if r < 0x48000 then
    if r % 2 = 0 then
      [⟨39, 37, .sl, 0⟩, ⟨36, 36, .sl, 0⟩, ⟨35, 35, .sl, 0⟩, ⟨34, 34, .sl, 0⟩, ⟨33, 33, .sl, 0⟩,
        ⟨32, 32, .sl, 0⟩, ⟨27, 0, .sl, 0⟩]
    else [⟨20, 0, .sl, 0⟩]
  else if r < 0x60000 then []
  else if r < 0x60200 then
    match r - 0x60000 with
    | 0 => [⟨11, 8, .ro, 4⟩, ⟨4, 0, .sl, 16⟩]
    | 1 => [⟨39, 0, .sl, 0⟩]
    | 2 => [⟨23, 0, .sl, 0⟩]
    | 3 => [⟨15, 0, .rw, 0⟩]
    | 4 => [⟨39, 0, .rw, 0⟩]
    | _ => []
  else if r < 0x60220 then [⟨3, 0, .ro, 15⟩]
  else if r < 0x80000 then []
  else if r < 0x80400 then
    [⟨39, 32, .sl, 0⟩, ⟨24, 24, .sl, 0⟩, ⟨23, 17, .sl, 0⟩, ⟨16, 16, .sl, 0⟩, ⟨15, 12, .sl, 0⟩, ⟨4, 0, .sl, 0⟩]
  else if r < 0x80800 then []
  else if r < 0x84800 then [⟨39, 39, .sl, 0⟩, ⟨38, 38, .sl, 0⟩, ⟨37, 34, .sl, 0⟩, ⟨23, 0, .sl, 0⟩]
  else if r < 0x86000 then []
  else if r < 0x86400 then
    [⟨39, 39, .sl, 0⟩, ⟨38, 37, .ro, 0⟩, ⟨36, 32, .ro, 16⟩, ⟨31, 28, .ro, 0⟩, ⟨27, 24, .ro, 0⟩, ⟨15, 0, .rw, 0⟩]
  else if r < 0x86800 then []
  else if r < 0x86900 then [⟨39, 24, .rw, 0⟩, ⟨23, 23, .ro, 0⟩, ⟨22, 19, .ro, 0⟩, ⟨9, 0, .ro, 0⟩]
  else if r < 0x86A00 then []
  else if r < 0x86A80 then [⟨20, 20, .lv, 0⟩, ⟨19, 0, .lv, 0⟩]
  else []

/-- The fields of the FRM_ registers (R238). -/
def layoutFrm (r : Nat) : List Field :=
  if r < 0xA2000 then
    match r - 0xA0000 with
    | 0 => [⟨23, 20, .sl, 0⟩, ⟨19, 0, .sl, 0⟩]
    | 1 => [⟨39, 20, .sl, 0⟩, ⟨19, 0, .sl, 0⟩]
    | 2 => [⟨39, 20, .sl, 0⟩, ⟨19, 0, .sl, 0⟩]
    | 3 => [⟨39, 0, .ro, 0⟩]
    | 4 => [⟨31, 0, .ro, 0⟩]
    | 5 => [⟨31, 0, .ro, 0⟩]
    | 6 => [⟨31, 0, .ro, 0⟩]
    | 7 => [⟨31, 0, .ro, 0⟩]
    | _ => []
  else if r < 0xA3000 then
    let k := (r - 0xA2000) % 0x20
    if k < 30 then
      match k % 3 with
      | 0 => [⟨39, 39, .sl, 0⟩, ⟨38, 38, .sl, 1⟩, ⟨37, 37, .sl, 1⟩, ⟨36, 34, .sl, 0⟩, ⟨29, 0, .sl, 0⟩]
      | 1 => [⟨29, 0, .sl, 0⟩]
      | _ => [⟨31, 0, .sl, 0⟩]
    else []
  else if r < 0xA4000 then []
  else if r < 0xA6000 then
    match r % 8 with
    | 0 => [⟨39, 39, .sl, 0⟩, ⟨38, 38, .sl, 0⟩, ⟨23, 0, .sl, 0⟩]
    | 1 => [⟨23, 0, .sl, 0⟩]
    | 2 => [⟨39, 37, .ro, 0⟩, ⟨36, 35, .ro, 0⟩, ⟨34, 34, .w1c, 0⟩, ⟨31, 24, .rw, 0⟩, ⟨19, 0, .rw, 0xFFFFF⟩]
    | 3 => [⟨39, 32, .ro, 0⟩, ⟨31, 0, .rw, 0⟩]
    | _ => [⟨39, 39, .sl, 0⟩, ⟨27, 0, .sl, 0⟩]
  else []

/-- The fields of word `x` (x / 8 in the offsets of R267) of a swappable set; the access codes are those of the
shadow view. Words of an exchange entry are RW in their named bits (R338). -/
def setFields (x : Nat) : List Field :=
  if x = 0 then [⟨39, 0, .rw, 0⟩]
  else if x = 1 then [⟨3, 0, .rw, 0⟩]
  else if x < 0x20 then []
  else if x < 0x40 then [⟨31, 0, .rw, 0⟩]
  else if x < 0x200 then []
  else if x < 0x1200 then
    match x % 8 with
    | 0 => [⟨39, 14, .rw, 0⟩]
    | 1 => [⟨39, 0, .rw, 0⟩]
    | 2 => [⟨39, 0, .rw, 0⟩]
    | 3 => [⟨39, 17, .rw, 0⟩]
    | 4 => [⟨39, 8, .rw, 0⟩]
    | 5 => [⟨39, 26, .rw, 0⟩, ⟨19, 0, .rw, 0⟩]
    | _ => []
  else []

/-- The fields of the CFG_ registers (R267); every field of the active view is read-only. -/
def layoutCfg (r : Nat) : List Field :=
  if r < 0xC2000 then
    match r - 0xC0000 with
    | 0 => [⟨31, 28, .ro, 0⟩, ⟨27, 27, .ro, 0⟩, ⟨26, 26, .ro, 0⟩, ⟨25, 25, .ro, 0⟩, ⟨24, 24, .ro, 0⟩,
        ⟨23, 23, .ro, 0⟩, ⟨22, 22, .ro, 0⟩, ⟨15, 0, .rw, 0⟩]
    | 1 => [⟨39, 32, .ro, 0⟩, ⟨31, 24, .ro, 0⟩, ⟨23, 0, .ro, 0⟩]
    | 2 => [⟨39, 32, .ro, 0⟩, ⟨31, 24, .ro, 0⟩, ⟨23, 0, .ro, 0⟩]
    | 3 => [⟨39, 32, .ro, 0⟩, ⟨31, 0, .ro, 0⟩]
    | 4 => [⟨33, 33, .ro, 0⟩, ⟨32, 32, .ro, 0⟩, ⟨31, 24, .ro, 0⟩, ⟨23, 16, .ro, 0⟩, ⟨15, 8, .ro, 1⟩,
        ⟨7, 0, .ro, 0⟩]
    | 5 => [⟨39, 0, .ro, 0⟩]
    | 6 => [⟨39, 0, .ro, 0⟩]
    | 7 => [⟨39, 0, .ro, 0⟩]
    | 8 => [⟨39, 0, .ro, 0⟩]
    | 9 => [⟨39, 0, .ro, 0⟩]
    | 10 => [⟨39, 0, .ro, 0⟩]
    | 11 => [⟨39, 0, .ro, 0⟩]
    | 12 => [⟨39, 0, .rw, 0⟩]
    | 13 => [⟨2, 2, .wo, 0⟩, ⟨1, 1, .wo, 0⟩, ⟨0, 0, .wo, 0⟩]
    | 14 => [⟨31, 24, .rw, 0⟩, ⟨23, 20, .ro, 0⟩, ⟨7, 7, .ro, 0⟩, ⟨6, 6, .ro, 0⟩, ⟨5, 5, .ro, 0⟩, ⟨4, 4, .ro, 0⟩,
        ⟨3, 3, .w1c, 0⟩, ⟨2, 2, .w1c, 0⟩, ⟨1, 1, .w1c, 0⟩]
    | _ => []
  else if r < 0xC4000 then (setFields (r - 0xC2000)).map fun f => { f with acc := .ro }
  else if r < 0xC6000 then setFields (r - 0xC4000)
  else []

/-- The fields of the MIR_ registers (R284, R299). -/
def layoutMir (r : Nat) : List Field :=
  match r - 0xE0000 with
  | 0 => [⟨39, 39, .sl, 0⟩, ⟨38, 38, .sl, 1⟩, ⟨37, 37, .sl, 0⟩, ⟨35, 32, .sl, 0⟩, ⟨31, 24, .sl, 10⟩,
      ⟨23, 16, .sl, 5⟩]
  | 1 => [⟨39, 37, .ro, 0⟩, ⟨36, 34, .ro, 0⟩, ⟨33, 33, .ro, 0⟩, ⟨32, 32, .ro, 0⟩, ⟨31, 31, .ro, 0⟩,
      ⟨30, 30, .ro, 0⟩]
  | 2 => [⟨2, 2, .wo, 0⟩, ⟨1, 1, .wo, 0⟩, ⟨0, 0, .wo, 0⟩]
  | 3 => [⟨39, 0, .rw, 0⟩]
  | 4 => [⟨39, 20, .ro, 0⟩, ⟨19, 0, .sl, 0⟩]
  | 5 => [⟨19, 0, .ro, 0⟩]
  | 6 => [⟨39, 0, .ro, 0⟩]
  | 7 => [⟨39, 0, .ro, 0⟩]
  | 8 => [⟨39, 0, .ro, 0⟩]
  | 9 => [⟨39, 0, .ro, 0⟩]
  | 10 => [⟨39, 37, .ro, 0⟩, ⟨36, 33, .ro, 0⟩, ⟨32, 32, .ro, 1⟩, ⟨31, 0, .ro, 0⟩]
  | 11 => [⟨39, 20, .rw, 0⟩, ⟨19, 0, .rw, 0⟩]
  | 12 => [⟨39, 20, .rw, 0⟩, ⟨19, 0, .rw, 0⟩]
  | 13 => [⟨39, 20, .rw, 0⟩, ⟨19, 0, .rw, 0⟩]
  | 14 => [⟨39, 32, .ro, 0⟩, ⟨31, 0, .ro, 0⟩]
  | 15 => [⟨31, 0, .sl, 0⟩]
  | 16 => [⟨23, 4, .ro, 0⟩, ⟨3, 0, .ro, 0⟩]
  | 17 => [⟨35, 18, .sl, 0⟩, ⟨17, 0, .sl, 0⟩]
  | _ => []

/-- The fields of the AGE_ registers (R313). -/
def layoutAge (r : Nat) : List Field :=
  let k := r - 0x100000
  if k < 0x20 then
    match k with
    | 0 => [⟨39, 28, .sl, 0x3E8⟩, ⟨27, 20, .sl, 16⟩, ⟨19, 12, .sl, 16⟩, ⟨11, 6, .sl, 4⟩]
    | 1 => [⟨29, 20, .sl, 0x384⟩, ⟨19, 10, .sl, 0x28A⟩, ⟨9, 0, .sl, 0x28⟩]
    | 2 => [⟨16, 16, .sl, 1⟩, ⟨12, 8, .sl, 0x17⟩, ⟨6, 0, .sl, 0x40⟩]
    | 3 => [⟨13, 12, .lv, 0⟩, ⟨11, 0, .lv, 0⟩]
    | 4 => [⟨39, 28, .ro, 0x3E8⟩, ⟨27, 18, .ro, 0⟩, ⟨17, 8, .ro, 0⟩, ⟨7, 0, .ro, 0⟩]
    | 5 => [⟨39, 28, .ro, 0⟩, ⟨19, 19, .ro, 0⟩, ⟨18, 18, .w1c, 0⟩, ⟨17, 16, .ro, 0⟩, ⟨15, 15, .w1c, 0⟩,
        ⟨14, 14, .w1c, 0⟩, ⟨13, 13, .w1c, 0⟩, ⟨12, 12, .ro, 0⟩]
    | 6 => [⟨15, 0, .ro, 0⟩]
    | 7 => [⟨19, 10, .ro, 0⟩, ⟨9, 0, .rw, 0x3FF⟩]
    | 8 => [⟨39, 20, .rw, 0⟩, ⟨19, 0, .rw, 0⟩]
    | 9 => [⟨7, 0, .ro, 0⟩]
    | _ => []
  else if k < 0x30 then [⟨39, 10, .ro, 0⟩, ⟨9, 0, .ro, 0⟩]
  else if k < 0x200 then []
  else if k < 0x288 then [⟨39, 37, .ro, sentKind (k - 0x200)⟩, ⟨36, 31, .ro, 0x20⟩, ⟨30, 23, .ro, 0⟩, ⟨11, 0, .ro, 0⟩]
  else []

/-- The fields of the HST_ and MGT_ registers (R335). -/
def layoutHst (r : Nat) : List Field :=
  match r - 0x120000 with
  | 0 => [⟨6, 4, .ro, 0⟩, ⟨2, 0, .ro, 0⟩]
  | 1 => [⟨31, 0, .w1c, 0⟩]
  | 2 => [⟨31, 0, .w1c, 0⟩]
  | 3 => [⟨31, 0, .rw, 0⟩]
  | 4 => [⟨31, 0, .rw, 0⟩]
  | 5 => [⟨19, 0, .rw, 0⟩]
  | 6 => [⟨39, 20, .rw, 0⟩, ⟨19, 0, .rw, 0⟩]
  | 7 => [⟨31, 16, .sl, 0⟩, ⟨15, 0, .sl, 0⟩]
  | 8 => [⟨35, 18, .sl, 0⟩, ⟨17, 0, .sl, 0⟩]
  | 9 => [⟨35, 18, .sl, 0⟩, ⟨17, 0, .sl, 0⟩]
  | 10 => [⟨35, 18, .sl, 0⟩, ⟨17, 0, .sl, 0⟩]
  | 11 => [⟨35, 18, .sl, 0⟩, ⟨17, 0, .sl, 0⟩]
  | 0x10000 => [⟨7, 7, .sl, 0⟩, ⟨6, 0, .sl, 0x5C⟩]
  | 0x10001 => [⟨31, 16, .ro, 0⟩, ⟨15, 8, .rw, 0⟩, ⟨7, 0, .rw, 0⟩]
  | _ => []

/-- The fields of the XE_ registers (R350). -/
def layoutXe (r : Nat) : List Field :=
  let k := r - 0x140000
  if k < 0x80 then
    match k % 0x20 with
    | 0 => [⟨23, 16, .sl, 0⟩, ⟨15, 8, .sl, 0⟩, ⟨4, 4, .sl, 1⟩, ⟨3, 3, .sl, 0⟩, ⟨2, 0, .sl, 0⟩]
    | 1 => [⟨39, 0, .sl, 0⟩]
    | 2 => [⟨39, 32, .sl, 0⟩]
    | 3 => [⟨39, 39, .sl, 0⟩, ⟨27, 0, .sl, 0⟩]
    | 4 => [⟨39, 39, .sl, 0⟩, ⟨27, 0, .sl, 0⟩]
    | 5 => [⟨3, 3, .ro, 0⟩, ⟨2, 0, .ro, 0⟩]
    | 6 => [⟨39, 20, .rw, 0⟩, ⟨19, 0, .rw, 0⟩]
    | 7 => [⟨39, 20, .rw, 0⟩, ⟨19, 0, .rw, 0⟩]
    | 8 => [⟨39, 20, .rw, 0⟩, ⟨19, 0, .rw, 0⟩]
    | 9 => [⟨39, 20, .rw, 0⟩, ⟨19, 0, .rw, 0⟩]
    | 10 => [⟨39, 39, .w1c, 0⟩, ⟨38, 38, .w1c, 0⟩, ⟨37, 30, .ro, 0⟩, ⟨29, 0, .ro, 0⟩]
    | 11 => [⟨39, 0, .ro, 0⟩]
    | _ => []
  else if k < 0x2000 then []
  else if k < 0x2200 then [⟨39, 39, .ro, 0⟩, ⟨38, 38, .w1c, 0⟩, ⟨31, 0, .rw, 0⟩]
  else []

/-- The fields of the CLK_ registers (R368). -/
def layoutClk (r : Nat) : List Field :=
  match r - 0x160000 with
  | 0 => [⟨7, 7, .w1c, 0⟩, ⟨6, 6, .w1c, 0⟩, ⟨5, 5, .w1c, 0⟩, ⟨4, 4, .w1c, 0⟩, ⟨3, 3, .ro, 0⟩, ⟨2, 2, .ro, 0⟩,
      ⟨1, 1, .ro, 0⟩, ⟨0, 0, .ro, 0⟩]
  | 1 => [⟨21, 14, .rw, 0⟩, ⟨13, 4, .rw, 0⟩, ⟨2, 0, .rw, 0⟩]
  | 2 => [⟨39, 0, .ro, 0⟩]
  | 3 => [⟨23, 0, .ro, 0⟩]
  | 4 => [⟨37, 30, .ro, 0⟩, ⟨29, 0, .ro, 0⟩]
  | 5 => [⟨39, 0, .ro, 0⟩]
  | 6 => [⟨37, 30, .rw, 0⟩, ⟨29, 0, .rw, 0⟩]
  | 7 => [⟨39, 0, .rw, 0⟩]
  | 8 => [⟨39, 0, .rw, 0⟩]
  | 9 => [⟨39, 0, .rw, 0⟩]
  | 10 => [⟨1, 1, .wo, 0⟩, ⟨0, 0, .wo, 0⟩]
  | 11 => [⟨11, 11, .w1c, 0⟩, ⟨10, 10, .w1c, 0⟩, ⟨9, 9, .rw, 0⟩, ⟨8, 0, .rw, 0⟩]
  | 12 => [⟨37, 30, .ro, 0⟩, ⟨29, 0, .ro, 0⟩]
  | 13 => [⟨39, 0, .ro, 0⟩]
  | 14 => [⟨39, 0, .ro, 0⟩]
  | 15 => [⟨23, 0, .ro, 0⟩]
  | 16 => [⟨6, 1, .w1c, 0⟩, ⟨0, 0, .w1c, 0⟩]
  | _ => []

/-- The fields of the ERR_ registers (R381). -/
def layoutErr (r : Nat) : List Field :=
  let k := r - 0x180000
  if k < 0x20 then
    match k with
    | 0 => [⟨23, 20, .rw, 10⟩, ⟨19, 19, .rw, 0⟩, ⟨18, 18, .sl, 1⟩, ⟨17, 10, .sl, 0x73⟩]
    | 1 => [⟨15, 0, .w1c, 0⟩]
    | 2 => [⟨39, 32, .ro, 0⟩, ⟨31, 16, .rw, 0⟩, ⟨15, 15, .ro, 0⟩]
    | 3 => [⟨39, 0, .rw, 0⟩]
    | 4 => [⟨31, 0, .ro, 0⟩]
    | 5 => [⟨31, 0, .ro, 0⟩]
    | 6 => [⟨31, 0, .ro, 0⟩]
    | 7 => [⟨31, 0, .ro, 0⟩]
    | 8 => [⟨39, 39, .sl, 1⟩, ⟨1, 0, .ro, 0⟩]
    | 9 => [⟨26, 3, .rw, 0⟩, ⟨2, 0, .w1c, 0⟩]
    | _ => []
  else if k < 0x60 then
    if k % 2 = 0 then [⟨39, 37, .ro, 0⟩, ⟨36, 29, .ro, 0⟩, ⟨28, 21, .ro, 0⟩, ⟨20, 11, .ro, 0⟩]
    else [⟨39, 28, .ro, 0⟩, ⟨27, 0, .ro, 0⟩]
  else if k = 0x60 then
    [⟨39, 37, .ro, 0⟩, ⟨36, 29, .ro, 0⟩, ⟨28, 21, .ro, 0⟩, ⟨20, 11, .ro, 0⟩, ⟨10, 10, .w1c, 0⟩]
  else if k = 0x61 then [⟨39, 28, .ro, 0⟩, ⟨27, 0, .ro, 0⟩]
  else []

/-- The fields of the register at a word index of BAR0, in the blocks of R334; none at a reserved offset. -/
def layout (r : Nat) : List Field :=
  if r < 0xA0000 then layoutLow r
  else if r < 0xC0000 then layoutFrm r
  else if r < 0xE0000 then layoutCfg r
  else if r < 0x100000 then layoutMir r
  else if r < 0x120000 then layoutAge r
  else if r < 0x140000 then layoutHst r
  else if r < 0x160000 then layoutXe r
  else if r < 0x180000 then layoutClk r
  else if r < 0x1A0000 then layoutErr r
  else []

/-- The bits of a field. -/
def Field.mask (f : Field) : Word := putBits (0 : Word) f.hi f.lo (2 ^ 40 - 1)

/-- The word whose fields hold their Reset column (R5). -/
def resetOf : List Field → Word
  | [] => 0
  | f :: fs => putBits (resetOf fs) f.hi f.lo f.rst

/-- What a register holds after reset: its Reset column (R5); the fuse fields come from Config (R267). -/
def resetVal (r : Nat) : Word :=
  let w := resetOf (layout r)
  if r = cfgFuse then
    putBit (putBit (putBits (putBits w 31 24 Config.fuseSvnmin.toNat) 23 16 Config.fuseFmax.toNat) 33 Config.fuseKeyv)
      32 Config.fuseSigreq
  else w

/-- The bits of the fields of an access code. -/
def accMask (a : Acc) : List Field → Word
  | [] => 0
  | f :: fs => (if f.acc = a then f.mask else 0) ||| accMask a fs

/-- The stored word of a register. -/
def State.reg (s : State) (r : Nat) : Word := s.regs.get r (resetVal r)

/-- The state with a register's stored word replaced. -/
def State.setReg (s : State) (r : Nat) (v : Word) : State := { s with regs := s.regs.set r (resetVal r) v }

/-- NAME[hi:lo] of a stored register. -/
def State.fld (s : State) (r hi lo : Nat) : Nat := bits (s.reg r) hi lo

/-- The state with NAME[hi:lo] of a register replaced. -/
def State.setFld (s : State) (r hi lo v : Nat) : State := s.setReg r (putBits (s.reg r) hi lo v)

/-- A one-bit field. -/
def State.flag (s : State) (r b : Nat) : Bool := bit (s.reg r) b

/-- The state with a one-bit field replaced. -/
def State.setFlag (s : State) (r b : Nat) (v : Bool) : State := s.setReg r (putBit (s.reg r) b v)

/-- A counter field counts `n` and wraps to 0. -/
def State.count (s : State) (r hi lo n : Nat) : State := s.setFld r hi lo (s.fld r hi lo + n)

end Sys2Proof.Machine
end

