-- ==== Sys2Proof/Machine/Ops.lean ====
section
/-!
DEFINITION. The named operations over the state that the meanings share: cores and contexts, free values, memory
with its check bits, the error log, host interrupts, events, segments and targets.
-/
namespace Sys2Proof.Machine

/-- What a command answers. -/
abbrev Result := Host.Outcome State Fault Refusal

/-- The outcome of a second operation on the state a first one leaves. -/
def andThen (r : Result) (f : State → Result) : Result :=
  match r with
  | .next s => f s
  | .fault e => .fault e
  | .refused e => .refused e

/-! ### Cores, contexts and free values -/

/-- Core `c`. -/
def State.core (s : State) (c : Nat) : Core := s.cores.get c Core.reset

/-- The state with core `c` replaced. -/
def State.setCore (s : State) (c : Nat) (k : Core) : State := { s with cores := s.cores.set c Core.reset k }

/-- The state with core `c` changed by a function. -/
def State.onCore (s : State) (c : Nat) (f : Core → Core) : State := s.setCore c (f (s.core c))

/-- The number of the tenant in core `c`'s slot (R238). -/
def State.tenant (s : State) (c : Nat) : Nat := 8 * c + (s.core c).tenant

/-- The context of tenant `t` (R53). -/
def State.ctx (s : State) (t : Nat) : Ctx := s.ctxs.get t Ctx.reset

/-- The state with the context of tenant `t` replaced. -/
def State.setCtx (s : State) (t : Nat) (x : Ctx) : State := { s with ctxs := s.ctxs.set t Ctx.reset x }

/-- The stored value of a context socket of tenant `t`. -/
def State.sock (s : State) (t n : Nat) : Word := (s.ctx t).sock.get n 0

/-- The state with a context socket of tenant `t` replaced. -/
def State.setSock (s : State) (t n : Nat) (v : Word) : State :=
  s.setCtx t { s.ctx t with sock := (s.ctx t).sock.set n 0 v }

/-- The state with several context sockets replaced, in order. -/
def State.setSocks (s : State) (t : Nat) : List (Nat × Word) → State
  | [] => s
  | (n, v) :: ws => State.setSocks (s.setSock t n v) t ws

/-- The free counter moved on: the next free value is a new one (log entry 4). -/
def State.spend (s : State) : State := { s with free := s.free + 1 }

/-- One entry of the model's trace of what the part drives out (log entry 6). -/
def State.emit (s : State) (o : Out) : State := { s with out := o :: s.out }

/-- The level of tenant `t`: 0 SU, 1 SK, 2 FU, 3 FK (R199, R217). -/
def State.level (s : State) (t : Nat) : Nat := s.fld (evtTctx t) 38 37

/-- Whether a level is a supervisor level, SK or FK (R199). -/
def supervisor (lvl : Nat) : Bool := lvl % 2 == 1

/-- Core `c` is in deterministic mode (R55 CORE_MODE.MODE). -/
def State.det (s : State) (c : Nat) : Bool := s.flag (coreMode c) 0

/-- The number of the current frame (R221). -/
def State.frame (s : State) : Nat := s.fld frmCount 39 0

/-- Core `c` is offline (R372). -/
def State.offline (s : State) (c : Nat) : Bool := s.flag (errCoreoff (c / 32)) (c % 32)

/-- A class F error has stopped the part (R373). -/
def State.fatal (s : State) : Bool := s.flag errStat 15

/-- The protection set-up is sealed (R256). -/
def State.sealed (s : State) : Bool := s.flag cfgStat 27

/-- The whole part is in reset (R362). -/
def State.inReset (s : State) : Bool := s.pins.porstLow || !s.pins.brown.isEmpty

/-- The pair's own state changed by a function. -/
def State.onPair (s : State) (f : Pair → Pair) : State := { s with pair := f s.pair }

/-- The device is in pair mode (R268). -/
def State.pairMode (s : State) : Bool := s.flag mirCtl 39

/-! ### Host interrupts -/

/-- Vector `i` is masked: bit 0 of the fourth dword of its MSI-X table entry. -/
def State.masked (s : State) (i : Nat) : Bool := bit (s.host.msix.get (4 * i + 3) 0) 0

/-- The message of vector `i` goes out, and is remembered until the cause's bit is cleared (R330). In D3hot no message is sent
(R316). -/
def State.sendMsi (s : State) (i : Nat) : State :=
  if s.host.d3 then s
  else ({ s with host := { s.host with sent := putBit s.host.sent i true } }).emit (.msi i)

/-- The message of cause `i` is sent, or its PBA bit is set while the vector is masked; no further message before the cause's bit
has been cleared (R330). -/
def State.message (s : State) (i : Nat) : State :=
  if bit s.host.sent i then s
  else if s.masked i then { s with host := { s.host with pba := putBit s.host.pba i true } }
  else s.sendMsi i

/-- Cause `i` is set (R329, R330): a message goes out when the bit changes to 1 while its enable is 1. -/
def State.cause (s : State) (i : Nat) : State :=
  let was := s.flag (hstIstat (i / 32)) (i % 32)
  let s := if was then s else { s with host := { s.host with sent := putBit s.host.sent i false } }
  let s' := s.setFlag (hstIstat (i / 32)) (i % 32) true
  if !was && s.flag (hstIen (i / 32)) (i % 32) then s'.message i else s'

/-- Cause 28 (R329): FRM_COUNT becomes a multiple of HST_TICK.N, N not being 0. -/
def State.tick (s : State) : State :=
  let n := s.fld hstTick 19 0
  if n ≠ 0 ∧ s.frame % n = 0 then s.cause 28 else s

/-- FAULT_N is asserted (R374, R365): before the seal, or while a condition of the table holds. -/
def State.faultN (s : State) : Bool :=
  !s.sealed || s.flag clkStat 3 || s.fatal || s.fld (errCoreoff 0) 31 0 != 0 || s.fld (errCoreoff 1) 31 0 != 0
    || s.fld (errCoreoff 2) 31 0 != 0 || s.fld (errCoreoff 3) 31 0 != 0 || !s.flag mirVerd 32
    || (s.flag ageStat 19 && s.flag errCtl 18)

/-- Cause 27 is set when FAULT_N became asserted between two states (R329). -/
def faultEdge (before after : State) : State :=
  if !before.faultN && after.faultN then after.cause 27 else after

/-! ### Packets to the partner -/

/-- The place of a packet type in the sender's order: DIGEST, SYNC, CONTROL, EVENT, INPUT, HOSTW, SHARED, MIRROR
(R274). -/
def Body.rank : Body → Nat
  | .digest _ => 0
  | .syncRequest _ => 1
  | .syncReply _ _ _ => 1
  | .event _ => 3
  | .input _ _ => 4
  | .hostw _ => 5
  | .shared _ _ => 6
  | .mirror _ _ => 7
  | _ => 2

/-- The ACK that this device sends: the last SEQ it accepted (R276). -/
def State.ackOut (s : State) : BitVec 12 := s.pair.rxSeq - 1

/-- A packet goes out with the next SEQ and is kept until it is acknowledged; its END block carries ACKV = 1 and ACK (R276). -/
def State.launch (s : State) (b : Body) (fr : Byte) : State :=
  let p : Packet := ⟨s.pair.txSeq, fr, b⟩
  ({ s with pair := { s.pair with txSeq := s.pair.txSeq + 1, unacked := s.pair.unacked ++ [p] } }).emit
    (.packet p (p.blocks s.ackOut))

/-- A waiting packet with its FRAME placed in the sender's order, behind those of its own rank (R274). -/
def enqueue (b : Body × Byte) : List (Body × Byte) → List (Body × Byte)
  | [] => [b]
  | a :: l => if a.1.rank ≤ b.1.rank then a :: enqueue b l else b :: a :: l

/-- The transmitters of the link work: it is trained, and no class F error has stopped the part (R277, R373). -/
def State.speaks (s : State) : Bool := !s.fatal && (s.pair.link == .up || s.pair.link == .ident)

/-- A new packet is sent, or waits while 64 packets are unacknowledged (R276). Nothing is sent while the link is
not trained, or after a class F error (R373). -/
def State.send (s : State) (b : Body) (fr : Byte) : State :=
  if !s.speaks then s
  else if s.pair.unacked.length < 64 then s.launch b fr
  else { s with pair := { s.pair with waitq := enqueue (b, fr) s.pair.waitq } }

/-- FRM_COUNT[7:0], the FRAME of a packet whose contents belong to the current frame (R273). -/
def State.frameByte (s : State) : Byte := BitVec.ofNat 8 s.frame

/-! ### Events -/

/-- An occurrence reaches its route's pending bit: discarded with EN = 0, merged and counted in LOST when the bit is
already set (R203). -/
def State.setPending (s : State) (n : Nat) : State :=
  if !s.flag (evtRoute n) 24 then s
  else if bit s.events n then
    s.count (evtPsum (s.fld (evtRoute n) 23 17) (s.fld (evtRoute n) 16 16)) 39 24 1
  else { s with events := putBit s.events n true }

/-- The smallest of some numbers that is at least `x`, if any. -/
def leastFrom (x : Nat) : List Nat → Option Nat
  | [] => none
  | a :: l =>
    match leastFrom x l with
    | none => if x ≤ a then some a else none
    | some b => if x ≤ a && a < b then some a else some b

/-- The OPEN offsets of the enabled tenant slots of core `c` (R222). -/
def State.opens (s : State) (c : Nat) : List Nat :=
  (range 0 8).filterMap fun k => if s.flag (frmSlotA c k) 39 then some (s.fld (frmSlotA c k) 29 0) else none

/-- Time-base counts since the last boundary. -/
def State.sinceBoundary (s : State) : Nat := s.clk.tb.toNat - s.frm.boundary

/-- The frame period in ns (R220). -/
def State.periodNs (s : State) : Nat := 1000 * s.fld frmCtl 19 0

/-- The frame and offset of the first tenant slot OPEN of core `c` at or after `x` ns from the current boundary
(R280). -/
def State.deliveryAt (s : State) (c x : Nat) : Option (Nat × Nat) :=
  if s.periodNs = 0 then none
  else
    let k := x / s.periodNs
    match leastFrom (x % s.periodNs) (s.opens c) with
    | some o => some (s.frame + k, o)
    | none =>
      match leastFrom 0 (s.opens c) with
      | some o => some (s.frame + k + 1, o)
      | none => none

/-- A routed occurrence on a primary is forwarded and delivered on both devices at its delivery instant (R280). -/
def State.forward (s : State) (n : Nat) : State :=
  if !s.flag (evtRoute n) 24 then s
  else
    match s.deliveryAt (s.fld (evtRoute n) 23 17) (s.sinceBoundary + 1000 * s.fld mirCtl 23 16) with
    | none => s
    | some (f, o) =>
      ({ s with deliver := s.deliver ++ [(⟨n, f, o⟩ : Delivery)] }).send (.event (putBits (word n) 39 10 o)) (BitVec.ofNat 8 f)

/-- An occurrence of a routed event on this device (R203, R280): in a pair it counts only on the primary, where it
is forwarded, and so does a SOLO device in the join frame, after which it is the primary (R295; log entry 22); a SECONDARY,
STANDBY or JOINING device discards it. -/
def State.route (s : State) (n : Nat) : State :=
  match s.pair.role with
  | .primary => s.forward n
  | .solo => if s.pair.joinFrame = some s.frame then s.forward n else s.setPending n
  | .secondary => s
  | .standby => s
  | .joining => s
  | _ => s.setPending n

/-- The bit of ERR_SUM that a device-health event sets (R381). -/
def sumBit (n : Nat) : Option Nat :=
  if 960 ≤ n ∧ n ≤ 973 then some (n - 960) else if n = 975 then some 14 else if n = 976 then some 15 else none

/-- The host causes an event sets: 25 device health, 26 partner and mirror, 32 to 63 inter-core signals (R329). -/
def eventCause (n : Nat) : Option Nat :=
  if 960 ≤ n ∧ n ≤ 1007 then some 25
  else if 896 ≤ n ∧ n ≤ 911 then some 26
  else if 640 ≤ n ∧ n ≤ 671 then some (32 + (n - 640))
  else none

/-- Event `n` occurs on this device (R202): host cause, ERR_SUM, and the route. -/
def State.occur (s : State) (n : Nat) : State :=
  let s := match sumBit n with
    | some b => s.setFlag errSum b true
    | none => s
  let s := match eventCause n with
    | some i => s.cause i
    | none => s
  s.route n

/-! ### The error log -/

/-- The class of an error code (R369): 1 C, 2 T, 3 M1, 4 M2, 5 F. -/
def errClass (code : Nat) : Nat :=
  if code = 1 ∨ code = 8 then 1 else if code = 9 then 3 else if code = 10 ∨ code = 11 then 4
  else if code = 12 then 5 else 2

/-- The device-health event an error code raises (R370). -/
def errEvent (code : Nat) : Option Nat :=
  match code with
  | 2 => some 961
  | 3 => some 961
  | 4 => some 961
  | 5 => some 962
  | 6 => some 961
  | 7 => some 976
  | 8 => some 968
  | 9 => some 960
  | 10 => some 960
  | 11 => some 960
  | 12 => some 960
  | _ => none

/-- The bit of the pair's health word that an error code sets (R286, R373). -/
def healthBit (code : Nat) : Option Nat :=
  if 9 ≤ code then some 0 else if 2 ≤ code ∧ code ≤ 6 then some 1 else none

/-- The A word of a log entry (R381). -/
def logA (code src t : Nat) : Word :=
  putBits (putBits (putBits (putBits (0 : Word) 39 37 (errClass code)) 36 29 code) 28 21 src) 20 11 t

/-- A log entry (R375): written at HEAD mod 32, copied to ERR_FIRST when it is the first of class T or above. -/
def State.log (s : State) (code src t addr : Nat) : State :=
  let h := s.fld errStat 39 32
  let b := putBits (word (addr % 2 ^ 28)) 39 28 s.frame
  let s := ((s.setReg (errLogA (h % 32)) (logA code src t)).setReg (errLogB (h % 32)) b).count errStat 39 32 1
  if errClass code ≠ 1 ∧ !s.flag errFirstA 10 then
    (s.setReg errFirstA (putBit (logA code src t) 10 true)).setReg errFirstB b
  else s

/-- Event 963 occurs when ERR_CECNT reaches a multiple of 2^CETHR (R370). -/
def State.countCE (s : State) : State :=
  let s := s.count errCecnt 39 0 1
  if s.fld errCecnt 39 0 % 2 ^ s.fld errCtl 23 20 = 0 then s.occur 963 else s

/-- An error is detected (R369, R370, R375): counted, logged, its health-word bit and its event. -/
def State.error (s : State) (code src t addr : Nat) : State :=
  let s := if code = 1 then s.countCE else s
  let s := if (code = 1 ∧ !s.flag errCtl 19) ∨ code = 8 then s else s.log code src t addr
  let s := match healthBit code with
    | some b => { s with pair := { s.pair with health := putBit s.pair.health b true } }
    | none => s
  match errEvent code with
  | some n => s.occur n
  | none => s

/-! ### Memory -/

/-- The word stored at a physical address. -/
def State.peek (s : State) (a : Nat) : Word := s.mem.get a 0

/-- The condition of a word's check bits (R176). -/
def State.bad (s : State) (a : Nat) : Option BadBits := s.check.get a none

/-- A full word is written, with good check bits (R176). -/
def State.poke (s : State) (a : Nat) (v : Word) : State :=
  { s with mem := s.mem.set a 0 v, check := s.check.set a none none }

/-- Words are written from an address upward. -/
def State.pokes (s : State) (a : Nat) : List Word → State
  | [] => s
  | w :: ws => State.pokes (s.poke a w) (a + 1) ws

/-- `n` words from an address upward. -/
def State.peeks (s : State) (a n : Nat) : List Word := (range a n).map s.peek

/-- A read meets a word's check bits (R176, R369): a single-bit error is corrected, written back and counted as
code 1; an uncorrectable one is logged under `code`. Answers the state and whether the word is usable. -/
def State.meet (s : State) (code src t a : Nat) : State × Bool :=
  match s.bad a with
  | none => (s, true)
  | some .single => ((s.poke a (s.peek a)).error 1 src t a, true)
  | some .double => (s.error code src t a, false)

/-- A partial store or the write of an atomic (R176): not performed on an uncorrectable word, which is logged as
code 3. -/
def State.pokeMask (s : State) (src t a : Nat) (v mask : Word) : State :=
  match s.meet 3 src t a with
  | (s, true) => s.poke a ((s.peek a &&& ~~~mask) ||| (v &&& mask))
  | (s, false) => s

/-! ### Targets and latencies -/

/-- The memory targets of R118. -/
inductive Target where
  | sp | ob | qm | cm | rq
  deriving DecidableEq, Repr

/-- The target that core `c` reaches at a physical address (R118, R154, R155). None where the address is unpopulated
or another core's scratchpad. -/
def target (c a : Nat) : Option Target :=
  if a < 0x1000000 then
    if a / 0x80000 = c / 4 then if a % 0x80000 / 0x20000 = c % 4 then some .ob else some .qm else some .rq
  else if a < 0x1200000 then some .cm
  else if a < 0x1300000 ∧ (a - 0x1200000) / 0x2000 = c then some .sp
  else none

/-- S(q), the slice stages of quire q's spine port (R120, R187). -/
def State.slices (s : State) (q : Nat) : Nat :=
  if q < 20 then s.fld spnSlice0 (2 * q + 1) (2 * q) else s.fld spnSlice1 (2 * (q - 20) + 1) (2 * (q - 20))

/-- The load latency L of a target in a mode, uncontended in performance mode (R118). -/
def State.latencyOf (s : State) (d : Bool) (c a : Nat) : Target → Nat
  | .sp => 2
  | .ob => if d then 3 else 4
  | .qm => if d then 8 else 4
  | .cm => (if d then 24 else 20) + s.slices (c / 4)
  | .rq => (if d then 28 else 24) + s.slices (c / 4) + s.slices (a / 0x80000)

/-- L of the word at `a` for core `c` in its current mode (R118). -/
def State.latency (s : State) (c a : Nat) : Nat :=
  match target c a with
  | some g => s.latencyOf (s.det c) c a g
  | none => 2

/-- The word is reached over the spine (R38, R122). -/
def spine (c a : Nat) : Bool := target c a == some .cm || target c a == some .rq

/-! ### Segments -/

/-- A segment descriptor (R159). -/
structure Seg where
  cls   : Nat
  rd    : Bool
  wr    : Bool
  ex    : Bool
  sup   : Bool
  idir  : Bool
  base  : Nat
  limit : Nat
  deriving DecidableEq, Repr

/-- Descriptor `g` of tenant `t` (R159, R160). -/
def State.seg (s : State) (t g : Nat) : Seg :=
  let a := s.reg (segDescA t g)
  ⟨bits a 39 37, bit a 36, bit a 35, bit a 34, bit a 33, bit a 32, bits a 27 0, s.fld (segDescB t g) 20 0⟩

/-- What an access needs (R164 check 3). -/
inductive Need where
  | read | write | both | fetch
  deriving DecidableEq, Repr

/-- The unit that makes an access (R161, last column). -/
inductive User where
  | fetch | lsu | blu | gtu | dsu | window
  deriving DecidableEq, Repr

/-- The class admits the unit (R161): 1 CODE, 2 DATA, 3 BITS, 4 DEC, 5 IMAGE, 6 MIRROR, 7 SHARED. LSU and GTU reach
CODE for reads only, which the rights already enforce. -/
def admits (cls : Nat) : User → Bool
  | .fetch => cls == 1
  | .lsu => cls != 0
  | .blu => cls == 2 || cls == 3 || cls == 5 || cls == 6 || cls == 7
  | .gtu => cls == 1 || cls == 2 || cls == 5 || cls == 6 || cls == 7
  | .dsu => cls == 2 || cls == 4 || cls == 5 || cls == 6 || cls == 7
  | .window => cls == 2 || cls == 6

/-- The right an access needs is granted. -/
def Seg.grants (g : Seg) : Need → Bool
  | .read => g.rd
  | .write => g.wr
  | .both => g.rd && g.wr
  | .fetch => g.ex

/-- Checks 1 to 5 of R164 at a segment offset: the reason code of the first failure. -/
def Seg.check (g : Seg) (lvl : Nat) (need : Need) (u : User) (off : Int) : Option Nat :=
  if g.cls = 0 then some 1
  else if g.sup && !supervisor lvl then some 2
  else if !g.grants need then some 3
  else if !admits g.cls u then some 4
  else if off < 0 ∨ (g.limit : Int) ≤ off then some 5
  else none

/-- The physical address of an offset in frame `k` (R163, R164). -/
def Seg.phys (g : Seg) (k off : Nat) : Nat :=
  if g.cls = 5 then g.base + (if g.idir then k % 2 else k % 3) * g.limit + off else g.base + off

/-- DETAIL of a segment fault: REASON[38:36], SEG[35:32], offset in 23:0 (R214). -/
def segDetail (reason g : Nat) (off : Int) : Word :=
  putBits (putBits (putBits (0 : Word) 38 36 reason) 35 32 g) 23 0 (BitVec.ofInt 24 off).toNat

/-- The check of one access (R164): the physical address, or the DETAIL of the segment fault. -/
def State.access (s : State) (t g : Nat) (need : Need) (u : User) (off : Int) : Except Word Nat :=
  let d := s.seg t g
  match d.check (s.level t) need u off with
  | some r => .error (segDetail r g off)
  | none => .ok (d.phys s.frame off.toNat)

/-- A trap or fault raised and waiting for its acceptance: the first one raised stands, but the fault of an older operation goes
before a decode trap that still waits for its acceptance point (R210). -/
def State.raise (s : State) (c : Nat) (t : Trap) : State :=
  s.onCore c fun k => { k with trap := match k.trap with
    | some u => if u.decode && !t.decode then some t else some u
    | none => some t }

/-- A round-robin wait of `n` service cycles is seen on a path (R187): SPN_WAITMAX is raised. -/
def State.noteWait (s : State) (n : Nat) : State := s.setFld spnWaitmax 15 0 (max (s.fld spnWaitmax 15 0) (min n 0xFFFF))

end Sys2Proof.Machine
end

