-- ==== Sys2Proof/Machine/Flags.lean ====
section
/-!
DEFINITION. The flags of FLG (R52): a flag update names the flags it changes and their new values (R74).
-/
namespace Sys2Proof.Machine

/-- The bits of FLG (R52). -/
def flagZ : Nat := 0
def flagN : Nat := 1
def flagC : Nat := 2
def flagV : Nat := 3
def flagBIT : Nat := 4
def flagOVS : Nat := 5
def flagDC : Nat := 6

/-- The bits of FLG that exist (R52). -/
def flgMask : Word := 0x7F

/-- A flag update: which flags it names, and their values. -/
structure FlagUpd where
  mask : Word
  val  : Word
  deriving DecidableEq, Repr

/-- No flag is changed. -/
def noFlags : FlagUpd := ⟨0, 0⟩

/-- One more flag named. -/
def FlagUpd.with (u : FlagUpd) (f : Nat) (b : Bool) : FlagUpd := ⟨putBit u.mask f true, putBit u.val f b⟩

/-- Z and N of a result (R77): Z is 1 when it is zero, N is bit 39. -/
def flagsZN (r : Word) : FlagUpd := (noFlags.with flagZ (r == 0)).with flagN r.msb

/-- Z alone. -/
def flagsZ (z : Bool) : FlagUpd := noFlags.with flagZ z

/-- BIT alone. -/
def flagsBit (b : Bool) : FlagUpd := noFlags.with flagBIT b

/-- FLG after an update (R74). -/
def applyFlags (flg mask val : Word) : Word := (flg &&& ~~~mask) ||| (val &&& mask)

/-- The carry of an addition of two words and a carry in (R77). -/
def addCarry (o t : Word) (c : Bool) : Bool := decide (2 ^ 40 ≤ o.toNat + t.toNat + c.toNat)

/-- Signed overflow of an addition (R77). -/
def addOverflow (o t r : Word) : Bool := o.msb == t.msb && r.msb != o.msb

/-- No borrow in a subtraction with borrow in `b` (R77). -/
def subCarry (o t : Word) (b : Bool) : Bool := decide (t.toNat + b.toNat ≤ o.toNat)

/-- Signed overflow of a subtraction (R77). -/
def subOverflow (o t r : Word) : Bool := o.msb != t.msb && r.msb != o.msb

/-- Z, N, C and V. -/
def flagsZNCV (r : Word) (c v : Bool) : FlagUpd := ((flagsZN r).with flagC c).with flagV v

end Sys2Proof.Machine
end

