-- ==== Sys2Proof/Machine/Operands.lean ====
section
/-!
DEFINITION. The socket map of a core (R47, R48), the decode checks (R69), guards and predicates (R61 to R66), and
the operation that an instruction word issues.
-/
namespace Sys2Proof.Machine

/-- What a socket is (R47, R48). -/
inductive Sock where
  | rw | ro | wo | reserved
  | win (w : Nat)
  | core (k : Nat)
  | pred
  | trig (t : Trigger)
  deriving DecidableEq, Repr

/-- The ALU operation at trigger offset 0x08 + `k` (R76). -/
def aluOps : List AluOp :=
  [.add, .addc, .sub, .subc, .and, .or, .xor, .andn, .shl, .shr, .sar, .rol, .min, .max, .minu, .maxu, .neg, .abs,
    .pass, .sext, .dadj, .dadjl, .dsbj, .dsbjl]

/-- The MUL operations from offset 0x08 (R79). -/
def mulOps : List MulOp := [.mul, .mulu, .div, .divu, .rem, .remu]

/-- The BLU operations from offset 0x08 (R95): BSWAP is 0x0F. -/
def bluOps : List BluOp :=
  [.btst, .bset, .bclr, .binv, .bcnt, .bffs, .bext, .bswap, .bld, .bldn, .band, .bandn, .bor, .born, .bxor, .bout,
    .boutn, .bsetm, .bclrm, .btas, .btac, .bget, .bput]

/-- The LSU operations from offset 0x08 (R166). -/
def lsuOps : List LsuOp := [.ld, .st, .cax, .faa]

/-- The GTU triggers from offset 0x08 (R171). -/
def gtuOps : List GtuOp := [.gath, .gcan]

/-- The DSU operations from offset 0x08 (R103). -/
def dsuOps : List DsuOp :=
  [.dmovs, .dadds, .dsubs, .dcmps, .dmuld, .dshrs, .dshrt, .dsgn, .dcvtb, .dcvtd, .bmove, .bfill, .bscan, .bscann]

/-- The rounding mode of number m (R84). -/
def roundOf (m : Nat) : Round :=
  match m with
  | 0 => .trunc
  | 1 => .halfUp
  | 2 => .conv
  | _ => .zero

/-- The FXU operation at offset `o` of its block (R85). -/
def fxuOp (o : Nat) : Option FxuOp :=
  let n (x : Nat) : Fin 4 := Fin.ofNat 4 x
  if o < 0x08 then none
  else if o < 0x18 then some (.fmac (n ((o - 0x08) / 4)) (roundOf (o % 4)))
  else if o < 0x28 then some (.fmsu (n ((o - 0x18) / 4)) (roundOf (o % 4)))
  else if o < 0x38 then some (.fmpy (n ((o - 0x28) / 4)) (roundOf (o % 4)))
  else if o < 0x3C then some (.fadd (n (o - 0x38)))
  else if o < 0x40 then some (.fsub (n (o - 0x3C)))
  else if o < 0x44 then some (.fsts (n (o - 0x40)))
  else if o < 0x48 then some (.fstw (n (o - 0x44)))
  else if o < 0x58 then some (.fshr (n ((o - 0x48) / 4)) (roundOf (o % 4)))
  else none

/-- A trigger socket, or a reserved one where no operation is assigned. -/
def trigOr : Option Trigger → Sock
  | some t => .trig t
  | none => .reserved

/-- The socket at an offset of a short unit block: `rw` ports first, then `ro`, by the port table of R48. -/
def portOr (ports : List Sock) (o : Nat) (t : Option Trigger) : Sock :=
  if o < 8 then ports.getD o .reserved else trigOr t

/-- Unit number of a block pair. -/
def unitNo (b : Nat) : Fin 2 := Fin.ofNat 2 b

/-- The short sockets (R47): 0x000 to 0x0FF. -/
def sockShort (n : Nat) : Sock :=
  if n < 0x21 then .rw
  else if n = 0x21 then .wo
  else if n < 0x24 then .rw
  else if n < 0x28 then .reserved
  else if n < 0x2C then .win (n - 0x28)
  else if n < 0x30 then .reserved
  else if n = 0x30 then .ro
  else if n < 0x38 then .reserved
  else if n < 0x40 then
    trigOr (([.jmp, .call, .jmpa, .calla, .ret] : List CtlOp)[n - 0x38]?.map .ctl)
  else
    let o := n % 0x20
    if n < 0x80 then
      portOr [.rw, .ro] o (aluOps[o - 8]?.map (.alu (unitNo ((n - 0x40) / 0x20))))
    else if n < 0xC0 then
      portOr [.rw, .ro] o (lsuOps[o - 8]?.map (.lsu (unitNo ((n - 0x80) / 0x20))))
    else portOr [.rw, .ro, .rw] o (bluOps[o - 8]?.map (.blu (unitNo ((n - 0xC0) / 0x20))))

/-- The socket map (R47). -/
def sockOf (n : Nat) : Sock :=
  if n < 0x100 then sockShort n
  else if n < 0x140 then portOr [.rw, .ro, .ro] (n - 0x100) (mulOps[n - 0x108]?.map .mul)
  else if n < 0x1C0 then
    portOr [.rw, .ro, .rw, .rw, .rw, .rw] (n - 0x140) ((fxuOp (n - 0x140)).map (.fxu 0))
  else if n < 0x240 then
    portOr [.rw, .ro, .rw, .rw, .rw, .rw] (n - 0x1C0) ((fxuOp (n - 0x1C0)).map (.fxu 1))
  else if n < 0x280 then portOr [.rw, .ro, .ro] (n - 0x240) (gtuOps[n - 0x248]?.map .gtu)
  else if n < 0x300 then portOr [.rw, .rw, .rw, .rw, .ro] (n - 0x280) (dsuOps[n - 0x288]?.map .dsu)
  else if n < 0x340 then
    trigOr (([.fence, .iflush, .eret, .svc] : List CtlOp)[n - 0x300]?.map .ctl)
  else if n < 0x349 then .core (n - 0x340)
  else if n < 0x380 then .reserved
  else if n < 0x388 then .pred
  else .reserved

/-- The unit of a trigger (R31). -/
def unitOf : Trigger → FU
  | .alu u _ => if u = 0 then .alu0 else .alu1
  | .mul _ => .mul
  | .fxu u _ => if u = 0 then .fxu0 else .fxu1
  | .blu u _ => if u = 0 then .blu0 else .blu1
  | .lsu u _ => if u = 0 then .lsu0 else .lsu1
  | .gtu _ => .gtu
  | .dsu _ => .dsu
  | .ctl _ => .ctl

/-- The number of the socket a source names, if it names one. -/
def srcNum : Source → Option Nat
  | .sock n => some n.toNat
  | .imm _ => none

/-- A memory-window socket in the sense of DISP (R51): WIN0 to WIN3, the LSU triggers and GATH. -/
def windowSocket (n : Nat) : Bool :=
  match sockOf n with
  | .win _ => true
  | .trig (.lsu _ _) => true
  | .trig (.gtu .gath) => true
  | _ => false

/-- What the checks of R69 look at beside the word: the level, WIDTH and LOCK (R68). -/
structure Mode where
  lvl   : Nat
  width : Bool
  lock  : Bool
  deriving DecidableEq, Repr

/-- The trap a failed decode check raises: its code (R214) and socket. -/
structure Bad where
  code : Nat
  sk   : Nat
  deriving DecidableEq, Repr

/-- Rank 4 (R59, R64): guard code 15, or a nonzero DISP with no memory-window socket. -/
def checkEncoding (m : Mv) : Option Bad :=
  let named := windowSocket m.dst.toNat || (match srcNum m.src with
    | some n => windowSocket n
    | none => false)
  if m.guard = .long 15 ∨ (m.disp ≠ 0 ∧ !named) then some ⟨4, m.dst.toNat⟩ else none

/-- Rank 5 (R49): a reserved socket; a retired-operation trap for a destination from 0x400 to 0x5FF. -/
def checkReserved (m : Mv) : Option Bad :=
  let d := m.dst.toNat
  if sockOf d = .reserved then some ⟨if 0x400 ≤ d ∧ d < 0x600 then 5 else 6, d⟩
  else
    match srcNum m.src with
    | some n => if sockOf n = .reserved then some ⟨6, n⟩ else none
    | none => none

/-- Rank 6 (R44, R56, R47): a core register written, or P0 to P7 named, without the level for it. -/
def checkPrivilege (q : Mode) (m : Mv) : Option Bad :=
  let d := m.dst.toNat
  let user := !supervisor q.lvl
  let badDst := match sockOf d with
    | .core k => user || (k == 0 && q.lock)
    | .pred => user
    | _ => false
  if badDst then some ⟨3, d⟩
  else
    match srcNum m.src with
    | some n => if sockOf n = .pred ∧ user then some ⟨3, n⟩ else none
    | none => none

/-- Rank 7 (R29): a read-only socket written, or a write-only socket read. -/
def checkDirection (m : Mv) : Option Bad :=
  let d := m.dst.toNat
  if sockOf d = .ro then some ⟨7, d⟩
  else
    match srcNum m.src with
    | some n =>
      match sockOf n with
      | .wo => some ⟨7, n⟩
      | .trig _ => some ⟨7, n⟩
      | _ => none
    | none => none

/-- Rank 8 (R31): both moves name the same destination, or trigger sockets of the same unit. -/
def checkBundle : List Mv → Option Bad
  | [a, b] =>
    let same : Bool := match sockOf a.dst.toNat, sockOf b.dst.toNat with
      | .trig x, .trig y => decide (unitOf x = unitOf y)
      | _, _ => false
    if a.dst = b.dst ∨ same then some ⟨8, b.dst.toNat⟩ else none
  | _ => none

/-- The first failure of one rank over the moves, move A before move B. -/
def firstBad (f : Mv → Option Bad) : List Mv → Option Bad
  | [] => none
  | m :: ms =>
    match f m with
    | some b => some b
    | none => firstBad f ms

/-- The first of two failures. -/
def orBad (a : Option Bad) (b : Option Bad) : Option Bad :=
  match a with
  | some x => some x
  | none => b

/-- Ranks 2 and 3 (R63, R61): format 00 in fixed width, format 11 at user level. -/
def checkFormat (q : Mode) (f : Form) : Option Bad :=
  match f with
  | .pair _ _ da _ _ _ => if q.width then some ⟨2, da.toNat⟩ else none
  | .pred _ _ _ dst _ => if supervisor q.lvl then none else some ⟨3, dst.toNat⟩
  | _ => none

/-- The checks of R69 from rank 2 on: the trap of the highest rank, or none. -/
def decodeCheck (q : Mode) (f : Form) : Option Bad :=
  let ms := f.moves
  orBad (checkFormat q f) (orBad (firstBad checkEncoding ms) (orBad (firstBad checkReserved ms)
    (orBad (firstBad (checkPrivilege q) ms) (orBad (firstBad checkDirection ms) (checkBundle ms)))))

/-! ### Guards -/

/-- The long guard codes (R64). -/
def longGuard (flg : Word) (g : Nat) : Bool :=
  let z := bit flg flagZ
  let n := bit flg flagN
  let v := bit flg flagV
  match g with
  | 0 => true
  | 1 => z
  | 2 => !z
  | 3 => n
  | 4 => !n
  | 5 => bit flg flagC
  | 6 => !bit flg flagC
  | 7 => v
  | 8 => !v
  | 9 => n != v
  | 10 => n == v
  | 11 => !z && n == v
  | 12 => z || n != v
  | 13 => bit flg flagBIT
  | 14 => !bit flg flagBIT
  | _ => false

/-- The long code equal to a short guard code (R65). -/
def shortGuard (g : Nat) : Nat :=
  match g with
  | 6 => 13
  | 7 => 14
  | _ => g

/-- A guard or predicate against FLG and P0 to P7 (R61, R64, R65): with SENSE 0 the predicate must be 1. -/
def guardHolds (flg : Word) (p : Nat → Word) : Guard → Bool
  | .short g => longGuard flg (shortGuard g.toNat)
  | .long g => longGuard flg g.toNat
  | .pred sense n => (bit (p n.toNat) 0) != sense

/-! ### The operation a word issues -/

/-- The FXU operations by name. -/
inductive FxuKind where
  | fmac | fmsu | fmpy | fadd | fsub | fsts | fstw | fshr
  deriving DecidableEq, Repr

/-- The name of an FXU operation. -/
def fxuKind : FxuOp → FxuKind
  | .fmac _ _ => .fmac
  | .fmsu _ _ => .fmsu
  | .fmpy _ _ => .fmpy
  | .fadd _ => .fadd
  | .fsub _ => .fsub
  | .fsts _ => .fsts
  | .fstw _ => .fstw
  | .fshr _ _ => .fshr

/-- The core issue commands: what a word may issue. -/
inductive Op where
  | move | window | immh | coreMode
  | alu (op : AluOp) | mul (op : MulOp) | fxu (op : FxuKind) | blu (op : BluOp) | lsu (op : LsuOp) | gtu (op : GtuOp)
  | dsu (op : DsuOp) | ctl (op : CtlOp)
  deriving DecidableEq, Repr

/-- The operation of a trigger. -/
def trigOp : Trigger → Op
  | .alu _ op => .alu op
  | .mul op => .mul op
  | .fxu _ op => .fxu (fxuKind op)
  | .blu _ op => .blu op
  | .lsu _ op => .lsu op
  | .gtu op => .gtu op
  | .dsu op => .dsu op
  | .ctl op => .ctl op

/-- The operation of one move: its trigger, else a CORE_MODE write, an IMMH write, a window access, or a plain
move. -/
def mvOp (m : Mv) : Op :=
  match sockOf m.dst.toNat with
  | .trig t => trigOp t
  | .core 0 => .coreMode
  | .wo => .immh
  | .win _ => .window
  | _ =>
    match srcNum m.src with
    | some n =>
      match sockOf n with
      | .win _ => .window
      | _ => .move
    | none => .move

/-- The move triggers an operation. -/
def mvTriggers (m : Mv) : Bool :=
  match sockOf m.dst.toNat with
  | .trig _ => true
  | _ => false

/-- A word issues under the command `op`: one of its moves has that operation, and MOVE stands only for a word
without any other. -/
def issues (op : Op) (ms : List Mv) : Bool :=
  ms.any (fun m => decide (mvOp m = op)) && (op != .move || ms.all fun m => decide (mvOp m = .move))

end Sys2Proof.Machine
end

