-- ==== Sys2Proof/Machine/Arith.lean ====
section
/-!
DEFINITION. Word arithmetic: what the ALU, the MUL and the FXU compute (R72 to R91), and the register forms of the
BLU (R95, R96).
-/
namespace Sys2Proof.Machine

/-! ### Packed digits in one word -/

/-- Nibble `i` of a word (R87). -/
def nib (w : Word) (i : Nat) : Nat := bits w (4 * i + 3) (4 * i)

/-- The nibbles of a word, nibble 0 first. -/
def nibs (w : Word) : List Nat := (range 0 10).map (nib w)

/-- A word from nibbles, nibble 0 first. -/
def ofNibs : List Nat → Nat
  | [] => 0
  | d :: ds => d % 16 + 16 * ofNibs ds

/-- A valid digit (R88). -/
def isDigit (d : Nat) : Bool := d < 10

/-- An accepted sign code (R88). -/
def isSign (d : Nat) : Bool := 10 ≤ d

/-- An accepted sign is negative: 0xB and 0xD (R88). -/
def isMinus (d : Nat) : Bool := d == 11 || d == 13

/-- Digit by digit addition with carry, least significant digit first (R89). -/
def addDigits (c : Nat) : List Nat → List Nat → List Nat × Nat
  | a :: as, b :: bs =>
    let v := a + b + c
    let (r, k) := addDigits (if 10 ≤ v then 1 else 0) as bs
    ((if 10 ≤ v then v - 10 else v) :: r, k)
  | _, _ => ([], c)

/-- Digit by digit subtraction with borrow (R89). -/
def subDigits (c : Nat) : List Nat → List Nat → List Nat × Nat
  | a :: as, b :: bs =>
    let (r, k) := subDigits (if a < b + c then 1 else 0) as bs
    ((if a < b + c then a + 10 - b - c else a - b - c) :: r, k)
  | _, _ => ([], c)

/-- An ALU result: none is the invalid-digit fault (R91). -/
abbrev AluOut := Option (Word × FlagUpd)

/-- The result of a decimal operation on all ten nibbles (R89). -/
def decPlain (f : Nat → List Nat → List Nat → List Nat × Nat) (o t : Word) (dc : Bool) : AluOut :=
  if (nibs o).all isDigit && (nibs t).all isDigit then
    let (ds, c) := f dc.toNat (nibs o) (nibs t)
    let r := word (ofNibs ds)
    some (r, (flagsZ (r == 0)).with flagDC (c == 1))
  else none

/-- The result of a decimal operation on sign words (R90). -/
def decSigned (f : Nat → List Nat → List Nat → List Nat × Nat) (o t : Word) : AluOut :=
  let od := (nibs o).drop 1
  let td := (nibs t).drop 1
  if od.all isDigit && td.all isDigit && isSign (nib o 0) && isSign (nib t 0) then
    let (ds, c) := f 0 od td
    some (word (ofNibs ((if isMinus (nib o 0) then 0xD else 0xC) :: ds)),
      (flagsZ (ds.all (· == 0))).with flagDC (c == 1))
  else none

/-! ### ALU -/

/-- A result with Z, N, C and V. -/
def outZNCV (r : Word) (c v : Bool) : AluOut := some (r, flagsZNCV r c v)

/-- A result with Z and N. -/
def outZN (r : Word) : AluOut := some (r, flagsZN r)

/-- A shift's result: with count 0, C is unchanged (R78). -/
def outShift (k : Nat) (r : Word) (c : Bool) : AluOut :=
  some (r, if k = 0 then flagsZN r else (flagsZN r).with flagC c)

/-- Subtraction with borrow in (R76, R77). -/
def aluSub (o t : Word) (b : Bool) : AluOut :=
  let r := o - t - word b.toNat
  outZNCV r (subCarry o t b) (subOverflow o t r)

/-- O sign-extended from bit k (R78). -/
def sextFrom (o : Word) (k : Nat) : Word := if 39 ≤ k then o else wordI (signed (k + 1) o.toNat)

/-- The ALU operations (R76 to R78, R89, R90); `c` and `dc` are the flags as R73 samples them. -/
def aluOut (op : AluOp) (o t : Word) (c dc : Bool) : AluOut :=
  let k := bits t 5 0
  match op with
  | .add => outZNCV (o + t) (addCarry o t false) (addOverflow o t (o + t))
  | .addc => outZNCV (o + t + word c.toNat) (addCarry o t c) (addOverflow o t (o + t + word c.toNat))
  | .sub => aluSub o t false
  | .subc => aluSub o t (!c)
  | .and => outZN (o &&& t)
  | .or => outZN (o ||| t)
  | .xor => outZN (o ^^^ t)
  | .andn => outZN (o &&& ~~~t)
  | .shl => outShift k (o <<< k) (k ≤ 40 && bit o (40 - k))
  | .shr => outShift k (o >>> k) (k ≤ 40 && bit o (k - 1))
  | .sar => outShift k (o.sshiftRight k) (if k ≤ 40 then bit o (k - 1) else o.msb)
  | .rol => outZN (o.rotateLeft (k % 40))
  | .min => outZN (if o.toInt ≤ t.toInt then o else t)
  | .max => outZN (if o.toInt ≤ t.toInt then t else o)
  | .minu => outZN (if o.toNat ≤ t.toNat then o else t)
  | .maxu => outZN (if o.toNat ≤ t.toNat then t else o)
  | .neg => aluSub 0 t false
  | .abs =>
    let r := if t.msb then 0 - t else t
    some (r, (flagsZN r).with flagV (t == 0x8000000000))
  | .pass => outZN t
  | .sext => outZN (sextFrom o k)
  | .dadj => decPlain addDigits o t dc
  | .dadjl => decSigned addDigits o t
  | .dsbj => decPlain subDigits o t dc
  | .dsbjl => decSigned subDigits o t

/-! ### MUL -/

/-- R, RH and flags of a signed division (R79, R80); T is not zero. `q` selects the quotient for R. -/
def mulSigned (o t : Word) (q : Bool) : Word × Word × FlagUpd :=
  let quo := wordI (o.toInt.tdiv t.toInt)
  let rem := wordI (o.toInt.tmod t.toInt)
  let r := if q then quo else rem
  (r, if q then rem else quo, (flagsZN r).with flagV (o == 0x8000000000 && t == 0xFFFFFFFFFF))

/-- R, RH and flags of an unsigned division (R79). -/
def mulUnsigned (o t : Word) (q : Bool) : Word × Word × FlagUpd :=
  let quo := word (o.toNat / t.toNat)
  let rem := word (o.toNat % t.toNat)
  let r := if q then quo else rem
  (r, if q then rem else quo, flagsZN r)

/-- The MUL operations (R79, R80); a divide or remainder by zero is the divide fault and has no result. -/
def mulOut (op : MulOp) (o t : Word) : Option (Word × Word × FlagUpd) :=
  match op with
  | .mul =>
    let p := o.toInt * t.toInt
    let r := wordI p
    some (r, wordI (p / 2 ^ 40), (flagsZN r).with flagV (decide (r.toInt ≠ p)))
  | .mulu =>
    let p := o.toNat * t.toNat
    let r := word p
    some (r, word (p / 2 ^ 40), (flagsZN r).with flagV (decide (p / 2 ^ 40 ≠ 0)))
  | .div => if t = 0 then none else some (mulSigned o t true)
  | .divu => if t = 0 then none else some (mulUnsigned o t true)
  | .rem => if t = 0 then none else some (mulSigned o t false)
  | .remu => if t = 0 then none else some (mulUnsigned o t false)

/-- The divide and remainder operations, which stall (R38). -/
def isDivide : MulOp → Bool
  | .mul => false
  | .mulu => false
  | _ => true

/-! ### FXU -/

/-- A word read as a fraction: the signed integer in bits 31:0 (R82). -/
def frac (w : Word) : Int := signed 32 w.toNat

/-- x / d rounded in mode m, d positive (R84). -/
def roundDiv (m : Round) (x : Int) (d : Nat) : Int :=
  let q := x / (d : Int)
  let r := x % (d : Int)
  match m with
  | .trunc => q
  | .halfUp => if (d : Int) ≤ 2 * r then q + 1 else q
  | .conv => if 2 * r < (d : Int) then q else if (d : Int) < 2 * r then q + 1 else if q % 2 = 0 then q else q + 1
  | .zero => if x < 0 ∧ r ≠ 0 then q + 1 else q

/-- round_m(O × T) in units of 2^−31 (R84). -/
def fxuProduct (m : Round) (o t : Word) : Int := roundDiv m (frac o * frac t) (2 ^ 31)

/-- An accumulator takes the nearest limit of its range; the flag says whether it saturated (R83). -/
def saturate (x : Int) : Word × Bool :=
  if x < -(2 ^ 39 : Int) then (0x8000000000, true)
  else if (2 ^ 39 : Int) ≤ x then (0x7FFFFFFFFF, true)
  else (wordI x, false)

/-- What an FXU operation does: its accumulator, the accumulator's new value, R if it is written, and flags. -/
structure FxuOut where
  acc : Word
  r   : Option Word
  fl  : FlagUpd
  deriving DecidableEq, Repr

/-- An accumulator result that may saturate: OVS is only ever set (R83). -/
def fxuSat (x : Int) : FxuOut :=
  let (v, sat) := saturate x
  ⟨v, none, if sat then noFlags.with flagOVS true else noFlags⟩

/-- The FXU operations on an accumulator value (R85). -/
def fxuOut (op : FxuOp) (f o t : Word) : FxuOut :=
  match op with
  | .fmac _ m => fxuSat (f.toInt + fxuProduct m o t)
  | .fmsu _ m => fxuSat (f.toInt - fxuProduct m o t)
  | .fmpy _ m => ⟨wordI (fxuProduct m o t), none, noFlags⟩
  | .fadd _ => fxuSat (f.toInt + frac t)
  | .fsub _ => fxuSat (f.toInt - frac t)
  | .fsts _ =>
    let clamp := decide (f.toInt < -(2 ^ 31 : Int)) || decide ((2 ^ 31 : Int) ≤ f.toInt)
    let r := if f.toInt < -(2 ^ 31 : Int) then wordI (-(2 ^ 31)) else if (2 ^ 31 : Int) ≤ f.toInt then wordI (2 ^ 31 - 1)
      else f
    ⟨f, some r, if clamp then (flagsZN r).with flagOVS true else flagsZN r⟩
  | .fstw _ =>
    let r := wordI (frac f)
    ⟨f, some r, flagsZN r⟩
  | .fshr _ m => ⟨wordI (roundDiv m f.toInt (2 ^ bits t 3 0)), none, noFlags⟩

/-- The accumulator an FXU operation names. -/
def fxuAcc : FxuOp → Nat
  | .fmac n _ => n
  | .fmsu n _ => n
  | .fmpy n _ => n
  | .fadd n => n
  | .fsub n => n
  | .fsts n => n
  | .fstw n => n
  | .fshr n _ => n

/-- FSTS and FSTW write R (R85). -/
def fxuStores : FxuOp → Bool
  | .fsts _ => true
  | .fstw _ => true
  | _ => false

/-! ### BLU register forms -/

/-- The number of 1 bits in a word. -/
def popcount (w : Word) : Nat := ((range 0 40).filter fun i => bit w i).length

/-- The index of the lowest 1 bit, or 40 (R95 BFFS). -/
def lowest (w : Word) : Nat := ((range 0 40).filter fun i => bit w i).headD 40

/-- The register forms of the BLU (R95, R96): none is the bit-address fault. A memory form has no register result. -/
def bluOut (op : BluOp) (o t : Word) : Option (Word × FlagUpd) :=
  let k := bits t 5 0
  let w := bits t 11 6
  match op with
  | .btst => if 40 ≤ k then none else some (o, flagsBit (bit o k))
  | .bset => if 40 ≤ k then none else some (putBit o k true, flagsBit (bit o k))
  | .bclr => if 40 ≤ k then none else some (putBit o k false, flagsBit (bit o k))
  | .binv => if 40 ≤ k then none else some (putBit o k (!bit o k), flagsBit (bit o k))
  | .bcnt => some (word (popcount o), flagsZ (popcount o == 0))
  | .bffs => some (word (lowest o), flagsZ (o == 0))
  | .bext =>
    if w = 0 ∨ 40 < k + w then none
    else
      let r := word (bits o (k + w - 1) k)
      some (r, flagsZ (r == 0))
  | .bswap =>
    if 40 ≤ k ∨ 40 ≤ w then none
    else some (putBit (putBit o k (bit o w)) w (bit o k), flagsBit (bit o k != bit o w))
  | _ => none

/-- The register forms of the BLU: offsets 0x08 to 0x0F (R95). -/
def bluReg : BluOp → Bool
  | .btst => true
  | .bset => true
  | .bclr => true
  | .binv => true
  | .bcnt => true
  | .bffs => true
  | .bext => true
  | .bswap => true
  | _ => false

/-- The memory forms of the BLU that store through the store buffer (R99). -/
def bluStores : BluOp → Bool
  | .bout => true
  | .boutn => true
  | .bsetm => true
  | .bclrm => true
  | .bput => true
  | _ => false

/-- The atomics of the BLU (R100). -/
def bluAtomic : BluOp → Bool
  | .btas => true
  | .btac => true
  | _ => false

/-- The forms of the BLU that carry a width in T[31:26] (R92). -/
def bluWide : BluOp → Bool
  | .bget => true
  | .bput => true
  | _ => false

end Sys2Proof.Machine
end

