-- ==== Sys2Proof/Machine/Decimal.lean ====
section
/-!
DEFINITION. Packed-digit strings (R87, R88): reading a string as a number, writing a number as a string, and what
the decimal operations of the DSU compute (R103, R104).
-/
namespace Sys2Proof.Machine

/-- The words of a string of n digits (R87). -/
def strWords (n : Nat) : Nat := ceilDiv (n + 1) 10

/-- A word of a string is valid: FCODE 0, 1 for a digit, 2 for a sign (R105). `last` marks the sign word. Where both
a digit and the sign are bad the spec does not order them; `pick` chooses (log entry 4). -/
def wordFcode (last pick : Bool) (w : Word) : Nat :=
  let digitBad := !((nibs w).drop (if last then 1 else 0)).all isDigit
  let signBad := last && !isSign (nib w 0)
  if digitBad && signBad then if pick then 1 else 2
  else if digitBad then 1
  else if signBad then 2
  else 0

/-- The digits of a string's words, least significant first; the last word comes last in `ws`. -/
def strDigits (ws : List Word) : List Nat :=
  match ws.reverse with
  | [] => []
  | w :: more => (nibs w).drop 1 ++ more.flatMap nibs

/-- A number from digits, least significant first. -/
def ofDigits : List Nat → Nat
  | [] => 0
  | d :: ds => d + 10 * ofDigits ds

/-- The value of a valid string of n digits: its low n digits with its sign (R87). -/
def strValue (n : Nat) (ws : List Word) : Int :=
  let v := ofDigits ((strDigits ws).take n)
  if isMinus (nib (ws.getLastD 0) 0) then -(v : Int) else v

/-- The n low digits of a number, least significant first. -/
def toDigits : Nat → Nat → List Nat
  | 0, _ => []
  | n + 1, v => v % 10 :: toDigits n (v / 10)

/-- Nibbles grouped into `k` words, least significant word first. -/
def packNibs : Nat → List Nat → List Word
  | 0, _ => []
  | k + 1, ds => word (ofNibs (ds.take 10)) :: packNibs k (ds.drop 10)

/-- The string of n digits that holds the low n digits of a value, with the sign of the exact value (R88, R104). -/
def toStr (n : Nat) (v : Int) : List Word :=
  (packNibs (strWords n) ((if v < 0 then 0xD else 0xC) :: toDigits n v.natAbs)).reverse

/-- A result needs more than n digits (R104). -/
def strOverflow (n : Nat) (v : Int) : Bool := decide (10 ^ n ≤ v.natAbs)

/-- Z and N of a stored string (R104): all n digits zero; the stored sign negative. -/
def strFlags (n : Nat) (v : Int) : FlagUpd :=
  (flagsZ (decide (v.natAbs % 10 ^ n = 0))).with flagN (decide (v < 0))

/-- v / 10^s truncated toward zero, or rounded half away from zero (R103 DSHRT, DSHRS). -/
def shiftDec (half : Bool) (v : Int) (s : Nat) : Int :=
  let q := if half then (2 * v.natAbs + 10 ^ s) / (2 * 10 ^ s) else v.natAbs / 10 ^ s
  if v < 0 then -(q : Int) else q

/-- A decimal result written to [DY]n: words, DA, flags; `ov` says that the operation sets V (R104). -/
def strResult (n : Nat) (ov : Bool) (v : Int) : DsuResult :=
  let ws := toStr n v
  let fl := strFlags n v
  let fl := if ov then fl.with flagV (strOverflow n v) else fl
  ⟨ws, some (ws.getLastD 0), fl.mask, fl.val, 0, 0⟩

/-- What a decimal operation computes from valid operands: `x` is [DX]m, `y` is [DY]n (R103, R104). -/
def dsuCompute (op : DsuOp) (n : Nat) (x y : Int) (da : Word) : DsuResult :=
  match op with
  | .dmovs => strResult n true x
  | .dadds => strResult n true (y + x)
  | .dsubs => strResult n true (y - x)
  | .dcmps =>
    let fl := ((flagsZ (decide (y = x))).with flagN (decide (y < x))).with flagV false
    ⟨[], none, fl.mask, fl.val, 0, 0⟩
  | .dmuld => strResult n true (x * strValue 9 [da])
  | .dshrs => strResult n false (shiftDec true y (bits da 6 0))
  | .dshrt => strResult n false (shiftDec false y (bits da 6 0))
  | .dcvtb =>
    let r := wordI x
    let fl := (flagsZN r).with flagV (decide (r.toInt ≠ x))
    ⟨[], some r, fl.mask, fl.val, 0, 0⟩
  | .dcvtd => strResult n true da.toInt
  | _ => ⟨[], none, 0, 0, 0, 0⟩

/-- The strings an operation reads (R128): DX, DY. -/
def readsDX : DsuOp → Bool
  | .dmovs => true
  | .dadds => true
  | .dsubs => true
  | .dcmps => true
  | .dmuld => true
  | .dcvtb => true
  | .bmove => true
  | .bscan => true
  | .bscann => true
  | _ => false

/-- The operations that read [DY] (R128). -/
def readsDY : DsuOp → Bool
  | .dadds => true
  | .dsubs => true
  | .dcmps => true
  | .dshrs => true
  | .dshrt => true
  | _ => false

/-- The operations that write [DY]n as a string (R103). -/
def writesDY : DsuOp → Bool
  | .dmovs => true
  | .dadds => true
  | .dsubs => true
  | .dmuld => true
  | .dshrs => true
  | .dshrt => true
  | .dcvtd => true
  | _ => false

/-- The block operations (R106). -/
def isBlock : DsuOp → Bool
  | .bmove => true
  | .bfill => true
  | .bscan => true
  | .bscann => true
  | _ => false

/-- The operations that use the source length M (R105). -/
def usesM : DsuOp → Bool
  | .dmovs => true
  | .dadds => true
  | .dsubs => true
  | .dcmps => true
  | .dmuld => true
  | .dcvtb => true
  | _ => false

/-- The operations that use the destination length N (R105). -/
def usesN (op : DsuOp) : Bool := op != .dcvtb && !isBlock op

/-- The steps from the trigger to the step in which issue resumes (R103); `j` is the number of words a scan
examines. -/
def dsuSteps (op : DsuOp) (m n k j : Nat) : Nat :=
  let wm := strWords m
  let wn := strWords n
  match op with
  | .dmovs => 4 + wm + wn
  | .dadds => 6 + wm + 2 * wn
  | .dsubs => 6 + wm + 2 * wn
  | .dcmps => 5 + wm + wn
  | .dmuld => 8 + wm + 10 * wn
  | .dshrs => 6 + 2 * wn
  | .dshrt => 6 + 2 * wn
  | .dsgn => 3
  | .dcvtb => 5 + 3 * wm
  | .dcvtd => 6 + 4 * wn
  | .bmove => 3 + 2 * k
  | .bfill => 3 + k
  | .bscan => 3 + j
  | .bscann => 3 + j

/-- The trigger offset of a DSU operation (R103). -/
def dsuOffset (op : DsuOp) : Nat := 8 + dsuOps.findIdx (· == op)

end Sys2Proof.Machine
end

