-- ==== Sys2Proof/Machine/Stores.lean ====
section
/-!
DEFINITION. The store buffer (R123 to R126, R189, R193): entering, retiring, performing, and what a load finds there.
-/
namespace Sys2Proof.Machine

/-- What a load finds in the buffer (R125): no entry, the youngest full-word entry, or the position of the youngest
partial store. -/
inductive Hit where
  | none
  | full (w : Word)
  | part (p : Nat)
  deriving DecidableEq, Repr

/-- The comparison of a load with the buffer, positions counted from `p` (R125). -/
def bufHit (a : Nat) : Nat → List Store → Hit → Hit
  | _, [], h => h
  | p, st :: l, h =>
    if st.addr ≠ a then bufHit a (p + 1) l h
    else if st.part then bufHit a (p + 1) l (.part p)
    else
      match h with
      | .part q => bufHit a (p + 1) l (.part q)
      | _ => bufHit a (p + 1) l (.full st.data)

/-- The position of the youngest entry for a word, which an atomic overlaps (R193). -/
def bufLast (a : Nat) : Nat → List Store → Option Nat → Option Nat
  | _, [], h => h
  | p, st :: l, h => bufLast a (p + 1) l (if st.addr = a then some p else h)

/-- A store is placed by the step in which it enters, and in trigger order among those that enter in one step (R123). -/
def insertStore (st : Store) : List Store → List Store
  | [] => [st]
  | e :: l => if st.entered < e.entered ∨ (e.entered = st.entered ∧ st.trig < e.trig) then st :: e :: l else e :: insertStore st l

/-- The step in which the head of the buffer retires (R124): the earliest at least 2 after its entry and after the step of
the retirement ahead of it. -/
def Core.retireStep (k : Core) (st : Store) : Nat := max (st.entered + 2) (k.lastRet + 1)

/-- The entries that the buffer still holds at the end of step `e` (R126): its head is gone when it retires by then. -/
def Core.heldAt (k : Core) (e : Nat) : Nat :=
  match k.buffer with
  | [] => 0
  | st :: l => if k.retireStep st ≤ e then l.length else l.length + 1

/-- A store enters the buffer of core `c`. A fifth entry at the end of its step may be lost, or may replace a buffered
store: a free choice (R126, log entry 4). -/
def State.enterStore (s : State) (c : Nat) (st : Store) : State :=
  let k := s.core c
  if k.heldAt st.entered < 4 then s.setCore c { k with buffer := insertStore st k.buffer }
  else if Config.freeBool s.free then s.spend
  else (s.setCore c { k with buffer := k.buffer.set (Config.freeNat s.free % 4) st }).spend

/-- The mask of `w` bits from bit `lo` upward. -/
def maskBits (lo w : Nat) : Word := word ((2 ^ w - 1) <<< lo)

/-- A full-word store. -/
def fullStore (a : Nat) (v : Word) (t e : Nat) : Store := ⟨a, v, maskBits 0 40, false, t, e, 0⟩

/-- A partial store of `w` bits from bit `lo`; all 40 bits are a full-word store (R99). -/
def partStore (a : Nat) (lo w : Nat) (v : Word) (t e : Nat) : Store :=
  ⟨a, v <<< lo, maskBits lo w, !(lo == 0 && w == 40), t, e, 0⟩

/-- The store that a BLU operation in flight will make, with its known data (R98). -/
def Flight.store (f : Flight) : Option Store :=
  match f.act with
  | .bit _ op a lo w o _ =>
    if bluStores op then some (partStore a lo (if bluWide op then w else 1) o f.trig f.due) else none
  | _ => none

/-- The stores that BLU operations in flight will enter in step `t` (R125). -/
def dueStores (t : Nat) (l : List Flight) : List Store :=
  l.filterMap fun f => if f.due = t then f.store else none

/-- The buffer that a load triggered in step `t` is compared with (R125). -/
def Core.bufferAt (k : Core) (t : Nat) : List Store := (dueStores t k.flights).foldl (fun b st => insertStore st b) k.buffer

/-- The head of the buffer retires (R124): in the earliest step at least 2 after its entry and after the step of the
retirement ahead of it; `l` is the latency of its target. -/
def Core.retire (k : Core) (l : Nat → Nat) : Core :=
  match k.buffer with
  | [] => k
  | st :: rest =>
    let r := k.retireStep st
    { k with buffer := rest, retired := k.retired ++ [{ st with due := r + l st.addr - 1 }], lastRet := r }

/-- A store is performed at its target (R124, R176). -/
def State.perform (s : State) (c : Nat) (st : Store) : State :=
  if st.part then s.pokeMask c (s.tenant c) st.addr st.data st.mask else s.poke st.addr st.data

/-- The target path of an address (R178): a bank, a commons path, a scratchpad; another quire's inbound port. -/
def pathOf (c a : Nat) : Nat :=
  match target c a with
  | some .rq => 0x10000 + a / 0x80000
  | some .cm => 0x20000 + (a - 0x1000000) / 0x40000
  | some .sp => 0x30000
  | _ => a / 0x8000

/-- The steps at which the entries of a buffer retire, from the last retirement on (R124). -/
def retireSteps (last : Nat) : List Store → List (Nat × Store)
  | [] => []
  | st :: l =>
    let r := max (st.entered + 2) (last + 1)
    (r, st) :: retireSteps r l

/-- The buffer with every store that BLU operations in flight will still enter, placed as R123 places them. -/
def Core.allStores (k : Core) : List Store :=
  (k.flights.filterMap Flight.store).foldl (fun b st => insertStore st b) k.buffer

/-- P of R127: the latest step in which a store in the buffer at the end of step `t`, or one retired and not performed,
is performed. A BLU store triggered before the fence that enters later counts too, since R190 has every such store performed
before what follows the fence (log entry 77). -/
def State.lastPerform (s : State) (c : Nat) : Nat :=
  let k := s.core c
  let inBuf := (retireSteps k.lastRet k.allStores).map fun x => x.1 + s.latency c x.2.addr - 1
  (inBuf ++ k.retired.map (·.due)).foldl max 0

/-- One store applied to a word. -/
def Store.onto (st : Store) (w : Word) : Word := (w &&& ~~~st.mask) ||| (st.data &&& st.mask)

/-- A word as the core's own later reads see it: memory with the core's earlier stores that are not yet performed
(R189). `l` are those stores, oldest first. -/
def State.overlay (s : State) (l : List Store) (a : Nat) : Word :=
  l.foldl (fun w st => if st.addr = a then st.onto w else w) (s.peek a)

/-- A word with every unperformed store of core `c`. -/
def State.own (s : State) (c a : Nat) : Word := s.overlay ((s.core c).retired ++ (s.core c).buffer) a

/-- Every retired store is performed, then every buffered one, in order. -/
def State.drain (s : State) (c : Nat) : State :=
  let k := s.core c
  (k.retired ++ k.buffer).foldl (fun s st => s.perform c st)
    (s.setCore c { k with retired := [], buffer := [], lastRet := (retireSteps k.lastRet k.buffer).foldl (fun a x => max a x.1) k.lastRet })

/-- Retired stores whose step of R124 is at most `step` are performed. -/
def State.performDue (s : State) (c step : Nat) : State :=
  let k := s.core c
  (k.retired.filter fun st => st.due ≤ step).foldl (fun s st => s.perform c st)
    (s.setCore c { k with retired := k.retired.filter fun st => step < st.due })

/-- The buffer advanced to a step: entries retire, and retired stores are performed, as R124 times them. `n` bounds
the entries. -/
def State.settle (s : State) (c step : Nat) : Nat → State
  | 0 => s.performDue c step
  | n + 1 =>
    let k := s.core c
    match k.buffer with
    | [] => s.performDue c step
    | st :: _ =>
      if k.retireStep st ≤ step then
        State.settle (s.setCore c (k.retire (s.latency c))) c step n
      else s.performDue c step

/-- A store that the DSU makes in step `step` (R107, R123): the buffer is advanced to that step first. -/
def State.dsuStore (s : State) (c step : Nat) (st : Store) : State := (s.settle c step 4).enterStore c st

end Sys2Proof.Machine
end

