-- ==== Sys2Proof/Machine/Beside.lean ====
section
/-!
DEFINITION. What goes on in a core beside the issue of words, step by step: the elements a gather issues (R172) and the
operand words a decimal string operation reads (R104, R105). Steps pass through `State.charge` (Take.lean), which runs
both up to the step it reaches.
-/
namespace Sys2Proof.Machine

/-! ### Reads through the core's own stores -/

/-- The target's word as a core's access gets it (R176, R189): memory with the core's `older` stores that have retired and
are not yet performed; none where memory's word is uncorrectable and no full-word store of those covers it. -/
def State.targetWord (s : State) (c t a : Nat) (older : List Store) : State × Option Word :=
  if older.any fun st => st.addr == a && !st.part then (s, some (s.overlay older a))
  else
    match s.meet 2 c t a with
    | (s, true) => (s, some (s.overlay older a))
    | (s, false) => (s, none)

/-- The core reads a word as a load would see it (R125, R107): none where memory's word is uncorrectable and no
full-word store of the core covers it. -/
def State.readOwn (s : State) (c t a : Nat) : State × Option Word :=
  s.targetWord c t a ((s.core c).retired ++ (s.core c).buffer)

/-! ### Gather elements -/

/-- The buffer that an element of a gather triggered in step `t` meets in step `n` (R125): a store triggered later keeps its
place in it and is not seen. -/
def Core.bufferFor (k : Core) (t n : Nat) : List Store :=
  (k.bufferAt n).map fun st => if st.trig < t then st else { st with addr := 2 ^ 28 }

/-- The element is not issued: no later one is (R173). -/
def Elem.stops : Elem → Bool
  | .read _ _ _ => false
  | _ => true

/-- No further element of the gather is issued. -/
def GatherRun.allIssued (g : GatherRun) : Bool :=
  decide (g.n ≤ g.k + g.elems.length) || g.elems.any Elem.stops

/-- One more element issued in step `g.next`. -/
def GatherRun.push (g : GatherRun) (e : Elem) : GatherRun :=
  { g with elems := g.elems ++ [e], next := g.next + 1, again := false }

/-- The next element of a gather is issued (R172, R173): its index word is read, its address checked and compared with the
store buffer. A partial store in the buffer stalls the core for 3 + p steps, after which the element is issued without
a second stall (R125): the answer's last part is p. -/
def State.issueElem (s : State) (c t : Nat) (g : GatherRun) : State × GatherRun × Option Nat :=
  let v := (s.seg t g.vseg).phys s.frame g.voff + (g.k + g.elems.length)
  match s.meet 2 c t v with
  | (s, false) => (s, g.push (.fault 15 (word v)), none)
  | (s, true) =>
    match s.access t g.bseg .read .gtu (g.boff + signed 20 (bits (s.peek v) 19 0)) with
    | .error d => (s, g.push (.fault 9 d), none)
    | .ok a =>
      if target c a = none then (s, g.push (.gone a), none)
      else
        match bufHit a 1 ((s.core c).bufferFor g.trig g.next) .none with
        | .full w => (s, g.push (.read a g.next (.buffered w)), none)
        | .none => (s, g.push (.read a g.next .target), none)
        | .part p =>
          if g.again then (s, g.push (.read a g.next .target), none)
          else (s, { g with next := g.next + 3 + p, base := g.base + 3 + p, again := true }, some p)

/-- The elements of one gather that are issued before step `upto`, and the stall they meet: its step and p. -/
def State.issueElems (s : State) (c t upto : Nat) : Nat → GatherRun → State × GatherRun × Option (Nat × Nat)
  | 0, g => (s, g, none)
  | n + 1, g =>
    if g.allIssued ∨ upto ≤ g.next then (s, g, none)
    else
      match s.issueElem c t g with
      | (s, g', none) => State.issueElems s c t upto n g'
      | (s, g', some p) =>
        let (s, g', _) := State.issueElems s c t upto n g'
        (s, g', some (g.next, p))

/-- Every gather's elements that are issued before step `upto`. -/
def State.issueGathers (s : State) (c t upto : Nat) : List GatherRun → State × List GatherRun × List Hold
  | [] => (s, [], [])
  | g :: l =>
    let (s, g, h) := s.issueElems c t upto 18 g
    let (s, l, hs) := State.issueGathers s c t upto l
    (s, g :: l, (match h with
      | some (n, p) => [Hold.gather n p]
      | none => []) ++ hs)

/-- The hold is a stall of R38, which an acceptance abandons. -/
def Hold.stalls : Hold → Bool
  | .fence _ => false
  | _ => true

/-- A stall of R38 holds issue. -/
def Core.stalled (k : Core) : Bool := k.hold.any Hold.stalls

/-- The GTU up to step `upto` (R172): the word that would issue next waits for an element's partial overlap (R125). -/
def State.gatherTick (s : State) (c upto : Nat) : State :=
  if (s.core c).gathers = [] then s
  else
    let (s, gs, hs) := s.issueGathers c (s.tenant c) upto (s.core c).gathers
    s.onCore c fun k =>
      { k with gathers := gs, hold := k.hold ++ hs, holdPc := if hs = [] || k.stalled then k.holdPc else k.pc }

/-! ### DSU operands -/

/-- The DSU ports of a context. -/
def sockDA : Nat := 0x280
def sockDX : Nat := 0x281
def sockDY : Nat := 0x282
def sockDC : Nat := 0x283
def sockDS : Nat := 0x284

/-- A fault in the form of a result (R105). -/
def dsuFault (fcode : Nat) (detail : Word) : DsuResult := ⟨[], none, 0, 0, fcode, detail⟩

/-- What checking a run of words found (R105): all good; the first fault with its FCODE and DETAIL; or a word whose physical
address does not exist. -/
inductive ReadOut where
  | ok
  | bad (fcode : Nat) (detail : Word)
  | gone (a : Nat)
  deriving DecidableEq, Repr

/-- The first of `n` words from an offset that fails its segment check (R164), as DETAIL; or an absent physical
address. -/
def State.checkRun (s : State) (c t g off n : Nat) (need : Need) : ReadOut :=
  if n = 0 then .ok
  else
    let d := s.seg t g
    match d.check (s.level t) need .dsu off with
    | some r => .bad 4 (segDetail r g off)
    | none =>
      if target c (d.phys s.frame off) = none then .gone (d.phys s.frame off)
      else if d.limit < off + n then .bad 4 (segDetail 5 g d.limit)
      else .ok

/-- DA's own check (R105): a signed 9-digit sign word for DMULD, an accepted sign for DSGN. -/
def daFcode (op : DsuOp) (pick : Bool) (da : Word) : Nat :=
  match op with
  | .dmuld => wordFcode true pick da
  | .dsgn => if isSign (nib da 0) then 0 else 2
  | _ => 0

/-- The segment check for writing on every destination word (R105). -/
def State.checkDest (s : State) (op : DsuOp) (c t n : Nat) (y : Word) : ReadOut :=
  if writesDY op then s.checkRun c t (bits y 23 20) (bits y 19 0) (strWords n) .write
  else if op = .dsgn then s.checkRun c t (bits y 23 20) (bits y 19 0 + strWords n - 1) 1 .write
  else .ok

/-- The outcome of a string operation is known. -/
def DsuRun.found (r : DsuRun) (res : DsuResult) : DsuRun := { r with rd := { r.rd with res := some res } }

/-- The words of DX and of DY that a string operation reads (R128): M and N from DC_CNT. -/
def wordsX (op : DsuOp) (dc : Word) : Nat := if readsDX op then strWords (bits dc 14 8) else 0
def wordsY (op : DsuOp) (dc : Word) : Nat := if readsDY op then strWords (bits dc 6 0) else 0

/-- All operand words are good (R104, R105): DA and the destination are checked, then the result is formed. -/
def State.formResult (s : State) (c t : Nat) (r : DsuRun) : State × DsuRun :=
  let dc := s.sock t sockDC
  let da := s.sock t sockDA
  let f := daFcode r.op (Config.freeBool s.free) da
  if f ≠ 0 then (s.spend, r.found (dsuFault f (word f)))
  else
    match s.checkDest r.op c t (bits dc 6 0) (s.sock t sockDY) with
    | .gone a => (s, { r with rd := { r.rd with gone := some a } })
    | .bad f d => (s, r.found (dsuFault f d))
    | .ok => (s, r.found (dsuCompute r.op (bits dc 6 0) (strValue (bits dc 14 8) r.rd.xs) (strValue (bits dc 6 0) r.rd.ys) da))

/-- One operand word is read in step `r.rd.next` (R105, R107, R125): its segment check, the store buffer, then its nibbles.
`last` marks the string's last word; `put` adds a good word. -/
def State.readOperand (s : State) (c t : Nat) (r : DsuRun) (g off : Nat) (last : Bool) (put : DsuRead → Word → DsuRead) :
    State × DsuRun :=
  let take (s : State) (w : Word) : State × DsuRun :=
    let f := wordFcode last (Config.freeBool s.free) w
    if f ≠ 0 then (s.spend, r.found (dsuFault f (word f)))
    else (s, { r with rd := { put r.rd w with next := r.rd.next + 1, again := false } })
  let fromTarget (a : Nat) : State × DsuRun :=
    match s.targetWord c t a (s.core c).retired with
    | (s, none) => (s, r.found (dsuFault 6 (word a)))
    | (s, some w) => take s w
  match s.access t g .read .dsu off with
  | .error d => (s, r.found (dsuFault 4 d))
  | .ok a =>
    if target c a = none then (s, { r with rd := { r.rd with gone := some a } })
    else
      match bufHit a 1 ((s.core c).bufferAt r.rd.next) .none with
      | .full w => take s w
      | .none => fromTarget a
      | .part p =>
        if r.rd.again then fromTarget a
        else (s, { r with resume := r.resume + 3 + p, rd := { r.rd with next := r.rd.next + 3 + p, again := true } })

/-- One step of the reading phase of a decimal string operation (R105): the words of DX, then those of DY, then the
result. -/
def State.dsuStep (s : State) (c t : Nat) (r : DsuRun) : State × DsuRun :=
  let dc := s.sock t sockDC
  let x := s.sock t sockDX
  let y := s.sock t sockDY
  let i := r.rd.xs.length
  let j := r.rd.ys.length
  if i < wordsX r.op dc then
    s.readOperand c t r (bits x 23 20) (bits x 19 0 + i) (i + 1 == wordsX r.op dc) fun d w => { d with xs := d.xs ++ [w] }
  else if j < wordsY r.op dc then
    s.readOperand c t r (bits y 23 20) (bits y 19 0 + j) (j + 1 == wordsY r.op dc) fun d w => { d with ys := d.ys ++ [w] }
  else s.formResult c t r

/-- The reading phase up to step `upto`. -/
def State.dsuSteps (s : State) (c t upto : Nat) : Nat → DsuRun → State × DsuRun
  | 0, r => (s, r)
  | n + 1, r =>
    if r.rd.res.isSome ∨ r.rd.gone.isSome ∨ upto ≤ r.rd.next then (s, r)
    else
      let (s, r) := s.dsuStep c t r
      State.dsuSteps s c t upto n r

/-- The DSU up to step `upto`: at most 10 words of each string are read, each may wait once, and the result is formed. -/
def State.dsuTick (s : State) (c upto : Nat) : State :=
  match (s.core c).dsu with
  | none => s
  | some r =>
    let (s, r) := s.dsuSteps c (s.tenant c) upto 42 r
    s.onCore c fun k => { k with dsu := some r }

end Sys2Proof.Machine
end

