-- ==== Sys2Proof/Machine/Micro.lean ====
section
/-!
DEFINITION. The microcode of the DSU (R112 to R115): the fields of a micro-word, the next micro-address, the patch match
table, and the micro-address that a micro-trap saves (R109).
-/
namespace Sys2Proof

/-- NEXT, the base of the next micro-address (R112). -/
def MicroWord.next (w : MicroWord) : Nat := Machine.bits w 67 56

/-- CS0 to CS3, the condition select of address bit `i` (R112). -/
def MicroWord.select (w : MicroWord) (i : Nat) : Nat := Machine.bits w (40 + 5 * i) (36 + 5 * i)

/-- SAFE: a micro-trap may be taken before this micro-instruction (R112). -/
def MicroWord.safe (w : MicroWord) : Bool := Machine.bit w 35

/-- The parity of bits `hi` to `lo`. -/
def MicroWord.odd (w : MicroWord) (hi lo : Nat) : Bool :=
  (Machine.range lo (hi + 1 - lo)).foldl (fun b i => b != Machine.bit w i) false

/-- PAR is the even parity over the four groups, in order from bit 71 (R112). -/
def MicroWord.parityOk (w : MicroWord) : Bool :=
  Machine.bit w 71 == w.odd 67 51 && Machine.bit w 70 == w.odd 50 34 && Machine.bit w 69 == w.odd 33 17 &&
    Machine.bit w 68 == w.odd 16 0

end Sys2Proof

namespace Sys2Proof.Machine

/-- The next micro-address (R113): NEXT OR (c3 × 8 + c2 × 4 + c1 × 2 + c0); select code 0 is the constant 0, codes 1 to 31 are
conditions. -/
def nextMicro (w : MicroWord) (cond : Nat → Bool) : Nat :=
  let c (i : Nat) : Nat := if w.select i = 0 then 0 else (cond (w.select i)).toNat
  w.next ||| (c 3 * 8 + c 2 * 4 + c 1 * 2 + c 0)

/-- The micro-address that is fetched for a formed one (R114): the paired patch address where an active entry matches. -/
def Patch.redirect (p : Patch) (a : Nat) : Nat :=
  match p.entries.find? fun e => e.1 == a with
  | some e => e.2
  | none => a

/-- The micro-word at a formed address (R112, R114): ROM below 0xE00, patch RAM above. The ROM's contents are not given: a
free constant. -/
def State.microWord (s : State) (a : Nat) : MicroWord :=
  let f := s.patch.redirect a
  if f < 0xE00 then Config.rom f else s.patch.ram.get f 0

/-- Every word of the patch RAM has good parity (R112, R399); words beyond those of the patch hold zero, whose parity is good. -/
def State.patchParity (s : State) : Bool := s.patch.ram.all fun e => e.2.parityOk

/-- The micro-address after `n` micro-instructions of an operation that begins at `a` (R113). Which conditions hold in a step
is the data path's, which the spec does not document: free values from `k` on. -/
def State.microAfter (s : State) (k : Nat) : Nat → Nat → Nat
  | a, 0 => a
  | a, n + 1 => State.microAfter s (k + 1) (nextMicro (s.microWord a) (Config.microCond k)) n

/-- UPC of a stopped operation (R109, R113): the micro-address at which it resumes after `n` micro-instructions. -/
def State.upc (s : State) (op : DsuOp) (n : Nat) : Nat := s.microAfter s.free (Config.microEntry (dsuOffset op)).toNat n

end Sys2Proof.Machine
end

