-- ==== Sys2Proof/Machine/Take.lean ====
section
/-!
DEFINITION. Charging steps, acceptance points, abandoning work, stopping a tenant, entering an event or trap through
its descriptor, and the DSU context (R45, R109, R132, R207, R210, R212 to R214, R228, R237).
-/
namespace Sys2Proof.Machine

/-- `n` steps pass on core `c` in its slot (R55 CORE_SCNT, R226), and with them what goes on beside issue; stall steps are
also counted in CORE_STALL. -/
def State.charge (s : State) (c n : Nat) (stall : Bool) : State :=
  let s := (s.gatherTick c ((s.core c).now + n)).dsuTick c ((s.core c).now + n)
  let s := s.onCore c fun k => { k with now := k.now + n }
  let s := s.setFld (coreScnt c) 31 0 (min 0xFFFFFFFF (s.fld (coreScnt c) 31 0 + n))
  if stall then s.count (coreStall c) 39 0 n else s

/-- Issue stands until step `r` (R38): the steps up to it that have not passed are charged. Two stalls of one issue run
side by side. -/
def State.chargeTo (s : State) (c r : Nat) (stall : Bool) : State := s.charge c (r - (s.core c).now) stall

/-! ### The front end as the rest of the core sees it (R39, R41, R144) -/

/-- The steps from PA, or FE, to issue in a mode (R39, R41). -/
def depth (det : Bool) : Nat := if det then 1 else 5

/-- An uncorrectable word that left the cache, or FE, by step `n` and is discarded is still logged (R150). -/
def State.logDiscards (s : State) (c n : Nat) : State :=
  (s.core c).front.foldl (fun s w =>
    match w.got with
    | .trap 15 a _ => if w.at_ + (if s.det c then 0 else 1) ≤ n then s.error 2 c (s.tenant c) a else s
    | _ => s) s

/-- Every word in stages PA to GR is discarded in step `n` (R144), and a miss with them. -/
def State.flushFront (s : State) (c n : Nat) : State :=
  (s.logDiscards c n).onCore c fun k => { k with front := [], miss := none }

/-- A flush in step `n` after which the word at `pc` issues in step `m` at the earliest (R144). -/
def State.redirect (s : State) (c n : Nat) (pc : PAddr) (m : Nat) : State :=
  (s.flushFront c n).onCore c fun k => { k with pc := pc, paStep := m - depth (s.det c) }

/-- The issue steps of the words that hold a checkpoint (R148): four at most count. -/
def Predictor.freeAt (p : Predictor) : Nat :=
  match p.ckpt.drop (p.ckpt.length - 4) with
  | [a, _, _, _] => a + 5
  | _ => 0

/-! ### Where issue stands -/

/-- RETPC (R214): the stalled trigger word where a stall is abandoned, else the word that would have issued. The spec says so of
every stall (R214); for a performance-mode store over the spine, whose store is not abandoned, that makes the store again
(log entry 78). -/
def Core.retpc (k : Core) : PAddr := if k.stalled then k.holdPc else k.pc

/-- The last flight of a unit. -/
def lastFlight (u : FU) (l : List Flight) : Option Flight := (l.filter fun f => decide (f.unit = u)).getLast?

/-- A divide or remainder in its stall (R38): the MUL's last flight while issue is held for it. -/
def Core.divideFlight (k : Core) (f : Flight) : Bool :=
  k.hold.contains .divide && decide (lastFlight .mul k.flights = some f)

/-- A load held in a stall of R38: an LSU's last flight while issue is held for it, if it is no atomic. -/
def Core.stalledLoad (k : Core) (f : Flight) : Bool :=
  k.hold.contains (.spine f.unit) && decide (lastFlight f.unit k.flights = some f) &&
    (match f.act with
      | .load _ _ _ => true
      | _ => false)

/-- A BLU memory form that a partial overlap holds: the BLU is in progress. -/
def Hold.bars : Hold → Bool
  | .overlap f _ => f.unit == .blu0 || f.unit == .blu1 || (match f.act with
    | .load _ _ _ => false
    | _ => true)
  | _ => false

/-- The step P of a fence that holds issue (R127). -/
def Core.fenceStep (k : Core) : Option Nat :=
  k.hold.findSome? fun h =>
    match h with
    | .fence p => some p
    | _ => none

/-- The line for which fetch waits (R130). -/
def Core.missed (k : Core) : Option Nat := k.miss.map (·.line)

/-- Step `n` is an acceptance point (R207): nothing in progress but gathers, the DSU, a divide, and a load held in a
stall; no CORE_MODE change pending; not within slot entry, event entry or event return. A fence wait is an operation in
progress on the CTL. -/
def Core.acceptancePoint (k : Core) (n : Nat) : Bool :=
  k.modeChange.isNone && k.fenceStep.isNone && decide (k.quiet ≤ n) && !k.hold.any Hold.bars &&
    k.flights.all fun f => k.divideFlight f || k.stalledLoad f

/-- The step in which issue may resume after a partial overlap (R125, R216). -/
def Hold.overlapEnd : Hold → Option Nat
  | .overlap f p => some (f.trig + 4 + p)
  | .gather n p => some (n + 4 + p)
  | .eretOverlap n p => some (n + 3 + p)
  | _ => none

/-- The step at which a hold surely ends, if the core alone fixes it. -/
def Core.holdEnd (k : Core) : Hold → Option Nat
  | .dsu => k.dsu.map (·.resume)
  | .divide => (lastFlight .mul k.flights).map (·.due + 1)
  | h => h.overlapEnd

/-- The step in which the word at the head of the front end may issue (R39, R41, R148). -/
def State.headStep (s : State) (c : Nat) : Nat :=
  let k := s.core c
  match k.front with
  | [] => max k.now (k.paStep + depth (s.det c))
  | w :: _ => max k.now (w.at_ + depth (s.det c))

/-- The step up to which the core surely does not issue; none where nothing but a happening ends the wait. -/
def State.standsTo (s : State) (c : Nat) : Option Nat :=
  let k := s.core c
  if k.phase ≠ .running ∨ k.trap.isSome ∨ k.miss.isSome then none
  else if k.hold = [] then some (s.headStep c)
  else
    k.hold.foldl (fun a h =>
      match a, k.holdEnd h with
      | some a, some b => some (max a b)
      | _, _ => none) (some 0)

/-- The steps of the tenant's budget that are left (R226). -/
def State.budgetLeft (s : State) (c : Nat) : Nat := s.fld (frmSlotC c (s.core c).slot) 31 0 - s.fld (coreScnt c) 31 0

/-- Core `c` has come to the start of step `n`, or comes to it while its issue stands and within the budget. -/
def State.canReach (s : State) (c n : Nat) : Bool :=
  let k := s.core c
  decide (n ≤ k.now) ||
    ((match s.standsTo c with
      | none => true
      | some b => decide (n ≤ b)) && (k.phase != .running || decide (n - k.now ≤ s.budgetLeft c)))

/-- Core `c` comes to the start of step `n`: the steps of a slot's tenant are charged, those outside one only pass. -/
def State.passTo (s : State) (c n : Nat) : State :=
  if (s.core c).phase = .running then s.chargeTo c n (s.core c).stalled
  else s.onCore c fun k => { k with now := max k.now n }

/-- Flights whose completion step is not certain are marked: those that may wait for grants, and those of the same unit behind
them (R33, R118). -/
def markWaits : List FU → List Flight → List Flight
  | _, [] => []
  | us, f :: l =>
    if f.shared || us.contains f.unit then { f with shared := true } :: markWaits (f.unit :: us) l else f :: markWaits us l

/-- The latency of an access of core `c` may grow by waits (R118): performance mode, any target but the scratchpad. -/
def State.mayWait (s : State) (c a : Nat) : Bool :=
  !s.det c && (match target c a with
    | some .sp => false
    | none => false
    | _ => true)

/-- The step in which the next element of a gather completes (R172), or in which its fault is found (R173). -/
def GatherRun.due (g : GatherRun) : Nat :=
  match g.elems with
  | .read _ _ _ :: _ => g.base + g.lat + (g.k - g.k0)
  | _ => g.base + g.lat + (g.k - g.k0) - 1

/-- The next element of a gather may wait for grants (R118): one that a buffered store serves, or that a fault ends, does not. -/
def GatherRun.waits (g : GatherRun) : Bool :=
  g.shared && (match g.elems with
    | [] => true
    | .read _ _ .target :: _ => true
    | _ => false)

/-- Everything that surely happens in core `c` before step `n` has happened: completions, retirements, stores performed,
gather elements. Only happenings that wait for grants may come later than their counts. -/
def State.settled (s : State) (c n : Nat) : Bool :=
  let k := s.core c
  (markWaits [] k.flights).all (fun f => f.shared || decide (n ≤ f.due)) &&
    (match k.buffer with
      | [] => true
      | st :: _ => decide (n ≤ k.retireStep st)) &&
    k.retired.all (fun st => s.mayWait c st.addr || decide (n ≤ st.due)) &&
    (match k.gathers with
      | [] => true
      | g :: _ => g.waits || decide (n ≤ g.due))

/-- A CORE_MODE change takes effect (R45, R46): the mode, and cache, history and return stack invalidated. A write whose MODE is
the present one is no change: nothing is invalidated (log entry 79). -/
def State.applyMode (s : State) (c : Nat) : State :=
  match (s.core c).modeChange with
  | none => s
  | some (_, m) =>
    let changed := s.flag (coreMode c) 0 != m
    if changed then
      let s := s.flushFront c (s.core c).now
      (s.setFlag (coreMode c) 0 m).onCore c fun k =>
        { k with modeChange := none, icache := [], paStep := k.now - depth m
                 pred := { k.pred with ghr := 0, ras := [], ckpt := [] } }
    else s.onCore c fun k => { k with modeChange := none }

/-! ### The DSU context (R109, R110) -/

/-- Physical address of word `w` of the DSU context of tenant `t`. -/
def dsuCtx (t w : Nat) : Nat := 0x1200000 + 0x2000 * (t / 8) + 0x1F80 + 16 * (t % 8) + w

/-- The result words of an operation, once they are formed. -/
def DsuRun.result (r : DsuRun) : List Word := (r.rd.res.map (·.words)).getD []

/-- The result words that a stopped operation had already written: a free choice (R111, log entry 4). -/
def DsuRun.written (r : DsuRun) (free : Nat) : Nat :=
  if r.result.length ≤ r.widx then r.widx
  else r.widx + Config.freeNat free % (r.result.length + 1 - r.widx)

/-- Word 5 of the context (R109): WIDX, VS and FPEND as far as the operation has found them; CY and SGN, which the spec does
not define further, are free bits. FPEND 6 is this model's own code for a data error (log entry 13). -/
def ctxWord5 (r : DsuRun) (widx free : Nat) : Word :=
  let w := putBits (putBits (0 : Word) 7 0 widx) 10 8 (bits (Config.freeWord free) 2 0)
  match r.rd.res with
  | some d => putBits (putBit w 11 (bit d.fmask flagV && bit d.fval flagV)) 14 12 d.fcode
  | none => w

/-- S0 to S9 of the context (R109): the result words once they are formed; DETAIL in S0 for a fault; for a compare or a
conversion to binary, S0 holds DA's value and S1, S2 the flags; before the result is formed, ten free values. -/
def ctxBuffer (r : DsuRun) (free : Nat) : List Word :=
  match r.rd.res with
  | none => (range 0 10).map fun i => Config.freeWord (free + 1 + i)
  | some d =>
    if d.fcode ≠ 0 then [d.detail]
    else if d.words = [] then [d.da.getD 0, d.fmask, d.fval]
    else d.words

/-- The micro-trap save (R109): the context of tenant `t` after a stop before the micro-instruction of step `sp`. -/
def State.saveDsu (s : State) (t : Nat) (r : DsuRun) (sp widx : Nat) : State :=
  let done := r.prog + (sp - r.start)
  let w0 := putBit (putBits (putBits (putBits (0 : Word) 38 32 (dsuOffset r.op)) 31 20 (s.upc r.op done)) 15 0 done) 39 true
  let s' := ((s.pokes (dsuCtx t 0) [w0, s.sock t sockDX, s.sock t sockDY, s.sock t sockDC, s.sock t sockDA]).poke (dsuCtx t 5)
    (ctxWord5 r widx s.free)).pokes (dsuCtx t 6) (ctxBuffer r s.free)
  s'.setCtx t { s'.ctx t with dsu := some ⟨r.resume - sp, { r.rd with next := r.rd.next - sp }⟩ }

/-- The step before which the DSU stops when issue ends in step `a` (R109): the first safe step at or after `a`; the
steps t + 4j are safe, and so is the final one, r − 1. -/
def DsuRun.stopAt (r : DsuRun) (a : Nat) : Nat :=
  min (r.trig + 4 * max 1 (ceilDiv (a - r.trig) 4)) (r.resume - 1)

/-- Writes some result words to [DY] from word `i` on, as stores of the DSU (R107). -/
def State.dsuWrite (s : State) (c t trig step i : Nat) : List Word → State
  | [] => s
  | w :: ws =>
    let y := s.sock t sockDY
    let g := s.seg t (bits y 23 20)
    (s.dsuStore c step (fullStore (g.phys s.frame (bits y 19 0 + i)) w trig step)).dsuWrite c t trig (step + 1) (i + 1) ws

/-- A decimal string operation stopped in step `a` (R109): the words written so far stay, the state is saved. Operand words
and faults are what it had read before the step at which it stops. -/
def State.stopString (s : State) (c t a : Nat) (r : DsuRun) : State :=
  let sp := r.stopAt a
  let (s, r) := s.dsuSteps c t sp 42 r
  let sp := r.stopAt a
  let j := r.written s.free
  let s := s.dsuWrite c t r.trig (sp - (j - r.widx)) r.widx ((r.result.take j).drop r.widx)
  { s.saveDsu t r sp j with free := s.free + 12 }

/-! ### Block operations (R106, R108) -/

/-- The segment and offset in a DSU pointer (R101). -/
def ptrAddr (s : State) (t : Nat) (p : Word) : Nat := (s.seg t (bits p 23 20)).phys s.frame (bits p 19 0)

/-- A pointer advanced by one word: its OFF counts, the bits above stay. -/
def ptrNext (p : Word) : Word := putBits p 19 0 (bits p 19 0 + 1)

/-- A scan has found its word. -/
def scanHit (op : DsuOp) (w da : Word) : Bool :=
  match op with
  | .bscan => w == da
  | .bscann => w != da
  | _ => false

/-- One word of a block operation on tenant `t` (R106), in step `step`; answers whether a scan stopped on it. -/
def State.blockWord (s : State) (c t : Nat) (op : DsuOp) (trig step : Nat) : State × Bool :=
  let dx := s.sock t sockDX
  let dy := s.sock t sockDY
  let dc := s.sock t sockDC
  let dec := putBits dc 20 0 (bits dc 20 0 - 1)
  match op with
  | .bmove =>
    let v := s.own c (ptrAddr s t dx)
    (((s.dsuStore c step (fullStore (ptrAddr s t dy) v trig step)).setSocks t
      [(sockDX, ptrNext dx), (sockDY, ptrNext dy), (sockDC, dec)]), false)
  | .bfill =>
    (((s.dsuStore c step (fullStore (ptrAddr s t dy) (s.sock t sockDA) trig step)).setSocks t
      [(sockDY, ptrNext dy), (sockDC, dec)]), false)
  | _ =>
    if scanHit op (s.own c (ptrAddr s t dx)) (s.sock t sockDA) then (s, true)
    else (s.setSocks t [(sockDX, ptrNext dx), (sockDC, dec)], false)

/-- The step of the first micro-instruction of word `i` of a block operation (log entry 13). -/
def blockStep (op : DsuOp) (trig i : Nat) : Nat := trig + 2 + (if op == .bmove then 2 else 1) * i

/-- `n` words of a block operation from word `i` on, stopping where a scan is satisfied (R106). -/
def State.blockWords (s : State) (c t : Nat) (op : DsuOp) (trig i : Nat) : Nat → State × Bool
  | 0 => (s, false)
  | n + 1 =>
    match s.blockWord c t op trig (blockStep op trig i) with
    | (s, true) => (s, true)
    | (s, false) => State.blockWords s c t op trig (i + 1) n

/-- The words a block operation has begun by step `a` (R108: the word in progress is finished). -/
def blockDone (op : DsuOp) (trig a : Nat) : Nat :=
  if a < trig + 2 then 0 else (a - (trig + 2)) / (if op == .bmove then 2 else 1) + 1

/-- A block operation stopped in step `a` (R108): it stops after the word in progress. An operation that has found a
fault has written nothing and has moved no pointer (R105). -/
def State.stopBlock (s : State) (c t a : Nat) (r : DsuRun) : State :=
  if (r.rd.res.map (·.fcode)).getD 0 ≠ 0 then s
  else (s.blockWords c t r.op r.trig 0 (min (blockDone r.op r.trig a) (bits (s.sock t sockDC) 20 0))).1

/-! ### Abandoning work -/

/-- A gather abandoned, or stopped by a fault, leaves its record (R173). -/
def State.recordGather (s : State) (t : Nat) (g : GatherRun) : State :=
  let w := putBit (putBits (s.sock t 0x242) 20 16 g.k) 21 true
  let s := s.setSock t 0x242 w
  s.setCtx t { s.ctx t with gather := some ⟨g.vseg, g.voff, g.bseg, g.boff, g.n⟩ }

/-- Work in flight on core `c` is abandoned in step `a` (R132, R133): results not complete and BLU stores not entered
are dropped, the DSU stops, a gather leaves its record; the store buffer goes on. -/
def State.abandon (s : State) (c a : Nat) : State :=
  let t := s.tenant c
  let s := match (s.core c).dsu with
    | some r => if isBlock r.op then s.stopBlock c t a r else s.stopString c t a r
    | none => s
  let s := match (s.core c).gathers with
    | g :: _ => s.recordGather t g
    | [] => s
  s.onCore c fun k => { k with flights := [], hold := [], dsu := none, gathers := [], flgMove := none }

/-! ### Stops -/

/-- The gap until a request may be performed, entered once per tenant (R234). -/
def State.requestReset (s : State) (t : Nat) (slot : Option Nat) (from_ : Nat) : State :=
  { s with frm := { s.frm with resets := s.frm.resets ++ [⟨t, from_, slot⟩] } }

/-- The records of R237 at an end or stop; `slack` is MINSLACK's distance. -/
def State.forecast (s : State) (c t slack : Nat) : State :=
  let used := s.fld (coreScnt c) 31 0
  let s := s.setFld (frmTuse t) 31 0 (max used (s.fld (frmTuse t) 31 0))
  let s := s.setFld (frmTstat t) 19 0 (min (min slack 0xFFFFF) (s.fld (frmTstat t) 19 0))
  let w := s.fld frmCtl 23 20
  let budget := s.fld (frmSlotC c (s.core c).slot) 31 0
  if w ≠ 0 ∧ budget * w < 16 * used ∧ !s.flag (frmTstat t) 34 then (s.setFlag (frmTstat t) 34 true).occur 966 else s

/-- Exit begins in the step in which issue stands (R133): work in flight is abandoned, what the front end holds is discarded,
and the core issues nothing until CLOSE. -/
def State.exit (s : State) (c : Nat) : State :=
  ((s.abandon c (s.core c).now).flushFront c (s.core c).now).onCore c fun k =>
    { k with phase := .idle, trap := none, entering := none, modeChange := none, moved := false }

/-- The tenant in core `c`'s slot is stopped in the step in which issue stands (R228, R371): work abandoned, STATE
STOPPED, STOPS counted, CAUSE, the records of R237, a reset requested with AUTORST; the core is idle until CLOSE. -/
def State.stopTenant (s : State) (c cause : Nat) : State :=
  let t := s.tenant c
  let s := s.exit c
  let s := ((s.setFld (frmTstat t) 39 37 4).setFld (frmTstat t) 36 35 cause).count (frmTstat t) 31 24 1
  let s := s.forecast c t 0
  if s.flag (frmTcfg t) 38 then s.requestReset t none s.frame else s

/-! ### Entry -/

/-- What is entered: KIND, CODE, PRI, EVNUM, FPC and DETAIL of the frame (R213), the descriptor entry, and the socket
that CORE_TRAPSK receives (R398). -/
structure Entry where
  kind   : Nat
  code   : Nat
  pri    : Nat
  evnum  : Nat
  fpc    : Nat
  detail : Word
  desc   : Nat
  sk     : Nat
  deriving DecidableEq, Repr

/-- The SSEG check of R206 for the running tenant: DATA in the core's scratchpad with RD and WR, at least 64 words,
SUP equal to the descriptor's LEVEL. -/
def stackOk (c : Nat) (g : Seg) (lvl : Bool) : Bool :=
  g.cls == 2 && g.rd && g.wr && decide (64 ≤ g.limit) && g.sup == lvl && target c g.base == some .sp &&
    target c (g.base + g.limit - 1) == some .sp

/-- P7 to P0 as a number (R213 PRED). -/
def State.preds (s : State) (t : Nat) : Nat :=
  (range 0 8).foldl (fun a i => a + (bits (s.sock t (0x380 + i)) 0 0) * 2 ^ i) 0

/-- The eight frame words (R213). -/
def State.frameWords (s : State) (t : Nat) (e : Entry) (retpc : PAddr) : List Word :=
  let tc := s.reg (evtTctx t)
  [putBits (putBits (putBits (0 : Word) 29 25 (bits tc 36 32)) 24 24 (bits tc 37 37)) 23 0 retpc.toNat,
    s.sock t 0x22,
    putBits (putBits (putBits (putBits (0 : Word) 39 38 e.kind) 36 32 e.code) 13 10 e.pri) 9 0 e.evnum,
    word (e.fpc % 2 ^ 28),
    e.detail,
    word (bits tc 31 28),
    s.sock t 0x20,
    putBits (word (bits (s.sock t 0x30) 23 0)) 31 24 (s.preds t)]

/-- GHR and the return stack are put back from the oldest checkpoint whose word has not issued (R152): the first transfer
word in DE or GR in step `a`. -/
def State.unpredict (s : State) (c a : Nat) : State :=
  match ((s.core c).front.take 2).find? fun w => w.transfer && decide (w.at_ + 3 ≤ a) && w.ck.en with
  | some w => s.onCore c fun k => { k with pred := { k.pred with ghr := w.ck.ghr, ras := w.ck.ras } }
  | none => s

/-- Where the SSEG check or DEPTH forbids entry, the stack fault is found in step a + 2 and stops the tenant (R212), with a
routed event pending again; a budget that ends before then stops it first (R226). -/
def State.stackFault (s : State) (c : Nat) (e : Entry) : State :=
  let s := if e.kind = 0 then { s with events := putBit s.events e.evnum true } else s
  let b := s.budgetLeft c
  let s := s.abandon c (s.core c).now
  if b < 2 then (s.charge c b false).stopTenant c 1 else (s.charge c 2 false).stopTenant c 3

/-- Entry of an event, trap or SVC on core `c` (R212): work abandoned, the frame written, DEPTH and level moved on,
and the handler's first word next, 12 st later. Where DEPTH is 8 or the SSEG check fails, the stack fault stops the
tenant. -/
def State.enter (s : State) (c : Nat) (e : Entry) : State :=
  let t := s.tenant c
  let a := (s.core c).now
  let tc := s.reg (evtTctx t)
  let d := s.reg (evtDesc c (bits tc 39 39) e.desc)
  let g := s.seg t (bits d 37 34)
  if bits tc 27 24 = 8 ∨ !bit d 39 ∨ !stackOk c g (bit d 38) then s.stackFault c e
  else
    let retpc := (s.core c).retpc
    let at_ := g.base + 8 * bits tc 27 24
    let old := s.peeks at_ 8
    let ws := s.frameWords t e retpc
    let s := ((s.unpredict c a).abandon c a).pokes at_ ws
    let lvl := 2 * bits tc 39 39 + bits d 38 38
    let tc' := putBits (putBits (putBits tc 38 37 lvl) 31 28 (bits d 37 34)) 27 24 (bits tc 27 24 + 1)
    let tc' := if e.kind = 0 then putBits tc' 36 32 e.pri else tc'
    let s := (s.setReg (evtTctx t) (putBits tc' 15 0 (bits tc 15 0 + 1))).applyMode c
    let s := if e.kind = 0 then s else (s.setReg (coreTrapsk c) (word e.sk)).setReg (coreTrappc c) (word (e.fpc % 2 ^ 28))
    let ent : Entering := ⟨a, if e.kind = 0 then some e.evnum else none, tc, at_, old⟩
    (s.redirect c a (BitVec.ofNat 24 (bits d 23 0)) (a + 12)).onCore c fun k =>
      { k with trap := none, entering := some ent, quiet := a + 12 }

end Sys2Proof.Machine
end

