-- ==== Sys2Proof/Machine/Predict.lean ====
section
/-!
DEFINITION. Transfers of control and their prediction (R129, R138 to R151): the class of a transfer word, what PA predicts,
and what its resolution in MV does.
-/
namespace Sys2Proof.Machine

/-- The classes of R140. -/
inductive Class where
  | direct | indirect | ret
  deriving DecidableEq, Repr

/-- A transfer move by its encoding (R138 to R140): its class, whether it is conditional and a call, and whether its target
is relative to its word's address. -/
structure Kind where
  cls  : Class
  cond : Bool
  call : Bool
  rel  : Bool
  deriving DecidableEq, Repr

/-- A program address moved on by an offset within its segment, modulo 2^20 (R138). -/
def pcAdd (p : PAddr) (d : Int) : PAddr := putBits p 19 0 ((((bits p 19 0 : Nat) : Int) + d) % (2 ^ 20 : Int)).toNat

/-- A transfer is conditional when its guard code is not 0, or when it is a format 11 word (R140). -/
def Guard.cond : Guard → Bool
  | .short g => g != 0
  | .long g => g != 0
  | .pred _ _ => true

/-- The kind of a transfer move, if it is one (R137, R140). -/
def kindOf (m : Mv) : Option Kind :=
  let cond := Guard.cond m.guard
  let cls : Class := match m.src with
    | .imm _ => .direct
    | _ => .indirect
  match sockOf m.dst.toNat with
  | .trig (.ctl .jmp) => some ⟨cls, cond, false, true⟩
  | .trig (.ctl .call) => some ⟨cls, cond, true, true⟩
  | .trig (.ctl .jmpa) => some ⟨.indirect, cond, false, false⟩
  | .trig (.ctl .calla) => some ⟨.indirect, cond, true, false⟩
  | .trig (.ctl .ret) => some ⟨.ret, cond, false, false⟩
  | _ => none

/-- The predecode tag of a word at a program address (R143): the kind of its transfer, and the target that a direct one
names. -/
def tagOf (pc : PAddr) (w : Word) : Option (Kind × PAddr) :=
  (decodeWord w).moves.findSome? fun m =>
    (kindOf m).map fun k =>
      (k, match m.src with
        | .imm v => pcAdd pc (v.signExtend 40).toInt
        | _ => pcAdd pc 1)

/-- The pattern table index: GHR XOR A.OFF[11:0] (R145). -/
def phtIndex (ghr : BitVec 12) (pc : PAddr) : Nat := (ghr ^^^ BitVec.ofNat 12 (bits pc 11 0)).toNat

/-- A saturating two-bit counter (R146). -/
def bump (v : Nat) (up : Bool) : Nat := if up then min 3 (v + 1) else v - 1

/-- The predictor as PA reads it in step `n` (R146): the updates of earlier CM steps made. -/
def Predictor.atStep (p : Predictor) (n : Nat) : Predictor :=
  { p with pht := (p.bumps.filter fun b => decide (b.from_ ≤ n)).foldl (fun t b => t.set b.idx 1 (bump (t.get b.idx 1) b.up)) p.pht
           bumps := p.bumps.filter fun b => decide (n < b.from_) }

/-- GHR with one more direction in bit 0 (R146). -/
def shiftIn (ghr : BitVec 12) (taken : Bool) : BitVec 12 := (ghr <<< 1) ||| BitVec.ofNat 12 taken.toNat

/-- A call pushes A + 1 on a return stack of eight entries; the oldest is overwritten (R147). -/
def pushRas (ras : List PAddr) (a : PAddr) : List PAddr := (a :: ras).take 8

/-- The word at `pc` with its tag is predicted at PA with PRED_EN = 1 (R145 to R147): its next address, the other path, and
the predictor after it. -/
def Predictor.predict (p : Predictor) (pc : PAddr) (tag : Option (Kind × PAddr)) : PAddr × PAddr × Predictor :=
  let next := pcAdd pc 1
  match tag with
  | none => (next, next, p)
  | some (k, target) =>
    match k.cls with
    | .direct =>
      let taken := !k.cond || decide (2 ≤ p.pht.get (phtIndex p.ghr pc) 1)
      let p' := if k.cond then { p with ghr := shiftIn p.ghr taken } else p
      let p' := if k.call && taken then { p' with ras := pushRas p.ras next } else p'
      if taken then (target, next, p') else (next, target, p')
    | .indirect => (next, target, p)
    | .ret => (p.ras.headD next, next, { p with ras := p.ras.drop 1 })

/-- The next address that PA chooses with PRED_EN = 0 (R151): the target of an unconditional direct transfer, else A + 1. -/
def plainNext (pc : PAddr) (tag : Option (Kind × PAddr)) : PAddr :=
  match tag with
  | some (k, target) => if k.cls = .direct ∧ !k.cond then target else pcAdd pc 1
  | none => pcAdd pc 1

/-- A transfer word as it resolves in MV: its kind, whether it takes effect, its program address, A + 1 and its target
(R138 to R140). -/
structure Transfer where
  kind   : Kind
  taken  : Bool
  pc     : PAddr
  next   : PAddr
  target : PAddr
  deriving DecidableEq, Repr

/-- The next address on the correct path (R149). -/
def Transfer.actual (x : Transfer) : PAddr := if x.taken then x.target else x.next

/-- The transfer resolves against its prediction and costs 6 st (R129, R147, R149, R151): a taken indirect transfer and a
return on an empty stack always do. -/
def Transfer.missed (x : Transfer) (ck : Checkpoint) : Bool :=
  if ck.en then
    match x.kind.cls with
    | .direct => ck.next != x.actual
    | .indirect => x.taken
    | .ret => ck.ras.isEmpty || ck.next != x.actual
  else x.taken && !(x.kind.cls == .direct && !x.kind.cond)

/-- The steps from a transfer word's issue to the next word's (R129, R142, R151). -/
def transferCost (det : Bool) (ck : Checkpoint) (x : Transfer) : Nat :=
  if det then if x.taken then 2 else 1
  else if x.missed ck then 6 else 1

/-- The repair of GHR and the return stack (R149, R147): the checkpoint's, with the actual direction of a conditional direct
transfer; a return pops even so, and a taken indirect call pushes A + 1. -/
def Predictor.repair (p : Predictor) (ck : Checkpoint) (x : Transfer) : Predictor :=
  if !ck.en then p
  else
    let ghr := if x.kind.cls = .direct ∧ x.kind.cond then shiftIn ck.ghr x.taken else ck.ghr
    let ras := match x.kind.cls with
      | .ret => ck.ras.drop 1
      | .indirect => if x.kind.call && x.taken then pushRas ck.ras x.next else ck.ras
      | .direct => ck.ras
    { p with ghr := ghr, ras := ras }

/-- A conditional direct transfer trains its counter in its CM step, which a PA read of that step does not see yet (R146). -/
def Predictor.train (p : Predictor) (ck : Checkpoint) (x : Transfer) (step : Nat) : Predictor :=
  if ck.en && x.kind.cls == .direct && x.kind.cond then
    { p with bumps := p.bumps ++ [⟨phtIndex ck.ghr x.pc, x.taken, step + 2⟩] }
  else p

end Sys2Proof.Machine
end

