-- ==== Sys2Proof/Machine/Front.lean ====
section
/-!
DEFINITION. The front end of a core: stages PA to GR of performance mode (R39, R143 to R150) and FE of deterministic mode
(R41, R42, R142). It is run up to a step before a word issues, or is discarded, in that step.
-/
namespace Sys2Proof.Machine

/-! ### The instruction cache (R158) -/

/-- The line of the instruction cache with a line address, if it is cached and its check bits are good (R158). -/
def Core.line (k : Core) (n : Nat) : Option (List (Word × Bool)) :=
  (k.icache.find? fun l => l.addr == n && !l.bad).map (·.words)

/-- A word of memory as the cache's refill or FE reads it (R176): a single-bit error is corrected and logged; the flag marks an
uncorrectable word, which is logged when it is discarded or would issue (R150). -/
def State.readCode (s : State) (c t a : Nat) : State × Word × Bool :=
  match s.bad a with
  | none => (s, s.peek a, false)
  | some .single => (((s.poke a (s.peek a)).error 1 c t a), s.peek a, false)
  | some .double => (s, s.peek a, true)

/-- What a fetched word is (R150): the data-error fault where it is uncorrectable. -/
def fetchedWord (w : Word) (bad : Bool) (a : Nat) : Fetched := if bad then .trap 15 a (word a) else .word w a

/-- What stage IC, or FE, finds at a program address (R42, R138, R158, R164): a word or a fault kept until the word would
issue, or a miss in the instruction cache. -/
inductive Lookup where
  | found (f : Fetched)
  | miss (line : Nat)
  deriving DecidableEq, Repr

/-- The fetch of the word at a program address (R42, R138, R158, R164). -/
def State.fetch (s : State) (c t : Nat) (pc : PAddr) : State × Lookup :=
  match s.access t (bits pc 23 20) .fetch .fetch (bits pc 19 0) with
  | .error d => (s, .found (.trap 1 0 (word (bits d 38 36))))
  | .ok a =>
    if s.det c then
      if target c a = some .sp ∨ target c a = some .ob then
        let (s, w, bad) := s.readCode c t a
        (s, .found (fetchedWord w bad a))
      else (s, .found (.trap 1 a 0))
    else if target c a = none then (s, .found (.gone a))
    else
      match (s.core c).line (a / 8) with
      | none => (s, .miss (a / 8))
      | some ws =>
        let w := ws.getD (a % 8) (0, false)
        (s, .found (fetchedWord w.1 w.2 a))

/-! ### PA and FE -/

/-- The tag of what was fetched (R143). -/
def Fetched.tag (pc : PAddr) : Fetched → Option (Kind × PAddr)
  | .word w _ => tagOf pc w
  | _ => none

/-- The address of the next fetch: where the prediction of the last word fetched points (R143, R145). -/
def Core.fetchPc (k : Core) : PAddr :=
  match k.front.getLast? with
  | some w => w.ck.next
  | none => k.pc

/-- The words that have left IC and not entered DE at the start of step `n` (R143): of the words fetched by then, all but the
two in DE and GR. -/
def Core.queued (k : Core) (n : Nat) : Nat :=
  (k.front.filter fun w => decide (w.at_ + 2 ≤ n)).length - ((k.front.take 2).filter fun w => decide (w.at_ + 3 ≤ n)).length

/-- PA, or FE, requests no word in step `n` (R143): the queue is full; FE holds its word. -/
def State.fetchStops (s : State) (c n : Nat) : Bool :=
  let k := s.core c
  k.miss.isSome || (if s.det c then k.front != [] else decide (4 ≤ k.queued n))

/-- One word fetched in step `n` takes its place and its prediction (R143 to R147, R151). -/
def State.enqueueWord (s : State) (c n : Nat) (pc : PAddr) (f : Fetched) : State :=
  let k := s.core c
  let tag := f.tag pc
  let jump := k.front != [] && (match k.front.getLast? with
    | some w => pc != pcAdd w.pc 1
    | none => false)
  let p := if s.det c then k.pred else k.pred.atStep n
  let en := !s.det c && s.flag (coreMode c) 3
  let (next, other, p') := if en then p.predict pc tag
    else (if s.det c then pcAdd pc 1 else plainNext pc tag, pcAdd pc 1, p)
  s.setCore c { k with pred := p', front := k.front ++ [⟨pc, n, f, tag.isSome, jump, ⟨p.ghr, p.ras, next, other, en⟩⟩] }

/-- The cache delivers a second word in the step where it lies in the same line and directly follows (R143: up to two words
a step; log entry 80). -/
def State.secondWord (s : State) (c t n : Nat) (pc : PAddr) (f : Fetched) : State :=
  match f, s.det c with
  | .word _ a, false =>
    if (s.core c).fetchPc = pcAdd pc 1 ∧ a % 8 ≠ 7 then
      match s.fetch c t (pcAdd pc 1) with
      | (s, .found g) => s.enqueueWord c n (pcAdd pc 1) g
      | (s, .miss _) => s
    else s
  | _, _ => s

/-- Step `n` of PA or FE. A miss that IC finds in the next step holds stages 1 to 4 (R39, R130); the word in GR goes on. -/
def State.fetchStep (s : State) (c t n : Nat) : State :=
  let s' : State :=
    if s.fetchStops c n then s
    else
      let pc := (s.core c).fetchPc
      match s.fetch c t pc with
      | (s, .found f) => (s.enqueueWord c n pc f).secondWord c t n pc f
      | (s, .miss l) =>
        s.onCore c fun k =>
          { k with icache := k.icache.filter fun x => x.addr != l
                   miss := some ⟨l, n + 1, k.front.head?.any fun w => decide (w.at_ + 3 ≤ n)⟩ }
  s'.onCore c fun k => { k with paStep := n + 1 }

/-- PA or FE in every step up to `upto`. No word issues in between, so the queue is full, or a miss holds it, after a few
steps; then it only waits. -/
def State.runSteps (s : State) (c t upto : Nat) : Nat → State
  | 0 => s.onCore c fun k => { k with paStep := max k.paStep (upto + 1) }
  | i + 1 =>
    if (s.core c).miss.isSome ∨ upto < (s.core c).paStep then s
    else State.runSteps (s.fetchStep c t (s.core c).paStep) c t upto i

/-- The front end up to and with step `upto`. -/
def State.runFront (s : State) (c upto : Nat) : State := s.runSteps c (s.tenant c) upto 16

/-- A front end whose oldest word is not the one that would issue holds nothing of use: it begins again at that word. In no
run does this arise. -/
def State.realign (s : State) (c : Nat) : State :=
  s.onCore c fun k =>
    match k.front with
    | w :: _ => if w.pc = k.pc then k else { k with front := [], miss := none }
    | [] => k

/-- The front end with the word that would issue next at its head, if no miss holds it: it runs up to the step before issue,
and on to the first fetch where it is empty. -/
def State.bringHead (s : State) (c : Nat) : State :=
  let s := (s.realign c).runFront c ((s.core c).now - 1)
  if (s.core c).front = [] then s.runFront c (max (s.core c).paStep ((s.core c).now - 1)) else s

/-- The step in which the word at the head issues at the earliest (R39, R41, R148): a transfer word waits in DE while four
checkpoints are held. -/
def State.headReady (s : State) (c : Nat) (w : FWord) : Nat :=
  let k := s.core c
  let n := max k.now (w.at_ + depth (s.det c))
  if w.transfer && !s.det c then max n k.pred.freeAt else n

/-! ### Transfers in MV, and refills -/

/-- A transfer word issues in step `step` (R141, R142, R146, R148, R149): against its prediction, or taken in deterministic
mode, the front end is discarded and its repair made; a checkpoint is held until the step after its CM step. -/
def State.transfer (s : State) (c step : Nat) (x : Transfer) (ck : Checkpoint) : State :=
  let cost := transferCost (s.det c) ck x
  let s := if cost = 1 then s else s.redirect c step x.actual (step + cost)
  s.onCore c fun k =>
    let p := if s.det c then k.pred
      else
        let p := if cost = 1 then k.pred else k.pred.repair ck x
        let p := p.train ck x step
        { p with ckpt := (p.ckpt ++ [step]).drop ((p.ckpt.length + 1) - 4) }
    { k with pc := x.actual, pred := p }

/-- Eight words from memory for a line (R158, R176). -/
def State.readLine (s : State) (c t a : Nat) : Nat → State × List (Word × Bool)
  | 0 => (s, [])
  | n + 1 =>
    let (s, w) := s.readCode c t a
    let (s, l) := State.readLine s c t (a + 1) n
    (s, w :: l)

/-- A line enters the instruction cache (R130, R158): eight words as memory then holds them; in a full set, a way that
the spec does not name is replaced (log entry 4). The set is the line address modulo 512 (log entry 16). -/
def State.fillLine (s : State) (c line : Nat) : State :=
  let (s, ws) := s.readLine c (s.tenant c) (8 * line) 8
  let k := s.core c
  let others := k.icache.filter fun l => l.addr != line
  let inSet := others.filter fun l => l.addr % 512 == line % 512
  if inSet.length < 4 then s.setCore c { k with icache := ⟨line, ws, false⟩ :: others }
  else
    let victim := (inSet.getD (Config.freeNat s.free % 4) ⟨line, ws, false⟩).addr
    (s.setCore c { k with icache := ⟨line, ws, false⟩ :: others.filter fun l => l.addr != victim }).spend

/-- The refill of a line ends the hold of stages 1 to 4 after L + 3 steps and the waits of its accesses (R118, R130): the
words it held, and PA, go on that much later; PA asks for the missing word again. -/
def State.endMiss (s : State) (c : Nat) (m : Miss) (wait : Nat) : State :=
  let d := s.latency c (8 * m.line) + 3 + (if s.mayWait c (8 * m.line) then wait else 0)
  let s := s.fillLine c m.line
  s.onCore c fun k =>
    { k with miss := none, paStep := m.step - 1 + d
             front := k.front.map fun w => { w with at_ := max w.at_ (m.step - 3) + d } }

end Sys2Proof.Machine
end

