-- ==== Sys2Proof/Machine/Start.lean ====
section
/-!
DEFINITION. What each trigger starts (R28): operands are sampled, checks of the trigger step are made, and the
operation is put in flight, stalls the core, or raises its fault.
-/
namespace Sys2Proof.Machine

/-- The issue of a move: its core and tenant, the step, the word's program and physical address, FLG at the end of
the step before (R36, R73), and its destination socket. -/
structure At where
  c    : Nat
  t    : Nat
  step : Nat
  pc   : PAddr
  phys : Nat
  flg  : Word
  sk   : Nat
  deriving DecidableEq, Repr

/-- An operation goes in flight. Operations of one unit complete in the order they were triggered (R33): one of a shorter latency
completes with the one before it at the earliest (log entry 92). -/
def State.launchOp (s : State) (c : Nat) (f : Flight) : State :=
  s.onCore c fun k =>
    { k with flights := k.flights ++ [{ f with due := max f.due (((lastFlight f.unit k.flights).map (·.due)).getD 0) }] }

/-- The flight of an operation of latency `l` triggered in an issue (R9, R66): it completes in step t + L − 1. -/
def At.flight (x : At) (u : FU) (l : Nat) (a : Act) : Flight := ⟨u, x.sk, x.phys, x.step, x.step + l - 1, false, a⟩

/-- The same for an access of the word at `a`, which may wait for grants in performance mode (R118). -/
def State.flightTo (s : State) (x : At) (u : FU) (l a : Nat) (act : Act) : Flight :=
  { x.flight u l act with shared := s.mayWait x.c a }

/-- An operation fault found in the trigger step (R214). -/
def State.faultAt (s : State) (x : At) (code : Nat) (detail : Word) : State :=
  s.raise x.c ⟨code, x.sk, x.phys, detail, false⟩

/-- Issue is held by a stall of the word at `x` (R38). -/
def State.hold (s : State) (x : At) (h : Hold) : State := s.onCore x.c fun k => { k with hold := k.hold ++ [h], holdPc := x.pc }

/-! ### ALU, MUL, FXU -/

/-- An ALU trigger (R76): latency 1; an invalid digit is a fault of the completion step (R91). -/
def startAlu (x : At) (u : Fin 2) (op : AluOp) (w : Word) (s : State) : State :=
  let b := 0x40 + 0x20 * u.val
  let fu := if u = 0 then FU.alu0 else FU.alu1
  let act := match aluOut op (s.sock x.t b) w (bit x.flg flagC) (bit x.flg flagDC) with
    | some (r, fl) => Act.result [(b + 1, r)] fl.mask fl.val
    | none => Act.fault 13 0
  s.launchOp x.c (x.flight fu 1 act)

/-- A MUL trigger (R79 to R81): latency 3, or 42 with a stall; a zero divisor is the divide fault at once. -/
def startMul (x : At) (op : MulOp) (w : Word) (s : State) : State :=
  match mulOut op (s.sock x.t 0x100) w with
  | none => s.faultAt x 12 0
  | some (r, rh, fl) =>
    let act := Act.result [(0x101, r), (0x102, rh)] fl.mask fl.val
    if isDivide op then (s.launchOp x.c (x.flight .mul 42 act)).hold x .divide
    else s.launchOp x.c (x.flight .mul 3 act)

/-- An FXU trigger (R85): latency 3; the accumulator is read and written at completion (R86). -/
def startFxu (x : At) (u : Fin 2) (op : FxuOp) (w : Word) (s : State) : State :=
  s.launchOp x.c (x.flight (if u = 0 then .fxu0 else .fxu1) 3 (.fxu u op (s.sock x.t (0x140 + 0x80 * u.val)) w))

/-! ### Memory reads through the store buffer -/

/-- A load-like operation meets the buffer (R125): in flight at once, or held by a partial overlap. `mk` builds the
flight from where the word is found; one served by the buffer waits for no grant. -/
def State.loadVia (s : State) (x : At) (a : Nat) (mk : Seen → Flight) : State :=
  match bufHit a 1 ((s.core x.c).bufferAt x.step) .none with
  | .none =>
    let s := s.launchOp x.c (mk .target)
    if !s.det x.c && spine x.c a then s.hold x (.spine (mk .target).unit) else s
  | .full w => s.launchOp x.c { mk (.buffered w) with shared := false }
  | .part p => s.hold x (.overlap (mk .target) p)

/-- An atomic meets the buffer (R193): any entry for its word is a partial overlap. -/
def State.atomicVia (s : State) (x : At) (a : Nat) (f : Flight) : State :=
  match bufLast a 1 ((s.core x.c).bufferAt x.step) none with
  | some p => s.hold x (.overlap f p)
  | none =>
    let s := s.launchOp x.c f
    if !s.det x.c && spine x.c a then s.hold x (.spine f.unit) else s

/-! ### BLU -/

/-- The right a BLU memory form needs (R93). -/
def bluNeed (op : BluOp) : Need := if bluAtomic op then .both else if bluStores op then .write else .read

/-- The segment offset a BLU memory form addresses (R92). -/
def bluOffset (ba w : Word) : Nat := bits ba 25 6 + bits w 25 6

/-- The bit-address checks of R96 on BIDX and, for BGET and BPUT, on W. -/
def bluBitBad (op : BluOp) (w : Word) : Bool :=
  let i := bits w 5 0
  let n := bits w 31 26
  40 ≤ i || (bluWide op && (n == 0 || 40 < i + n))

/-- A BLU trigger (R93 to R97). -/
def startBlu (x : At) (u : Fin 2) (op : BluOp) (w : Word) (s : State) : State :=
  let b := 0xC0 + 0x20 * u.val
  let fu := if u = 0 then FU.blu0 else FU.blu1
  let o := s.sock x.t b
  if bluReg op then
    let act := match bluOut op o w with
      | some (r, fl) => Act.result [(b + 1, r)] fl.mask fl.val
      | none => Act.fault 10 w
    s.launchOp x.c (x.flight fu 1 act)
  else
    let ba := s.sock x.t (b + 2)
    match s.access x.t (bits ba 29 26) (bluNeed op) .blu (bluOffset ba w) with
    | .error d => s.faultAt x 9 d
    | .ok a =>
      match target x.c a with
      | some .sp | some .ob | some .qm =>
        if bluBitBad op w then s.faultAt x 10 w
        else
          let l := s.latency x.c a + (if bluAtomic op then 1 else 0)
          let n := if bluWide op then bits w 31 26 else 1
          let act (sn : Seen) : Act := .bit u op a (bits w 5 0) n o sn
          if bluAtomic op then s.atomicVia x a (s.flightTo x fu l a (act .target))
          else if bluStores op then s.launchOp x.c (x.flight fu l (act .target))
          else s.loadVia x a fun sn => s.flightTo x fu l a (act sn)
      | _ => s.faultAt x 11 w

/-! ### LSU -/

/-- The right an LSU operation needs (R164). -/
def lsuNeed : LsuOp → Need
  | .ld => .read
  | .st => .write
  | .cax => .both
  | .faa => .both

/-- The offset an LSU operation checks: T[19:0] + DISP, without wrap (R166). -/
def lsuOffset (w : Word) (disp : BitVec 12) : Int := (bits w 19 0 : Nat) + disp.toInt

/-- An LSU trigger (R165, R166): a segment fault in the trigger step, a store into the buffer, or a load or atomic. -/
def startLsu (x : At) (u : Fin 2) (op : LsuOp) (w : Word) (disp : BitVec 12) (s : State) : Result :=
  let b := 0x80 + 0x20 * u.val
  let fu := if u = 0 then FU.lsu0 else FU.lsu1
  let o := s.sock x.t b
  match s.access x.t (bits w 23 20) (lsuNeed op) .lsu (lsuOffset w disp) with
  | .error d => .next (s.faultAt x 9 d)
  | .ok a =>
    if target x.c a = none then .fault (.unreachable a)
    else
      let l := s.latency x.c a
      match op with
      | .ld => .next (s.loadVia x a fun sn => s.flightTo x fu l a (.load u a sn))
      | .st =>
        let s := s.enterStore x.c (fullStore a o x.step x.step)
        if !s.det x.c && spine x.c a && (s.core x.c).buffer.any (fun st => st.addr == a) then .next (s.hold x (.spineStore fu a))
        else .next s
      | .cax => .next (s.atomicVia x a (s.flightTo x fu (l + 2) a (.cax u a (s.sock x.t (b + 1)) o)))
      | .faa => .next (s.atomicVia x a (s.flightTo x fu (l + 2) a (.faa u a o)))

/-! ### GTU -/

/-- The check of the index vector's segment (R171): the DETAIL of the fault, or none. -/
def State.vectorCheck (s : State) (c t g v n : Nat) : Option Word :=
  let d := s.seg t g
  let top := v + 15 + n
  if d.cls = 0 then some (segDetail 1 g v)
  else if d.sup && !supervisor (s.level t) then some (segDetail 2 g v)
  else if !(d.rd && d.wr) then some (segDetail 3 g v)
  else if !(d.cls == 2 || d.cls == 6) || !(target c d.base == some .sp) then some (segDetail 4 g v)
  else if d.limit ≤ top then some (segDetail 5 g top)
  else none

/-- The gather record cleared: VALID, K and MASK 0 (R171). -/
def State.clearGather (s : State) (t : Nat) : State :=
  let s := s.setSock t 0x242 0
  s.setCtx t { s.ctx t with gather := none }

/-- A GATH trigger (R171, R172, R174): fault on the vector's segment, or a gather from element 0 or from the recorded
element K. -/
def startGath (x : At) (w : Word) (disp : BitVec 12) (s : State) : State :=
  let o := s.sock x.t 0x240
  let n := bits w 27 24 + 1
  let vs := bits o 23 20
  let v := bits o 19 0
  let bs := bits w 23 20
  let bo := lsuOffset w disp
  match s.vectorCheck x.c x.t vs v n with
  | some d => (s.clearGather x.t).faultAt x 9 d
  | none =>
    let key : GatherKey := ⟨vs, v, bs, bo, n⟩
    let done := s.sock x.t 0x242
    let resume := bit done 21 && (s.ctx x.t).gather == some key
    let k := if resume then bits done 20 16 else 0
    let d := s.seg x.t bs
    let l := if d.cls = 0 then 2 else s.latency x.c d.base
    let s := if resume then
        (s.setSock x.t 0x242 (word (bits done 15 0))).setCtx x.t
          { (s.setSock x.t 0x242 (word (bits done 15 0))).ctx x.t with gather := none }
      else s.clearGather x.t
    let g : GatherRun :=
      { vseg := vs, voff := v, bseg := bs, boff := bo, n := n, k0 := k, k := k, phys := x.phys, trig := x.step, base := x.step
        lat := l, shared := d.cls != 0 && s.mayWait x.c d.base, elems := [], next := x.step + 1, again := false }
    let s := s.onCore x.c fun q => { q with gathers := q.gathers ++ [g] }
    if !s.det x.c && d.cls != 0 && spine x.c d.base then s.hold x (.spine .gtu) else s

/-- A GTU trigger (R171): GCAN clears the record. -/
def startGtu (x : At) (op : GtuOp) (w : Word) (disp : BitVec 12) (s : State) : State :=
  match op with
  | .gath => startGath x w disp s
  | .gcan => s.clearGather x.t

/-! ### DSU -/

/-- The first of `n` words from a physical address whose check bits are uncorrectable. -/
def State.firstBad (s : State) (a n : Nat) : Option Nat :=
  (s.check.find? fun e => a ≤ e.1 && e.1 < a + n && e.2 == some .double).map (·.1)

/-- A scan examines words until one satisfies it, at most `n` (R106): how many it examines. -/
def State.scanLen (s : State) (c : Nat) (op : DsuOp) (da : Word) (a : Nat) : Nat → Nat
  | 0 => 0
  | n + 1 => if scanHit op (s.own c a) da then 1 else 1 + State.scanLen s c op da (a + 1) n

/-- The operation is a scan. -/
def isScan (op : DsuOp) : Bool := op == .bscan || op == .bscann

/-- The words of its source that a block operation examines, as far as the segment goes (R106). -/
def State.examined (s : State) (c t : Nat) (op : DsuOp) (k : Nat) : Nat :=
  let x := s.sock t sockDX
  let avail := min k ((s.seg t (bits x 23 20)).limit - bits x 19 0)
  if isScan op then s.scanLen c op (s.sock t sockDA) (ptrAddr s t x) avail else avail

/-- A scan that examines `j` words is satisfied by the last of them. -/
def State.scanFound (s : State) (c t : Nat) (op : DsuOp) (j : Nat) : Bool :=
  isScan op &&
    (match j with
      | 0 => false
      | i + 1 => scanHit op (s.own c (ptrAddr s t (s.sock t sockDX) + i)) (s.sock t sockDA))

/-- The words a block operation examines are read; an uncorrectable one is its fault (R105). -/
def State.readBlock (s : State) (c t j : Nat) (o : ReadOut) : State × ReadOut :=
  match s.firstBad (ptrAddr s t (s.sock t sockDX)) j with
  | some b => ((s.meet 2 c t b).1, .bad 6 (word b))
  | none => (s, o)

/-- A block operation checks its source (R105, R106): a word beyond the segment is no fault of a scan that is satisfied
before it. -/
def State.blockSource (s : State) (c t : Nat) (op : DsuOp) (k j : Nat) : State × ReadOut :=
  let x := s.sock t sockDX
  let g := s.seg t (bits x 23 20)
  if !readsDX op then (s, .ok)
  else
    match s.checkRun c t (bits x 23 20) (bits x 19 0) k .read with
    | .gone b => (s, .gone b)
    | .bad f d =>
      if d = segDetail 5 (bits x 23 20) g.limit ∧ bits x 19 0 < g.limit then
        s.readBlock c t j (if s.scanFound c t op j then .ok else .bad f d)
      else (s, .bad f d)
    | .ok => s.readBlock c t j .ok

/-- A block operation checks its words (R105, R106): the words a scan examines and the first fault, if any. The step in which
an operation with a fault would otherwise complete counts all K words, those of a scan too (log entry 81). -/
def State.planBlock (s : State) (c t : Nat) (op : DsuOp) (k : Nat) : State × Except Fault (DsuResult × Nat) :=
  let y := s.sock t sockDY
  let good : DsuResult := ⟨[], none, 0, 0, 0, 0⟩
  let j := s.examined c t op k
  match s.blockSource c t op k j with
  | (s, .gone b) => (s, .error (.unreachable b))
  | (s, .bad f d) => (s, .ok (dsuFault f d, k))
  | (s, .ok) =>
    if isScan op then (s, .ok (good, j))
    else
      match s.checkRun c t (bits y 23 20) (bits y 19 0) k .write with
      | .gone b => (s, .error (.unreachable b))
      | .bad f d => (s, .ok (dsuFault f d, k))
      | .ok => (s, .ok (good, k))

/-- E of R128 for the string or block a pointer names, when it is read: the target in which its first word lies. Where the
segment is none or the offset lies past LIMIT, which is a fault, the same address counts (log entry 82). -/
def State.dsuExtra (s : State) (use : Bool) (c t : Nat) (p : Word) : Nat :=
  if !use then 0
  else
    let a := ptrAddr s t p
    match target c a with
    | some .qm => 5
    | some .cm => 21 + s.slices (c / 4)
    | some .rq => 25 + s.slices (c / 4) + s.slices (a / 0x80000)
    | _ => 0

/-- The stall that the reads of a block operation meet (R107, R125): a partial store to one of its `n` words from a pointer
that is still in the buffer when the word is read. Of two such stores the later position counts; the DSU's own stores and
none else enter meanwhile. -/
def State.blockOverlap (s : State) (op : DsuOp) (c t step : Nat) (p : Word) (n : Nat) : Nat :=
  if !readsDX op then 0
  else
    let a := ptrAddr s t p
    let k := s.core c
    let l := retireSteps k.lastRet (k.bufferAt step)
    l.foldl (fun acc x =>
      let st := x.2
      if st.part ∧ a ≤ st.addr ∧ st.addr < a + n then
        let u := blockStep op step (st.addr - a)
        if u ≤ x.1 then max acc (3 + (l.filter fun y => decide (u ≤ y.1 ∧ y.1 ≤ x.1)).length) else acc
      else acc) 0

/-- The outcome that the documented words of a saved context hold (R109, R110). -/
def State.ctxResult (s : State) (t : Nat) (op : DsuOp) (n : Nat) : DsuResult :=
  let w5 := s.peek (dsuCtx t 5)
  let f := bits w5 14 12
  if f ≠ 0 then dsuFault f (s.peek (dsuCtx t 6))
  else if writesDY op then
    let ws := s.peeks (dsuCtx t 6) (strWords n)
    let v := strValue n ws
    let fl := (flagsZ (decide (v = 0))).with flagN (isMinus (nib (ws.getLastD 0) 0))
    let fl := if op = .dshrs ∨ op = .dshrt then fl else fl.with flagV (bit w5 11)
    ⟨ws, some (ws.getLastD 0), fl.mask, fl.val, 0, 0⟩
  else
    ⟨[], if op = .dcvtb then some (s.peek (dsuCtx t 6)) else none, s.peek (dsuCtx t 7), s.peek (dsuCtx t 8), 0, 0⟩

/-- The micro-state a resume starts from (R110): the one its micro-trap saved. A context that no micro-trap of the part wrote
is read from its documented words alone. -/
def State.savedRun (s : State) (t : Nat) (op : DsuOp) (n base : Nat) : DsuSaved :=
  match (s.ctx t).dsu with
  | some d => d
  | none => ⟨base - 1 - bits (s.peek (dsuCtx t 0)) 15 0, ⟨[], [], 0, false, none, some (s.ctxResult t op n)⟩⟩

/-- A trigger finds a resumable context (R110). -/
def State.resumable (s : State) (t : Nat) (op : DsuOp) : Bool :=
  let w0 := s.peek (dsuCtx t 0)
  bit w0 39 && bits w0 38 32 == dsuOffset op && !isBlock op &&
    s.peek (dsuCtx t 1) == s.sock t sockDX && s.peek (dsuCtx t 2) == s.sock t sockDY &&
    s.peek (dsuCtx t 3) == s.sock t sockDC && s.peek (dsuCtx t 4) == s.sock t sockDA

/-- VALID of the context cleared. -/
def State.dropContext (s : State) (t : Nat) : State :=
  let s := if bit (s.peek (dsuCtx t 0)) 39 then s.poke (dsuCtx t 0) (putBit (s.peek (dsuCtx t 0)) 39 false) else s
  s.setCtx t { s.ctx t with dsu := none }

/-- The DSU status port after a trigger or an end (R102): MCHK, LASTOP, FCODE. -/
def State.dsuStatus (s : State) (t : Nat) (mchk : Bool) (lastop fcode : Nat) : State :=
  s.setSock t sockDS (putBits (putBits (putBit 0 29 mchk) 22 16 lastop) 15 8 fcode)

/-- A DSU operation begins or resumes: the core stalls until its completion (R103, R110). -/
def State.runDsu (s : State) (x : At) (r : DsuRun) : State :=
  ((s.dsuStatus x.t false (dsuOffset r.op) 0).hold x .dsu).onCore x.c fun k => { k with dsu := some r }

/-- A fresh run of an operation of `base` steps (R103). -/
def At.run (x : At) (op : DsuOp) (base resume words : Nat) (rd : DsuRead) : DsuRun :=
  { op := op, widx := 0, base := base, phys := x.phys, trig := x.step, start := x.step + 1, prog := 0, resume := resume
    words := words, rd := rd }

/-- A DSU trigger (R103, R105, R110): the length fault, a resume, or a fresh start. -/
def startDsu (x : At) (op : DsuOp) (s : State) : Result :=
  let dc := s.sock x.t sockDC
  let n := bits dc 6 0
  let m := bits dc 14 8
  let k := bits dc 20 0
  let bad (v : Nat) : Bool := v == 0 || 100 ≤ v
  let none_ : DsuRead := ⟨[], [], x.step + 1, false, none, none⟩
  if isBlock op then
    match s.planBlock x.c x.t op k with
    | (_, .error e) => .fault e
    | (s, .ok (res, j)) =>
      let px := s.sock x.t sockDX
      let base := dsuSteps op 0 0 k j + (if k = 0 then 0 else s.dsuExtra (readsDX op) x.c x.t px)
      let ov := s.blockOverlap op x.c x.t x.step px j
      .next ((s.dropContext x.t).runDsu x (x.run op base (x.step + base + ov) j { none_ with res := some res }))
  else if (usesM op && bad m) || (usesN op && bad n) then
    .next (((s.dropContext x.t).dsuStatus x.t false (dsuOffset op) 3).faultAt x 14 dc)
  else
    let px := s.sock x.t sockDX
    let py := s.sock x.t sockDY
    let base := dsuSteps op m n 0 0 + s.dsuExtra (readsDX op) x.c x.t px + s.dsuExtra (readsDY op) x.c x.t py
    if s.resumable x.t op then
      let d := s.savedRun x.t op n base
      let r : DsuRun :=
        { op := op, widx := bits (s.peek (dsuCtx x.t 5)) 7 0, base := base, phys := x.phys, trig := x.step
          start := x.step + 4, prog := bits (s.peek (dsuCtx x.t 0)) 15 0, resume := x.step + 4 + d.rem, words := 0
          rd := { d.rd with next := x.step + 4 + d.rd.next } }
      .next ((s.dropContext x.t).runDsu x r)
    else .next ((s.dropContext x.t).runDsu x (x.run op base (x.step + base) 0 none_))

end Sys2Proof.Machine
end

