-- ==== Sys2Proof/Machine/Issue.lean ====
section
/-!
DEFINITION. The issue of an instruction word (R28 to R71): fetch, decode checks, guards, windows, source reads,
destination writes, triggers and transfers, in one operation that every core issue command shares.
-/
namespace Sys2Proof.Machine

/-! ### The moves of an issue -/

/-- One move of an issue with its word's addresses and checkpoint, whether its guard holds, and the scratchpad addresses of
the windows it names as source and destination (R168). -/
structure Move where
  mv   : Mv
  pc   : PAddr
  phys : Nat
  ck   : Checkpoint
  on   : Bool
  wsrc : Option Nat
  wdst : Option Nat
  deriving DecidableEq, Repr

/-- The window a socket number names. -/
def winOf (n : Nat) : Option Nat :=
  match sockOf n with
  | .win w => some w
  | _ => none

/-- The window a source names. -/
def srcWin (x : Source) : Option Nat :=
  match srcNum x with
  | some n => winOf n
  | none => none

/-- A window access that fails its check: socket, physical address of the word, DETAIL (R168). -/
structure WinBad where
  sk     : Nat
  phys   : Nat
  detail : Word
  deriving DecidableEq, Repr

/-- The outcome of resolving windows: pointers and addresses, a failed check, or an address that does not exist. -/
inductive WinOut (α : Type) where
  | ok (a : α)
  | bad (b : WinBad)
  | gone (a : Nat)

/-- One naming of window `w` of tenant `t` with pointers `p` (R168): the scratchpad address and the pointers after
it. -/
def State.nameWindow (s : State) (c t : Nat) (p : Nat → Nat) (w : Nat) (write : Bool) (disp : BitVec 12) (phys : Nat) :
    WinOut (Nat × (Nat → Nat)) :=
  let r := s.reg (coreWin t w)
  let g := bits r 39 36
  let base := bits r 35 23
  let len := bits r 22 11
  let off := if len = 0 then base else base + (((p w : Int) + disp.toInt) % (len : Int)).toNat
  match s.access t g (if write then .write else .read) .window off with
  | .error d => .bad ⟨0x28 + w, phys, d⟩
  | .ok a =>
    if len = 0 then .bad ⟨0x28 + w, phys, segDetail 6 g off⟩
    else if target c a = none then .gone a
    else .ok (a, fun i => if i = w then (p w + 1) % len else p i)

/-- A naming that may be absent. -/
def State.nameOpt (s : State) (c t : Nat) (p : Nat → Nat) (w : Option Nat) (write : Bool) (disp : BitVec 12)
    (phys : Nat) : WinOut (Option Nat × (Nat → Nat)) :=
  match w with
  | none => .ok (none, p)
  | some w =>
    match s.nameWindow c t p w write disp phys with
    | .ok (a, p) => .ok (some a, p)
    | .bad b => .bad b
    | .gone a => .gone a

/-- The windows of an issue resolved in the order of R170: move A then move B, the source then the destination. -/
def State.windows (s : State) (c t : Nat) : (Nat → Nat) → List Move → WinOut (List Move × (Nat → Nat))
  | p, [] => .ok ([], p)
  | p, m :: ms =>
    let src := if m.on then srcWin m.mv.src else none
    let dst := if m.on then winOf m.mv.dst.toNat else none
    match s.nameOpt c t p src false m.mv.disp m.phys with
    | .bad b => .bad b
    | .gone a => .gone a
    | .ok (a, p) =>
      match s.nameOpt c t p dst true m.mv.disp m.phys with
      | .bad b => .bad b
      | .gone a => .gone a
      | .ok (d, p) =>
        match State.windows s c t p ms with
        | .bad b => .bad b
        | .gone a => .gone a
        | .ok (l, p) => .ok ({ m with wsrc := a, wdst := d } :: l, p)

/-- The stored pointers of tenant `t` (R167). -/
def State.winPtr (s : State) (t : Nat) : Nat → Nat := fun w => s.fld (coreWin t w) 10 0

/-- The pointers put back. -/
def State.setPtrs (s : State) (t : Nat) (p : Nat → Nat) : State :=
  (range 0 4).foldl (fun s w => if p w = s.winPtr t w then s else s.setFld (coreWin t w) 10 0 (p w)) s

/-! ### Source reads -/

/-- CORE_STAT.STALL of a stall (R55): 1 DSU, 2 divide, 3 a spine access or a partial overlap. -/
def Hold.cause : Hold → Nat
  | .dsu => 1
  | .divide => 2
  | _ => 3

/-- CORE_STAT as it reads (R55): BUSY, STALL, LEVEL, TENANT and SLOT of the core as it stands. -/
def State.coreStatView (s : State) (c : Nat) : Word :=
  let k := s.core c
  let units : List FU := [.alu0, .alu1, .mul, .fxu0, .fxu1, .blu0, .blu1, .lsu0, .lsu1, .gtu, .dsu, .ctl]
  let busy (u : FU) : Bool :=
    k.flights.any (fun f => decide (f.unit = u)) ||
      (match u with
        | .gtu => k.gathers != []
        | .dsu => k.dsu.isSome
        | .ctl => k.fenceStep.isSome
        | _ => k.hold.any fun h =>
          match h with
          | .overlap f _ => decide (f.unit = u)
          | .spineStore v _ => decide (v = u)
          | _ => false)
  let b := (units.foldl (fun (a : Nat × Nat) u => (2 * a.1, if busy u then a.2 + a.1 else a.2)) (1, 0)).2
  let stall := ((k.hold.filter Hold.stalls).head?.map Hold.cause).getD 0
  let lvl := if k.slot < 8 then s.level (s.tenant c) else 0
  putBits (putBits (putBits (putBits (putBits (0 : Word) 35 24 b) 23 22 stall) 21 20 lvl) 12 4 k.tenant) 3 0 k.slot

/-- An operation in flight of FXU `u` names accumulator `n` (R86). -/
def Core.namesAcc (k : Core) (u n : Nat) : Bool :=
  k.flights.any fun f =>
    match f.act with
    | .fxu v op _ _ => v.val == u && fxuAcc op == n
    | _ => false

/-- The FXU and accumulator a socket number names, if it is an accumulator's state socket (R83). -/
def accSocket (n : Nat) : Option (Nat × Nat) :=
  if 0x142 ≤ n ∧ n < 0x146 then some (0, n - 0x142)
  else if 0x1C2 ≤ n ∧ n < 0x1C6 then some (1, n - 0x1C2)
  else none

/-- An accumulator socket is touched within the distance of R86 of an operation that names it. -/
def State.accClash (s : State) (c n : Nat) : Bool :=
  match accSocket n with
  | some (u, i) => (s.core c).namesAcc u i
  | none => false

/-- An operation in flight will write socket `n` when it completes (R33, R95, R166). -/
def Flight.writes (f : Flight) (n : Nat) : Bool :=
  match f.act with
  | .result ws _ _ => ws.any fun w => w.1 == n
  | .fxu u op _ _ => n == 0x142 + 0x80 * u.val + fxuAcc op || (fxuStores op && n == 0x141 + 0x80 * u.val)
  | .bit u op _ _ _ _ _ => op == .bget && n == 0xC1 + 0x20 * u.val
  | .load u _ _ => n == 0x81 + 0x20 * u.val
  | .cax u _ _ _ => n == 0x81 + 0x20 * u.val
  | .faa u _ _ => n == 0x81 + 0x20 * u.val
  | .fault _ _ => false

/-- A source socket is read within the distance of R134 of a trigger whose result it takes: an operation in flight, or a gather
whose element 0 has not come, will write it. -/
def Core.readsEarly (k : Core) (n : Nat) : Bool :=
  k.flights.any (fun f => f.writes n) || (n == 0x241 && k.gathers.any fun g => g.k == 0)

/-- What a source socket other than a window reads (R28, R47). One that an operation in flight will write reads an undefined
value (R9, R37, R86, R134): free value `i` of this issue. -/
def State.readSock (s : State) (c t n i : Nat) : Word :=
  if n = 0x23 then 0
  else if n = sockDS then putBit (putBit (s.sock t sockDS) 31 (s.core c).dsu.isSome) 30 (bit (s.peek (dsuCtx t 0)) 39)
  else if n = 0x341 then s.coreStatView c
  else if 0x340 ≤ n ∧ n < 0x349 then s.reg (coreReg c (n - 0x340))
  else if (s.core c).readsEarly n then Config.freeWord (s.free + i)
  else s.sock t n

/-- A source read (R28, R169, R176): the value, or none where a window's word is uncorrectable. -/
def State.readSrc (s : State) (c t i : Nat) (m : Move) : State × Option Word :=
  match m.mv.src with
  | .imm v => (s, some (v.signExtend 40))
  | .sock n =>
    match m.wsrc with
    | none => (s, some (s.readSock c t n.toNat i))
    | some a =>
      match s.meet 2 c t a with
      | (s, true) => (s, some (s.peek a))
      | (s, false) => (s, none)

/-- The source reads of an issue, before any destination write (R30). A move whose guard fails reads nothing (R32). -/
def State.readAll (s : State) (c t : Nat) : Nat → List Move → State × List (Move × Option Word)
  | _, [] => (s, [])
  | i, m :: ms =>
    if m.on then
      let (s, v) := s.readSrc c t i m
      let (s, l) := State.readAll s c t (i + 1) ms
      (s, (m, v) :: l)
    else
      let (s, l) := State.readAll s c t (i + 1) ms
      (s, (m, none) :: l)

/-! ### Destination writes -/

/-- A core register written at supervisor level: only its RW fields change (R56); MODE waits for the sixth move
(R45). A second CORE_MODE write within the five moves, which R46 forbids to the tools, replaces the pending MODE and starts the
count again (log entry 83). -/
def State.writeCore (s : State) (c k : Nat) (v : Word) : State :=
  if k = 0 then
    (s.setFlag (coreMode c) 3 (bit v 3)).onCore c fun q => { q with modeChange := some (0, bit v 0) }
  else if 6 ≤ k then s.setReg (coreReg c k) v
  else s

/-- A write to a destination socket that is no trigger and no window (R28, R50, R52, R53, R86). `step` is the issue
step, `flg` FLG before it. -/
def State.writeSock (s : State) (c t step n i : Nat) (flg v : Word) : State :=
  if n = 0x21 then s.setSock t 0x20 (putBits (s.sock t 0x20) 39 23 (bits v 16 0))
  else if n = 0x22 then
    (s.setSock t 0x22 (v &&& flgMask)).onCore c fun k => { k with flgMove := some (step, flg) }
  else if n = 0x23 then s
  else if 0x340 ≤ n ∧ n < 0x349 then s.writeCore c (n - 0x340) v
  else if 0x380 ≤ n ∧ n < 0x388 then s.setSock t n (word (bits v 0 0))
  else if s.accClash c n then s.setSock t n (Config.freeWord (s.free - 2 + i))
  else s.setSock t n v

/-- The destination writes of an issue that start no operation (R30). Where both moves write IMM, one of them through IMMH, the
spec gives no order: the model makes move A's write first (log entry 84). -/
def State.writeAll (s : State) (c t step : Nat) (flg : Word) : Nat → List (Move × Option Word) → State
  | _, [] => s
  | i, (m, some v) :: l =>
    let s' := match m.wdst with
      | some a => s.poke a v
      | none => if mvTriggers m.mv then s else s.writeSock c t step m.mv.dst.toNat i flg v
    State.writeAll s' c t step flg (i + 1) l
  | i, (_, none) :: l => State.writeAll s c t step flg (i + 1) l

/-! ### CTL -/

/-- The transfer that a CTL trigger makes (R137 to R140): `w` is its operand, `tk` says whether its move takes effect. The
target of a direct transfer is known without its guard (R140). -/
def transferOf (m : Move) (w : Word) (tk : Bool) : Option Transfer :=
  (kindOf m.mv).map fun k =>
    let w := match m.mv.src with
      | .imm v => v.signExtend 40
      | _ => w
    ⟨k, tk, m.pc, pcAdd m.pc 1, if k.rel then pcAdd m.pc w.toInt else BitVec.ofNat 24 (bits w 23 0)⟩

/-- A transfer trigger: LINK for a call that takes effect (R139), then the transfer. -/
def State.doTransfer (s : State) (x : At) (r : Transfer) (ck : Checkpoint) : State :=
  let s := if r.kind.call && r.taken then s.setSock x.t 0x30 (word r.next.toNat) else s
  s.transfer x.c x.step r ck

/-- A raise of signal 640 + T[6:0] that R215 forbids: an F-world tenant, a route with EN = 1 and WORLD = 0. -/
def State.signalBarred (s : State) (t : Nat) (w : Word) : Bool :=
  let n := 640 + bits w 6 0
  bit w 15 && s.flag (evtTctx t) 39 && s.flag (evtRoute n) 24 && !s.flag (evtRoute n) 16

/-- The physical address of word `i` of the newest frame (R216). -/
def State.frameAddr (s : State) (t i : Nat) : Nat :=
  let tc := s.reg (evtTctx t)
  (s.seg t (bits tc 31 28)).base + 8 * (bits tc 27 24 - 1) + i

/-- The youngest partial store to a word of the newest frame that holds ERET (R216). -/
def State.eretHold (s : State) (c t step : Nat) : Option Nat :=
  let b := (s.core c).bufferAt step
  ((range 0 8).filterMap fun i =>
    match bufHit (s.frameAddr t i) 1 b .none with
    | .part p => some p
    | _ => none).max?

/-- ERET is a privilege violation (R216): DEPTH 0; user level with a frame of LVL 1; a frame CPRI below the current
one. -/
def State.eretBarred (s : State) (c t : Nat) : Bool :=
  let tc := s.reg (evtTctx t)
  let w := s.own c (s.frameAddr t 0)
  bits tc 27 24 == 0 || (!supervisor (bits tc 38 37) && bit w 24) || decide (bits w 29 25 < bits tc 36 32)

/-- The frame words as a load in ERET's step reads them (R216): none where one is uncorrectable. -/
def State.readFrame (s : State) (c t : Nat) : Nat → Nat → State × Option (List Word)
  | _, 0 => (s, some [])
  | i, n + 1 =>
    match s.readOwn c t (s.frameAddr t i) with
    | (s, none) => (s, none)
    | (s, some w) =>
      match State.readFrame s c t (i + 1) n with
      | (s, some ws) => (s, some (w :: ws))
      | r => r

/-- The state of a frame is restored (R216): RETPC, level, CPRI, FLG, IMM, LINK, P0 to P7 and TOPSEG; DEPTH falls by
one; the first word at RETPC issues 6 st after the ERET word, which issued in step `step`, and no acceptance point lies
between (R207). -/
def State.restore (s : State) (c t step : Nat) (f : List Word) : State :=
  let w (i : Nat) : Word := f.getD i 0
  let tc := s.reg (evtTctx t)
  let tc' := putBits (putBits (putBits (putBits tc 38 37 (2 * bits tc 39 39 + bits (w 0) 24 24)) 36 32 (bits (w 0) 29 25))
    31 28 (bits (w 5) 3 0)) 27 24 (bits tc 27 24 - 1)
  let s := (s.setReg (evtTctx t) tc').setSocks t
    ([(0x22, w 1 &&& flgMask), (0x20, w 6), (0x30, word (bits (w 7) 23 0))] ++
      (range 0 8).map fun i => (0x380 + i, word (bits (w 7) (24 + i) (24 + i))))
  (s.redirect c step (BitVec.ofNat 24 (bits (w 0) 23 0)) (step + 6)).onCore c fun k => { k with quiet := step + 6 }

/-- The CTL triggers that are no transfer (R127, R153, R215, R216). -/
def startCtl (x : At) (op : CtlOp) (w : Word) (s : State) : State :=
  match op with
  | .fence =>
    let p := s.lastPerform x.c
    if p ≤ x.step then s else s.onCore x.c fun k => { k with hold := k.hold ++ [.fence p] }
  | .iflush =>
    let s := s.onCore x.c fun k => { k with icache := [] }
    if s.det x.c then s else s.redirect x.c x.step (s.core x.c).pc (x.step + 6)
  | .eret =>
    match s.readFrame x.c x.t 0 8 with
    | (s, none) => s.faultAt x 15 (word ((s.firstBad (s.frameAddr x.t 0) 8).getD 0))
    | (s, some f) => s.restore x.c x.t x.step f
  | .svc => if bit w 15 then s.occur (640 + bits w 6 0) else s.faultAt x 17 w
  | _ => s

/-! ### Triggers -/

/-- One trigger of an issue starts its operation (R28). -/
def startTrigger (x : At) (m : Move) (tr : Trigger) (w : Word) (s : State) : Result :=
  match tr with
  | .alu u op => .next (startAlu x u op w s)
  | .mul op => .next (startMul x op w s)
  | .fxu u op => .next (startFxu x u op w s)
  | .blu u op => .next (startBlu x u op w s)
  | .lsu u op => startLsu x u op w m.mv.disp s
  | .gtu op => .next (startGtu x op w m.mv.disp s)
  | .dsu op => startDsu x op s
  | .ctl op =>
    match transferOf m w true with
    | some r => .next (s.doTransfer x r m.ck)
    | none => .next (startCtl x op w s)

/-- The triggers of an issue, move A first (R30). A transfer whose guard fails is resolved too (R129). -/
def startAll (c t step : Nat) (flg : Word) : List (Move × Option Word) → State → Result
  | [], s => .next s
  | (m, v) :: l, s =>
    let x : At := ⟨c, t, step, m.pc, m.phys, flg, m.mv.dst.toNat⟩
    match sockOf m.mv.dst.toNat, v with
    | .trig tr, some w => andThen (startTrigger x m tr w s) (startAll c t step flg l)
    | .trig (.ctl _), none =>
      match transferOf m 0 false with
      | some r => if m.on then startAll c t step flg l s else startAll c t step flg l (s.doTransfer x r m.ck)
      | none => startAll c t step flg l s
    | _, _ => startAll c t step flg l s

/-! ### The issue -/

/-- The next word is the one at END with DEPTH 0 (R225). -/
def State.endWord (s : State) (c : Nat) : Bool :=
  (s.core c).pc.toNat == s.fld (frmTend (s.tenant c)) 23 0 && s.fld (evtTctx (s.tenant c)) 27 24 == 0

/-- The core issues tenant words (R224 to R226, R372, R373): its slot runs, nothing holds issue, no trap waits, the
step is within the budget, and the next word is not the one at END with DEPTH 0. -/
def State.canIssue (s : State) (c : Nat) : Bool :=
  let k := s.core c
  k.phase == .running && k.hold == [] && k.trap.isNone && !s.fatal && !s.offline c &&
    decide (s.fld (coreScnt c) 31 0 < s.fld (frmSlotC c k.slot) 31 0) && !s.endWord c

/-- The mode that the decode checks see (R68). -/
def State.mode (s : State) (c t : Nat) : Mode := ⟨s.level t, s.flag (coreMode c) 2, s.flag (coreMode c) 1⟩

/-- The moves of a word with its addresses, checkpoint and guards (R36, R62). -/
def State.movesOf (s : State) (t : Nat) (f : Form) (pc : PAddr) (phys : Nat) (ck : Checkpoint) : List Move :=
  f.moves.map fun m =>
    ⟨m, pc, phys, ck, guardHolds (s.sock t 0x22) (fun i => s.sock t (0x380 + i)) m.guard, none, none⟩

/-- The first word's own conditions for a pair (R40, R107, R211): a one-move word whose destination is no CTL trigger
and no core register, and which triggers nothing that may stall. A trigger of more than one step, whose result, flags or
accumulator the next words would reach a step too early, is not paired, for pairing never changes the result of a program
(R40). -/
def pairFirst (m : Mv) : Bool :=
  match sockOf m.dst.toNat with
  | .core _ => false
  | .trig (.alu _ _) => true
  | .trig (.blu _ op) => bluReg op
  | .trig _ => false
  | _ => true

/-- The ports of a unit's block that a trigger samples, or writes when it completes. -/
def portOf (u : FU) (n : Nat) : Bool :=
  match u with
  | .alu0 => decide (0x40 ≤ n ∧ n < 0x48)
  | .alu1 => decide (0x60 ≤ n ∧ n < 0x68)
  | .blu0 => decide (0xC0 ≤ n ∧ n < 0xC8)
  | .blu1 => decide (0xE0 ≤ n ∧ n < 0xE8)
  | _ => false

/-- The second word reads FLG, or an operation it triggers samples a flag in its trigger step. -/
def readsFlags (m : Mv) : Bool :=
  decide (srcNum m.src = some 0x22) ||
    (match sockOf m.dst.toNat with
      | .trig (.alu _ op) => op == .addc || op == .subc || op == .dadj || op == .dsbj || op == .dadjl || op == .dsbjl
      | _ => false)

/-- What a word written or triggered first would change for the word behind it if both acted in one step (R40: pairing never
changes the result of a program). -/
def pairHazard (a b : Mv) : Bool :=
  let names (p : Nat → Bool) : Bool := p b.dst.toNat || (match srcNum b.src with
    | some n => p n
    | none => false)
  match sockOf a.dst.toNat with
  | .trig t => names (portOf (unitOf t)) || readsFlags b
  | _ => (a.dst == 0x21 && names (· == 0x20)) || (a.dst == 0x22 && readsFlags b)

/-- The second word's conditions (R40, R67, R107): format 01 or 10 with guard code 0, not reading or writing the first
word's destination, not triggering the DSU. The model pairs no second word that names a window or ends in ERET or
SVC, whose own checks could hold it (log entry 15). -/
def pairSecond (a : Mv) (f : Form) : Bool :=
  match f.moves with
  | [m] =>
    decide (m.guard = .long 0) && m.dst != a.dst && decide (m.src ≠ .sock a.dst) && (winOf m.dst.toNat).isNone &&
      (srcWin m.src).isNone && !pairHazard a m &&
      (match sockOf m.dst.toNat with
        | .trig (.dsu _) => false
        | .trig (.ctl .eret) => false
        | .trig (.ctl .svc) => false
        | _ => true)
  | _ => false

/-- No operation, gather or store of the core is on its way, which a word issued a step earlier could meet (R40: pairing never
changes the result of a program). -/
def Core.pairs (k : Core) : Bool := k.flights == [] && k.gathers == [] && k.buffer == [] && k.modeChange.isNone

/-- The second word of a pair, when the PQ stage forms one (R40, R67; whether it does is a free choice): the next word of the
queue `l`, which has come as far and is not the target of a transfer. -/
def State.partner (s : State) (c t : Nat) (f : Form) (l : List FWord) : List Move :=
  match f.moves, l with
  | [m], w :: _ =>
    if s.det c || !(s.core c).pairs || !pairFirst m || !Config.freeBool s.free || w.jump || (s.core c).now < w.at_ + depth false ||
        (w.pc.toNat == s.fld (frmTend t) 23 0 && s.fld (evtTctx t) 27 24 == 0) ||
        (w.transfer && decide ((s.core c).now < (s.core c).pred.freeAt)) then []
    else
      match w.got with
      | .word x phys =>
        let g := decodeWord x
        if decodeCheck (s.mode c t) g = none && pairSecond m g && checkBundle (f.moves ++ g.moves) = none then
          s.movesOf t g w.pc phys w.ck
        else []
      | _ => []
  | _, _ => []

/-- Traps of the decode rule that depend on values (R214, R215, R216): an ERET or a raise that is a privilege
violation. -/
def State.valueTrap (s : State) (c t : Nat) (vs : List (Move × Option Word)) : Option Bad :=
  match vs with
  | [] => none
  | (m, v) :: l =>
    match sockOf m.mv.dst.toNat, v with
    | .trig (.ctl .svc), some w => if s.signalBarred t w then some ⟨3, 0x303⟩ else State.valueTrap s c t l
    | .trig (.ctl .eret), some _ => if s.eretBarred c t then some ⟨3, 0x302⟩ else State.valueTrap s c t l
    | _, _ => State.valueTrap s c t l

/-- An enabled move triggers ERET. -/
def hasEret (ms : List Move) : Bool := ms.any fun m => m.on && sockOf m.mv.dst.toNat == .trig (.ctl .eret)

/-- A decode-rule trap of the word at `phys` (R210): issue of the word is held until the trap is accepted. -/
def State.trapWord (s : State) (c code sk phys : Nat) (detail : Word) : State :=
  s.raise c ⟨code, sk, phys, detail, true⟩

/-- `n` words at the head of the front end go to MV, or EX, in step `step`: PA, or FE, goes on with the words behind (R39,
R41). -/
def State.popFront (s : State) (c n step : Nat) (next : PAddr) : State :=
  (s.onCore c fun k =>
    { k with pc := next, front := k.front.drop n, miss := k.miss.map fun m => { m with go := false } }).runFront c step

/-- The bookkeeping of an issue of `n` words with `moves` moves (R45, R55): counters, and the moves since a CORE_MODE
write. -/
def State.issued (s : State) (c n moves : Nat) : State :=
  let s := s.count (coreIssue c) 39 0 n
  let s := if n = 2 then s.count (corePaired c) 39 0 1 else s
  (s.onCore c fun k => { k with
    entering := none
    moved := true
    modeChange := match k.modeChange with
      | some (i, m) => some (i + moves, m)
      | none => none }).charge c 1 false

/-- An uncorrectable word met by a window read is the data-error fault of its word (R176). -/
def State.windowFaults (s : State) (c : Nat) : List (Move × Option Word) → State
  | [] => s
  | (m, v) :: l =>
    match m.on, v, m.wsrc, srcNum m.mv.src with
    | true, none, some a, some n => State.windowFaults (s.raise c ⟨15, n, m.phys, word a, false⟩) c l
    | _, _, _, _ => State.windowFaults s c l

/-- The free counter after an issue's source reads: it moves past the free values the issue may have used (an
accumulator touched too early, the pairing of performance mode). -/
def State.spendIssue (s : State) (c : Nat) (ms : List Move) : State :=
  let clash (m : Move) : Bool :=
    m.on && (s.accClash c m.mv.dst.toNat || (match srcNum m.mv.src with
      | some n => (s.core c).readsEarly n
      | none => false))
  if !s.det c || ms.any clash then { s with free := s.free + 4 } else s

/-- An issue that acts: the state after its windows and sources were read, the issuing tenant, step and program address,
its words, FLG before it, and its moves with the values read (none where a guard fails). -/
structure Ready where
  s    : State
  t    : Nat
  step : Nat
  pc   : PAddr
  n    : Nat
  flg  : Word
  vs   : List (Move × Option Word)

/-- What the next word of a core comes to: nothing issues under this command; the word is held, with the state in which it
waits; its physical address does not exist; or it acts. -/
inductive Prep where
  | idle
  | held (s : State)
  | gone (a : Nat)
  | ready (r : Ready)

/-- The checks of an issue that depend on values (R168, R170, R214 to R216), and its source reads (R30): `ms` are the
moves of its `n` words at `pc`. -/
def State.prepareMoves (s : State) (c t : Nat) (pc : PAddr) (n : Nat) (ms : List Move) : Prep :=
  let step := (s.core c).now
  let flg := s.sock t 0x22
  match s.windows c t (s.winPtr t) ms with
  | .bad b => .held (s.trapWord c 9 b.sk b.phys b.detail)
  | .gone a => .gone a
  | .ok (ms, ptrs) =>
    match hasEret ms && !s.eretBarred c t, s.eretHold c t step with
    | true, some p => .held (s.onCore c fun k => { k with hold := k.hold ++ [.eretOverlap step p], holdPc := pc })
    | _, _ =>
      let (s1, vs) := s.readAll c t 0 ms
      match s1.valueTrap c t vs with
      | some b => .held (s.trapWord c b.code b.sk ((ms.head?.map (·.phys)).getD 0) (word b.sk))
      | none => .ready ⟨(s1.setPtrs t ptrs).spendIssue c ms, t, step, pc, n, flg, vs⟩

/-- A mode change takes effect once five moves have issued since it was written (R45). -/
def State.dueMode (s : State) (c : Nat) : State :=
  match (s.core c).modeChange with
  | some (i, _) => if 5 ≤ i then s.applyMode c else s
  | none => s

/-- The word `w` at the head of the front end comes to issue when its wait is over (R39, R41, R142, R144): everything that surely
happens before has happened, and the budget lasts. -/
def State.mayAwait (s : State) (c : Nat) (w : FWord) : Bool :=
  s.settled c (s.headReady c w) && decide (s.headReady c w - (s.core c).now < s.budgetLeft c)

/-- The wait itself: its steps are charged, and the front end goes on. -/
def State.await (s : State) (c : Nat) (w : FWord) : State :=
  (s.chargeTo c (s.headReady c w) false).runFront c (s.headReady c w - 1)

/-- A word that fetch refused, or that is uncorrectable, would issue (R150, R214): its trap. Code 15 is no decode trap. -/
def State.fetchTrap (s : State) (c code phys : Nat) (d : Word) : State :=
  if code = 15 then (s.error 2 c (s.tenant c) phys).raise c ⟨15, 0, phys, d, false⟩ else s.trapWord c code 0 phys d

/-- What the word at the head of the front end comes to (R28 to R71, R210), `l` being the words behind it. -/
def prepareHead (sel : List Mv → Bool) (c : Nat) (w : FWord) (l : List FWord) (s : State) : Prep :=
  let t := s.tenant c
  match w.got with
  | .gone a => .gone a
  | .trap code phys d => .held (s.fetchTrap c code phys d)
  | .word x phys =>
    let f := decodeWord x
    match decodeCheck (s.mode c t) f with
    | some b => .held (s.trapWord c b.code b.sk phys (word b.sk))
    | none =>
      let second := s.partner c t f l
      let ms := s.movesOf t f w.pc phys w.ck ++ second
      if !sel (ms.map (·.mv)) then .idle
      else s.prepareMoves c t w.pc (if second = [] then 1 else 2) ms

/-- What the next word of core `c` comes to under the commands whose moves `sel` selects. A miss in the instruction cache holds
it, and so does a stall that a gather's element begins while it waits. -/
def prepare (sel : List Mv → Bool) (c : Nat) (s0 : State) : Prep :=
  if !s0.canIssue c then .idle
  else
    let s := (s0.dueMode c).bringHead c
    match (s.core c).front with
    | [] => .held s
    | w :: _ =>
      if (s.core c).miss.any (!·.go) then .held s
      else if !s.mayAwait c w then .idle
      else
        let s := s.await c w
        match (s.core c).hold, (s.core c).front with
        | [], w :: l => prepareHead sel c w l s
        | _, _ => .held s

/-- The state in which the triggers of an issue start (R30): its destinations are written and it is counted. The count of
R45 moves on before the issue's own write of CORE_MODE. -/
def Ready.written (r : Ready) (c : Nat) : State :=
  let w := (r.s.popFront c r.n r.step (pcAdd r.pc r.n)).writeAll c r.t r.step r.flg 0 r.vs
  let mc := (w.core c).modeChange
  let fresh := r.vs.any fun x => x.2.isSome && sockOf x.1.mv.dst.toNat == .core 0
  let s := w.issued c r.n r.vs.length
  let s := if fresh then s.onCore c fun q => { q with modeChange := mc } else s
  s.windowFaults c r.vs

/-- The word, or pair of words, acts: destinations are written and triggers started (R30). -/
def Ready.run (r : Ready) (c : Nat) : Result := startAll c r.t r.step r.flg r.vs (r.written c)

/-- The issue of the next word of core `c`: nothing where the core does not issue, or the moves of the word are not ones
that `sel` selects; a decode trap holds the word. -/
def issueWord (sel : List Mv → Bool) (c : Nat) (s : State) : Result :=
  match prepare sel c s with
  | .idle => .next s
  | .held s => .next s
  | .gone a => .fault (.unreachable a)
  | .ready r => r.run c

/-- The issue of the next word of core `c` under the command `op`. -/
def issue (op : Op) (c : Nat) (s : State) : Result := issueWord (issues op) c s

/-- The next word of core `c` would issue in this step and raises a trap of the decode rule, which goes before a routed
event (R210). -/
def State.wouldTrap (s : State) (c : Nat) : Bool :=
  match issueWord (fun _ => true) c s with
  | .next s' =>
    (s.core c).trap.isNone && ((s'.core c).trap.map (·.decode)).getD false && decide ((s'.core c).now = (s.core c).now)
  | _ => false

end Sys2Proof.Machine
end

