-- ==== Sys2Proof/Machine/Alu.lean ====
section
/-!
DEFINITION. Words that trigger an ALU (R75, R76): the result and its flags arrive at the completion.
-/
namespace Sys2Proof.Machine

/-- ADD (R76): a word that triggers addition. -/
def execAdd (c : CoreId) (s : State) : Result := issue (.alu .add) c s

/-- ADDC (R76): a word that triggers addition with carry. -/
def execAddc (c : CoreId) (s : State) : Result := issue (.alu .addc) c s

/-- SUB (R76): a word that triggers subtraction. -/
def execSub (c : CoreId) (s : State) : Result := issue (.alu .sub) c s

/-- SUBC (R76): a word that triggers subtraction with carry. -/
def execSubc (c : CoreId) (s : State) : Result := issue (.alu .subc) c s

/-- AND (R76): a word that triggers conjunction. -/
def execAnd (c : CoreId) (s : State) : Result := issue (.alu .and) c s

/-- OR (R76): a word that triggers disjunction. -/
def execOr (c : CoreId) (s : State) : Result := issue (.alu .or) c s

/-- XOR (R76): a word that triggers exclusive or. -/
def execXor (c : CoreId) (s : State) : Result := issue (.alu .xor) c s

/-- ANDN (R76): a word that triggers conjunction with the complement. -/
def execAndn (c : CoreId) (s : State) : Result := issue (.alu .andn) c s

/-- SHL (R76): a word that triggers shift left. -/
def execShl (c : CoreId) (s : State) : Result := issue (.alu .shl) c s

/-- SHR (R76): a word that triggers logical shift right. -/
def execShr (c : CoreId) (s : State) : Result := issue (.alu .shr) c s

/-- SAR (R76): a word that triggers arithmetic shift right. -/
def execSar (c : CoreId) (s : State) : Result := issue (.alu .sar) c s

/-- ROL (R76): a word that triggers rotation. -/
def execRol (c : CoreId) (s : State) : Result := issue (.alu .rol) c s

/-- MIN (R76): a word that triggers signed minimum. -/
def execMin (c : CoreId) (s : State) : Result := issue (.alu .min) c s

/-- MAX (R76): a word that triggers signed maximum. -/
def execMax (c : CoreId) (s : State) : Result := issue (.alu .max) c s

/-- MINU (R76): a word that triggers unsigned minimum. -/
def execMinu (c : CoreId) (s : State) : Result := issue (.alu .minu) c s

/-- MAXU (R76): a word that triggers unsigned maximum. -/
def execMaxu (c : CoreId) (s : State) : Result := issue (.alu .maxu) c s

/-- NEG (R76): a word that triggers negation. -/
def execNeg (c : CoreId) (s : State) : Result := issue (.alu .neg) c s

/-- ABS (R76): a word that triggers absolute value. -/
def execAbs (c : CoreId) (s : State) : Result := issue (.alu .abs) c s

/-- PASS (R76): a word that triggers copy. -/
def execPass (c : CoreId) (s : State) : Result := issue (.alu .pass) c s

/-- SEXT (R76): a word that triggers sign extension. -/
def execSext (c : CoreId) (s : State) : Result := issue (.alu .sext) c s

/-- DADJ (R76): a word that triggers the decimal sum over ten nibbles. -/
def execDadj (c : CoreId) (s : State) : Result := issue (.alu .dadj) c s

/-- DADJL (R76): a word that triggers the decimal sum of two sign words. -/
def execDadjl (c : CoreId) (s : State) : Result := issue (.alu .dadjl) c s

/-- DSBJ (R76): a word that triggers the decimal difference over ten nibbles. -/
def execDsbj (c : CoreId) (s : State) : Result := issue (.alu .dsbj) c s

/-- DSBJL (R76): a word that triggers the decimal difference of two sign words. -/
def execDsbjl (c : CoreId) (s : State) : Result := issue (.alu .dsbjl) c s

end Sys2Proof.Machine
end

