-- ==== Sys2Proof/Machine/Blu.lean ====
section
/-!
DEFINITION. Words that trigger a BLU (R92 to R100): register forms and memory forms.
-/
namespace Sys2Proof.Machine

/-- BTST (R95): a word that triggers BTST. -/
def execBtst (c : CoreId) (s : State) : Result := issue (.blu .btst) c s

/-- BSET (R95): a word that triggers BSET. -/
def execBset (c : CoreId) (s : State) : Result := issue (.blu .bset) c s

/-- BCLR (R95): a word that triggers BCLR. -/
def execBclr (c : CoreId) (s : State) : Result := issue (.blu .bclr) c s

/-- BINV (R95): a word that triggers BINV. -/
def execBinv (c : CoreId) (s : State) : Result := issue (.blu .binv) c s

/-- BCNT (R95): a word that triggers BCNT. -/
def execBcnt (c : CoreId) (s : State) : Result := issue (.blu .bcnt) c s

/-- BFFS (R95): a word that triggers BFFS. -/
def execBffs (c : CoreId) (s : State) : Result := issue (.blu .bffs) c s

/-- BEXT (R95): a word that triggers BEXT. -/
def execBext (c : CoreId) (s : State) : Result := issue (.blu .bext) c s

/-- BSWAP (R95): a word that triggers BSWAP. -/
def execBswap (c : CoreId) (s : State) : Result := issue (.blu .bswap) c s

/-- BLD (R95): a word that triggers BLD. -/
def execBld (c : CoreId) (s : State) : Result := issue (.blu .bld) c s

/-- BLDN (R95): a word that triggers BLDN. -/
def execBldn (c : CoreId) (s : State) : Result := issue (.blu .bldn) c s

/-- BAND (R95): a word that triggers BAND. -/
def execBand (c : CoreId) (s : State) : Result := issue (.blu .band) c s

/-- BANDN (R95): a word that triggers BANDN. -/
def execBandn (c : CoreId) (s : State) : Result := issue (.blu .bandn) c s

/-- BOR (R95): a word that triggers BOR. -/
def execBor (c : CoreId) (s : State) : Result := issue (.blu .bor) c s

/-- BORN (R95): a word that triggers BORN. -/
def execBorn (c : CoreId) (s : State) : Result := issue (.blu .born) c s

/-- BXOR (R95): a word that triggers BXOR. -/
def execBxor (c : CoreId) (s : State) : Result := issue (.blu .bxor) c s

/-- BOUT (R95): a word that triggers BOUT. -/
def execBout (c : CoreId) (s : State) : Result := issue (.blu .bout) c s

/-- BOUTN (R95): a word that triggers BOUTN. -/
def execBoutn (c : CoreId) (s : State) : Result := issue (.blu .boutn) c s

/-- BSETM (R95): a word that triggers BSETM. -/
def execBsetm (c : CoreId) (s : State) : Result := issue (.blu .bsetm) c s

/-- BCLRM (R95): a word that triggers BCLRM. -/
def execBclrm (c : CoreId) (s : State) : Result := issue (.blu .bclrm) c s

/-- BTAS (R95): a word that triggers BTAS. -/
def execBtas (c : CoreId) (s : State) : Result := issue (.blu .btas) c s

/-- BTAC (R95): a word that triggers BTAC. -/
def execBtac (c : CoreId) (s : State) : Result := issue (.blu .btac) c s

/-- BGET (R95): a word that triggers BGET. -/
def execBget (c : CoreId) (s : State) : Result := issue (.blu .bget) c s

/-- BPUT (R95): a word that triggers BPUT. -/
def execBput (c : CoreId) (s : State) : Result := issue (.blu .bput) c s

end Sys2Proof.Machine
end

