-- ==== Sys2Proof/Machine/Ptp.lean ====
section
/-!
DEFINITION. The time base and PTP time (R355 to R357).
-/
namespace Sys2Proof.Machine

/-- The clock block changed by a function. -/
def State.onClk (s : State) (f : Clock → Clock) : State := { s with clk := f s.clk }

/-- Nanoseconds in a second. -/
def second : Nat := 1000000000

/-- PTP time moved by a number of nanoseconds, modulo 2^48 seconds. -/
def Clock.ptpAdd (k : Clock) (d : Int) : Clock :=
  let t : Int := ((k.sec.toNat * second + k.ns : Nat) : Int) + d
  let n := (t % ((2 ^ 48 * second : Nat) : Int)).toNat
  { k with sec := BitVec.ofNat 48 (n / second), ns := n % second }

/-- `n` advances of PTP time (R356): each 1 ns plus RATE × 2^−40 ns, the fraction in a 40-bit accumulator whose carry
or borrow adds or omits one nanosecond. -/
def Clock.ptpRun (k : Clock) (rate : Word) (n : Nat) : Clock :=
  let a : Int := (k.frac.toNat : Int) + (n : Int) * rate.toInt
  { (k.ptpAdd ((n : Int) + a / (2 ^ 40 : Int))) with frac := BitVec.ofInt 40 a }

/-- One command of CLK_PTPCMD (R357): LOAD first, which clears the fraction, then STEP. -/
def Clock.ptpDo (k : Clock) (x : PtpCmd) : Clock :=
  let k := match x.load with
    | some (sec, ns) => { k with sec := sec, ns := ns, frac := 0 }
    | none => k
  k.ptpAdd x.step

/-- The commands whose count has come are performed. The count itself still shows the time from before them: stamps and captures
taken in it carry that time (R357). -/
def Clock.ptpDue (k : Clock) : Clock :=
  { ((k.ptpCmds.filter fun x => decide (x.count ≤ k.tb.toNat)).foldl Clock.ptpDo k) with
    ptpCmds := k.ptpCmds.filter fun x => decide (k.tb.toNat < x.count) }

/-- The counts until the nanoseconds wrap by counting (R356): the least n with ns + n + (frac + n × RATE) / 2^40 ≥ 10^9. -/
def State.untilWrap (s : State) : Nat :=
  let d : Int := (second : Int) - (s.clk.ns : Int)
  let need : Int := d * (2 ^ 40 : Int) - (s.clk.frac.toNat : Int)
  let rate : Int := (2 ^ 40 : Int) + (s.reg clkPtprate).toInt
  ((need + rate - 1) / rate).toNat

/-- PPS_OUT rises in the count in which the nanoseconds wrap by counting, with WIDTH not 0; while it is high its width is counted
afresh (R358). No pulse comes of a count in which a command takes effect (R357). -/
def State.wrapPulse (s : State) : State :=
  let w := s.fld clkPpsctl 8 0
  if w = 0 ∨ s.clk.ptpCmds.any fun x => decide (x.count ≤ s.clk.tb.toNat) then s
  else
    let s' := s.onClk fun k => { k with pps := some (s.clk.tb.toNat + 1000000 * w) }
    if s.clk.pps.isNone then s'.emit (.ppsOut true) else s'

/-- PPS_OUT falls once its width has passed (R358). -/
def State.pulseEnd (s : State) : State :=
  match s.clk.pps with
  | some t => if t ≤ s.clk.tb.toNat then (s.onClk fun k => { k with pps := none }).emit (.ppsOut false) else s
  | none => s

/-- `n` counts of the time base, with PTP time, less those that R279 leaves out (R355, R356). -/
def State.plainCount (s : State) (n : Nat) : State :=
  s.onClk fun k =>
    let m := n - k.owed
    { (k.ptpRun (s.reg clkPtprate) m) with tb := k.tb + BitVec.ofNat 64 m, owed := k.owed - n }

/-- Counts up to the next instant at which the clock block acts by itself: a command of CLK_PTPCMD, a wrap, the end of a pulse. -/
def State.untilAct (s : State) (n : Nat) : Nat :=
  let w := max 1 s.untilWrap
  let f := match s.clk.pps with
    | some t => max 1 (t - s.clk.tb.toNat)
    | none => n
  let c := s.clk.ptpCmds.foldl (fun a x => min a (max 1 (x.count - s.clk.tb.toNat))) n
  min n (s.clk.owed + min w (min f c))

/-- `n` counts with what happens in them; `fuel` bounds the instants at which something does. -/
def State.counts (s : State) : Nat → Nat → State
  | 0, n => s.plainCount n
  | fuel + 1, n =>
    if n = 0 then s
    else
      let s := s.onClk Clock.ptpDue
      let m := s.untilAct n
      let s' := s.plainCount m
      let s' := if s'.clk.sec ≠ s.clk.sec then s'.wrapPulse else s'
      State.counts s'.pulseEnd fuel (n - m)

/-- `n` counts of the time base, with PTP time and PPS_OUT (R355 to R358). The nanoseconds wrap at most once in half a second of
counts. -/
def State.advance (s : State) (n : Nat) : State :=
  if s.fld clkPpsctl 8 0 = 0 ∧ s.clk.pps.isNone ∧ s.clk.ptpCmds = [] then s.plainCount n
  else s.counts (n / 100000000 + 8 + 2 * s.clk.ptpCmds.length) n

/-- What the block does when no command waits (log entry 7): one count of the time base. -/
def State.tickBase (s : State) : State := if s.clk.running then s.advance 1 else s

/-- The time base has reached a count: a command whose instant the spec fixes happens no earlier than that instant (log
entry 28). -/
def State.reach (s : State) (n : Nat) : State :=
  if s.clk.tb.toNat < n then s.advance (n - s.clk.tb.toNat + s.clk.owed) else s

/-- A count of the time base that R279 adds, in PTP time too (R356). -/
def State.addCount (s : State) : State :=
  let s' := s.onClk fun k => { (k.ptpAdd 1) with tb := k.tb + 1 }
  if s'.clk.sec ≠ s.clk.sec then s'.wrapPulse else s'

/-- A count that R279 omits: the next one is left out, so that the time base is never set back (R355). -/
def State.omitCount (s : State) : State := s.onClk fun k => { k with owed := k.owed + 1 }

/-- The time base stepped by θ; PTP time stays (R279, R356). -/
def State.stepBase (s : State) (d : Int) : State := s.onClk fun k => { k with tb := k.tb + BitVec.ofInt 64 d }

/-- PTP seconds bits 47:40 with nanoseconds, as in R346 word 1. -/
def Clock.ptpHi (k : Clock) : Word := putBits (word (k.ns % 2 ^ 30)) 37 30 (bits k.sec 47 40)

/-- PTP seconds bits 39:0. -/
def Clock.ptpLo (k : Clock) : Word := word (bits k.sec 39 0)

end Sys2Proof.Machine
end

