-- ==== Sys2Proof/Machine/Complete.lean ====
section
/-!
DEFINITION. Completions of a core's operations, the store buffer's happenings, the ends of stalls, and machine checks
of a core (R33 to R35, R81, R98 to R100, R103 to R108, R115, R124 to R130, R172, R173, R371).
-/
namespace Sys2Proof.Machine

/-- The flags of a completion in step `due` (R34, R35, R74): a move that wrote FLG in that step stands over it, but
OVS once set stays. -/
def State.setFlags (s : State) (c t due : Nat) (mask val : Word) : State :=
  let plain := s.setSock t 0x22 (applyFlags (s.sock t 0x22) mask val)
  match (s.core c).flgMove with
  | some (step, w) =>
    if step = due then
      let ovs := mask &&& val &&& maskBits flagOVS 1
      (s.setSock t 0x22 (s.sock t 0x22 ||| ovs)).onCore c fun k =>
        { k with flgMove := some (step, applyFlags w mask val) }
    else plain
  | none => plain

/-- BIT as an operation that completes in step `due` reads it (R98). -/
def State.bitNow (s : State) (c t due : Nat) : Bool :=
  match (s.core c).flgMove with
  | some (step, w) => if step = due then bit w flagBIT else bit (s.sock t 0x22) flagBIT
  | none => bit (s.sock t 0x22) flagBIT

/-- The word a load gets (R125, R176, R189): the buffered word, or the target with the core's own earlier stores that
have retired and are not yet performed; none where the target's word is uncorrectable. -/
def State.loadWord (s : State) (c t trig a : Nat) (seen : Seen) : State × Option Word :=
  match seen with
  | .buffered w => (s, some w)
  | .target => s.targetWord c t a ((s.core c).retired.filter fun st => st.entered < trig)

/-- The new BIT of a read or combine form (R95, R98): `m` is the addressed bit, `b` BIT before. -/
def bluCombine (op : BluOp) (b m : Bool) : Bool :=
  match op with
  | .bld => m
  | .bldn => !m
  | .band => b && m
  | .bandn => b && !m
  | .bor => b || m
  | .born => b || !m
  | .bxor => b != m
  | .btas => m
  | .btac => m
  | _ => b

/-- The bit a write form stores (R95, R98). -/
def bluWritten (op : BluOp) (b : Bool) : Bool :=
  match op with
  | .bout => b
  | .boutn => !b
  | .bsetm => true
  | _ => false

/-- A data-error fault of a flight (R176, R214). -/
def State.dataFault (s : State) (c a : Nat) (f : Flight) : State := s.raise c ⟨15, f.sk, f.phys, word a, false⟩

/-- An atomic at its bank (R100, R192, R176): on an uncorrectable word it is not performed. -/
def State.atomic (s : State) (c t a : Nat) (w : Word → Option Word) : State × Option Word :=
  match s.meet 3 c t a with
  | (s, true) =>
    (match w (s.peek a) with
      | some v => s.poke a v
      | none => s, some (s.peek a))
  | (s, false) => (s, none)

/-- A BLU memory form completes (R95, R98 to R100). -/
def State.finishBit (s : State) (c t : Nat) (f : Flight) (u : Fin 2) (op : BluOp) (a lo n : Nat) (o : Word) (seen : Seen) :
    State :=
  let r := 0xC1 + 0x20 * u.val
  let b := s.bitNow c t f.due
  if bluAtomic op then
    match s.atomic c t a fun w => some (putBit w lo (op == .btas)) with
    | (s, some w) => let fl := flagsBit (bit w lo); s.setFlags c t f.due fl.mask fl.val
    | (s, none) => s
  else if op = .bput then s.enterStore c (partStore a lo n o f.trig f.due)
  else if bluStores op then s.enterStore c (partStore a lo 1 (word (bluWritten op b).toNat) f.trig f.due)
  else
    match s.loadWord c t f.trig a seen with
    | (s, none) => s.dataFault c a f
    | (s, some w) =>
      if op = .bget then
        let v := word (bits w (lo + n - 1) lo)
        let fl := flagsZ (v == 0)
        (s.setSock t r v).setFlags c t f.due fl.mask fl.val
      else
        let fl := flagsBit (bluCombine op b (bit w lo))
        s.setFlags c t f.due fl.mask fl.val

/-- An operation completes (R34). -/
def State.finish (s : State) (c t : Nat) (f : Flight) : State :=
  match f.act with
  | .result ws m v => (s.setSocks t ws).setFlags c t f.due m v
  | .fxu u op o w =>
    let b := 0x140 + 0x80 * u.val
    let r := fxuOut op (s.sock t (b + 2 + fxuAcc op)) o w
    let s := s.setSock t (b + 2 + fxuAcc op) r.acc
    let s := match r.r with
      | some v => s.setSock t (b + 1) v
      | none => s
    s.setFlags c t f.due r.fl.mask r.fl.val
  | .bit u op a lo n o seen => s.finishBit c t f u op a lo n o seen
  | .load u a seen =>
    match s.loadWord c t f.trig a seen with
    | (s, some w) => s.setSock t (0x81 + 0x20 * u.val) w
    | (s, none) => s.dataFault c a f
  | .cax u a e o =>
    match s.atomic c t a fun w => if w = e then some o else none with
    | (s, some w) =>
      let fl := flagsZ (w == e)
      (s.setSock t (0x81 + 0x20 * u.val) w).setFlags c t f.due fl.mask fl.val
    | (s, none) => s
  | .faa u a o =>
    match s.atomic c t a fun w => some (w + o) with
    | (s, some w) => s.setSock t (0x81 + 0x20 * u.val) w
    | (s, none) => s
  | .fault code d => s.raise c ⟨code, f.sk, f.phys, d, false⟩

/-- The oldest flight of a unit, and the flights without it. -/
def takeFlight (u : FU) : List Flight → Option (Flight × List Flight)
  | [] => none
  | f :: l =>
    if f.unit = u then some (f, l)
    else
      match takeFlight u l with
      | some (g, l) => some (g, f :: l)
      | none => none

/-- No other operation that surely completes by then comes before one of step `d` (R34, R35): operations of one step complete
in the order they were triggered. `l` and `m` are those triggered before and after it. -/
def inTurn (d : Nat) (l m : List Flight) : Bool :=
  l.all (fun g => g.shared || decide (d < g.due)) && m.all (fun g => g.shared || decide (d ≤ g.due))

/-- The flights before and after the oldest one of a unit. -/
def splitFlight (u : FU) : List Flight → List Flight × List Flight
  | [] => ([], [])
  | f :: l => if f.unit = u then ([], l) else (f :: (splitFlight u l).1, (splitFlight u l).2)

/-- The oldest operation of unit `u` may complete in step `d` before all others. -/
def Core.mayComplete (k : Core) (u : FU) (d : Nat) : Bool :=
  inTurn d (splitFlight u (markWaits [] k.flights)).1 (splitFlight u (markWaits [] k.flights)).2

/-- An operation of unit `u` completed in step `d`: the ones behind it complete no earlier (R33). -/
def behind (u : FU) (d : Nat) (l : List Flight) : List Flight :=
  l.map fun g => if g.unit = u then { g with due := max g.due d } else g

/-- Grants ahead of a request of core `c` made it wait (R118, R182, R187): the wait that counts, and the state in which
SPN_WAITMAX has seen it. -/
def State.waited (s : State) (shared : Bool) (wait : Nat) : State × Nat := if shared then (s.noteWait wait, wait) else (s, 0)

/-- The oldest operation of unit `u` completes in its step, moved on by `wait` where its access may wait (R33, R34, R118). A
divide in its stall completes by DIVIDE_COMPLETION; a load over the spine in performance mode ends its stall (R38). Out of
its turn, or before its step can be reached, nothing completes. -/
def completeUnit (c : Nat) (u : FU) (wait : Nat) (s : State) : State :=
  let k := s.core c
  match takeFlight u k.flights with
  | none => s
  | some (f, l) =>
    let last := l.all fun g => decide (g.unit ≠ u)
    let (s', w) := s.waited f.shared wait
    let d := f.due + w
    if (k.hold.contains .divide && decide (u = .mul) && last) || !k.mayComplete u d ||
        !s.canReach c (d + 1) then s
    else
      let s := (s'.passTo c (d + 1)).onCore c fun k =>
        { k with flights := behind u d l, hold := if last then k.hold.erase (.spine u) else k.hold }
      s.finish c (s.tenant c) { f with due := d }

/-- The divide stall ends 41 steps after the trigger (R81). -/
def completeDivide (c : Nat) (s : State) : State :=
  let k := s.core c
  match k.hold.contains .divide, takeFlight .mul k.flights with
  | true, some (f, l) =>
    if l.all (fun g => decide (g.unit ≠ .mul)) && k.mayComplete .mul f.due &&
        s.canReach c (f.due + 1) then
      let s := (s.passTo c (f.due + 1)).onCore c fun k =>
        { k with flights := l, hold := k.hold.erase .divide }
      s.finish c (s.tenant c) f
    else s
  | _, _ => s

/-! ### The DSU -/

/-- The trap code and DETAIL of a DSU fault (R105, R176, R214). -/
def dsuTrap (r : DsuResult) : Nat × Word :=
  if r.fcode = 4 then (9, r.detail) else if r.fcode = 6 then (15, r.detail) else (13, r.detail)

/-- FCODE of the status port (R102): a data error has none. -/
def dsuFcode (r : DsuResult) : Nat := if r.fcode = 6 then 0 else r.fcode

/-- A DSU operation completes with the outcome `d` (R103 to R107). The steps in which the words of a decimal result enter the
store buffer are not given: one a step in the last steps before r − 1, and DSGN's nibble in r − 1 (log entry 85). -/
def State.finishDsu (s : State) (c t : Nat) (r : DsuRun) (d : DsuResult) : State :=
  let off := dsuOffset r.op
  let last := r.resume - 1
  let s := s.dsuStatus t false off (dsuFcode d)
  if d.fcode ≠ 0 then
    let (code, x) := dsuTrap d
    s.raise c ⟨code, 0x280 + off, r.phys, x, false⟩
  else if isBlock r.op then
    let (s, hit) := s.blockWords c t r.op r.trig 0 (bits (s.sock t sockDC) 20 0)
    if r.op = .bscan ∨ r.op = .bscann then
      let fl := flagsZ hit
      s.setFlags c t last fl.mask fl.val
    else s
  else
    let n := bits (s.sock t sockDC) 6 0
    let ws := d.words.drop r.widx
    let s := s.dsuWrite c t r.trig (last - ws.length) r.widx ws
    let s := if r.op = .dsgn then
        let y := s.sock t sockDY
        let a := (s.seg t (bits y 23 20)).phys s.frame (bits y 19 0 + strWords n - 1)
        s.dsuStore c last (partStore a 0 4 (word (nib (s.sock t sockDA) 0)) r.trig last)
      else s
    let s := match d.da with
      | some w => s.setSock t sockDA w
      | none => s
    s.setFlags c t last d.fmask d.fval

/-- A read of the DSU operation may wait for grants (R118): performance mode, a string or block that it reads outside the
scratchpad. -/
def State.dsuWaits (s : State) (c t : Nat) (op : DsuOp) : Bool :=
  (readsDX op && s.mayWait c (ptrAddr s t (s.sock t sockDX))) || (readsDY op && s.mayWait c (ptrAddr s t (s.sock t sockDY)))

/-- `cuts` bursts of a performance-mode block operation were ended by the BURST limit (R183, R187): no more than its words
fill. -/
def State.noteCuts (s : State) (c : Nat) (r : DsuRun) (cuts : Nat) : State :=
  if isBlock r.op && !s.det c then s.count spnBurstcut 39 0 (min cuts (r.words / max 1 (s.fld spnCtl 4 0))) else s

/-- The DSU's stall ends when issue resumes (R103), later by the waits of its reads (R118). Its reading phase ends before;
a word that does not exist stops the machine. -/
def completeDsu (c wait cuts : Nat) (s : State) : Result :=
  match (s.core c).dsu with
  | none => .next s
  | some r =>
    if !s.canReach c r.resume then .next s
    else
      let s1 := s.passTo c r.resume
      match (s1.core c).dsu with
      | none => .next s1
      | some r =>
        let t := s1.tenant c
        let (s2, w) := s1.waited (s1.dsuWaits c t r.op) wait
        let n := r.resume + w
        match r.rd.gone, r.rd.res with
        | some a, _ => .fault (.unreachable a)
        | none, none => .next s1
        | none, some d =>
          if !(s1.settled c n && s1.canReach c n) then .next s1
          else
            let s := (s2.passTo c n).onCore c fun k => { k with dsu := none, hold := k.hold.erase .dsu }
            .next ((s.finishDsu c t { r with resume := n } d).noteCuts c r cuts)

/-- A core is taken offline (R372): its bit, event 975, and its tenant stopped as for a machine check. -/
def State.takeOffline (s : State) (c : Nat) : State :=
  let s := (s.setFlag (errCoreoff (c / 32)) (c % 32) true).occur 975
  if (s.core c).phase = .running then s.stopTenant c 0
  else s.onCore c fun k => if k.phase = .housekeeping then { k with phase := .idle } else k

/-- The retest of R371 is queued after an M1 error; a second M1 error within 1,024 frames takes the core offline. -/
def State.m1 (s : State) (c : Nat) : State :=
  let last := (s.core c).lastM1
  let s := s.onCore c fun k => { k with retest := true, lastM1 := some s.frame }
  match last with
  | some f => if s.frame - f ≤ 1024 ∧ !s.offline c then faultEdge s (s.takeOffline c) else s
  | none => s

/-- A parity error on a micro-word fetch (R115, R371) after `held` steps of the stall: the DSU stops, MCHK, FCODE 5, VALID
cleared; words written stay, and a block operation's registers hold what they last received; the tenant in the slot is stopped
by the machine check. -/
def microstoreParity (c held : Nat) (s : State) : State :=
  let a := (s.core c).now + held
  match (s.core c).dsu with
  | none => s
  | some r =>
    if r.resume ≤ a ∨ !s.canReach c a then s
    else
      let s := s.passTo c a
      let t := s.tenant c
      let s := if isBlock r.op then s.stopBlock c t a r
        else
          let j := r.written s.free
          (s.dsuWrite c t r.trig (a - (j - r.widx)) r.widx ((r.result.take j).drop r.widx)).spend
      let s := (s.dropContext t).dsuStatus t true (dsuOffset r.op) 5
      let s := s.onCore c fun k => { k with dsu := none, hold := k.hold.erase .dsu }
      (((s.error 9 c t 0).stopTenant c 0).m1 c)

/-! ### The GTU -/

/-- A gather stopped by a fault at its next element (R173). -/
def State.gatherFault (s : State) (c t : Nat) (g : GatherRun) (code : Nat) (d : Word) : State :=
  let s := s.recordGather t g
  let s := s.onCore c fun k => { k with gathers := [], hold := k.hold.erase (.spine .gtu) }
  s.raise c ⟨code, 0x248, g.phys, d, false⟩

/-- The word an element gets (R125, R172, R189): the buffered one, or the target with the stores before the gather that had
entered the buffer when the element was issued. -/
def State.elemWord (s : State) (c t : Nat) (g : GatherRun) (a step : Nat) (seen : Seen) : State × Option Word :=
  match seen with
  | .buffered w => (s, some w)
  | .target =>
    s.targetWord c t a ((s.core c).retired.filter fun st => decide (st.trig < g.trig ∧ st.entered ≤ step))

/-- An element completes with its word (R172): the buffer word, MASK, and R for element 0. The last one ends the stall of a
gather over the spine, which counts L + n steps and the waits after the trigger step (R122; log entry 86). A gather behind it
goes on with the next step at the earliest (R33; log entry 92). -/
def State.putElem (s : State) (c t : Nat) (g : GatherRun) (rest : List GatherRun) (w : Word) : State :=
  let s := s.poke ((s.seg t g.vseg).phys s.frame g.voff + 16 + g.k) w
  let s := s.setSock t 0x242 (word (2 ^ (g.k + 1) - 1))
  let s := if g.k = 0 then s.setSock t 0x241 w else s
  if g.k + 1 < g.n then s.onCore c fun k => { k with gathers := { g with k := g.k + 1, elems := g.elems.drop 1 } :: rest }
  else
    let rest := match rest with
      | h :: l => { h with base := max h.base (g.due + 1 + h.k0 - (h.lat + h.k)) } :: l
      | [] => []
    let s := s.onCore c fun k => { k with gathers := rest }
    if (s.core c).hold.contains (.spine .gtu) && rest == [] then
      (s.passTo c (g.base + 1 + g.lat + (g.n - g.k0))).onCore c fun k => { k with hold := k.hold.erase (.spine .gtu) }
    else s

/-- The element `e` at the head of the oldest gather, issued before, completes (R172), or its fault is found (R173); `wait`
delays it and those behind it where grants may (R118, R122). -/
def State.completeElem (s : State) (c wait : Nat) (g : GatherRun) (e : Elem) : Result :=
  let t := s.tenant c
  let (s', w) := s.waited g.waits wait
  let g := { g with base := g.base + w }
  match e with
  | .gone a => .fault (.unreachable a)
  | .fault code d => .next (if s.canReach c (g.due + 1) then (s'.passTo c (g.due + 1)).gatherFault c t g code d else s)
  | .read a n seen =>
    if !s.canReach c (g.due + 1) then .next s
    else
      match (s'.passTo c g.due).elemWord c t g a n seen with
      | (s, none) => .next (s.gatherFault c t g 15 (word a))
      | (s, some v) =>
        let s := s.passTo c (g.due + 1)
        match (s.core c).gathers with
        | h :: rest => .next (s.putElem c t { h with base := h.base + w } rest v)
        | [] => .next s

/-- The next element of the oldest gather completes (R172): it is issued first, in its step. -/
def gatherElement (c wait : Nat) (s : State) : Result :=
  let s := match (s.core c).gathers with
    | g :: _ => if g.elems = [] ∧ s.canReach c (g.next + 1) then s.passTo c (g.next + 1) else s
    | [] => s
  match (s.core c).gathers with
  | g :: _ =>
    match g.elems with
    | e :: _ => s.completeElem c wait g e
    | [] => .next s
  | [] => .next s

/-! ### The store buffer and the other holds -/

/-- The head of the store buffer retires in its step (R124). -/
def retireStore (c : Nat) (s : State) : State :=
  match (s.core c).buffer with
  | [] => s
  | st :: _ =>
    let n := (s.core c).retireStep st
    if s.canReach c (n + 1) then
      let s := s.passTo c (n + 1)
      s.onCore c fun k => k.retire (s.latency c)
    else s

/-- The hold is the stall of a store to a word over the spine (R124). -/
def Hold.storeTo (a : Nat) : Hold → Bool
  | .spineStore _ b => a == b
  | _ => false

/-- The `k`-th retired store is performed in its step, moved on by `wait` where its access may wait (R118, R124, R189): not
before an earlier store to the same target path. In performance mode the last store to a word over the spine ends the
stalls of those stores (R38, R124). -/
def performStore (c k wait : Nat) (s : State) : State :=
  let q := s.core c
  match q.retired[k]? with
  | none => s
  | some st =>
    let (s', w) := s.waited (s.mayWait c st.addr) wait
    let n := st.due + w + 1
    if (q.retired.take k).any (fun e => pathOf c e.addr == pathOf c st.addr) || !s.canReach c n then s
    else
      let s := (s'.passTo c n).onCore c fun q =>
        let rest := q.retired.eraseIdx k
        let ends := !((rest ++ q.buffer).any fun e => e.addr == st.addr)
        { q with retired := rest, hold := if ends then q.hold.filter fun h => !h.storeTo st.addr else q.hold }
      s.perform c st

/-- The partial-overlap stall that ends first; of those that end together, the first. -/
def firstOverlap : List Hold → Option Hold
  | [] => none
  | h :: l =>
    match h.overlapEnd, firstOverlap l with
    | none, o => o
    | some _, none => some h
    | some a, some g => if (g.overlapEnd.any fun b => b < a) then some g else some h

/-- The load of a partial overlap proceeds as if triggered in the last step of the stall (R125): it compares its word
afresh; an atomic reads its bank (R193). In performance mode a spine access now stalls as such (R38). -/
def State.reissue (s : State) (c : Nat) (f : Flight) (p : Nat) : State :=
  let again (a : Nat) : Seen :=
    match bufHit a 1 (s.core c).buffer .none with
    | .full w => .buffered w
    | _ => .target
  let f : Flight := { f with trig := f.trig + 3 + p, due := f.due + 3 + p }
  let f : Flight :=
    match f.act with
    | .load u a _ => { f with act := .load u a (again a), shared := f.shared && again a == .target }
    | .bit u op a lo n o _ => { f with act := .bit u op a lo n o (again a), shared := f.shared && again a == .target }
    | _ => f
  let far (a : Nat) : Bool := !s.det c && spine c a
  let wait :=
    match f.act with
    | .load _ a .target => far a
    | .cax _ a _ _ => far a
    | .faa _ a _ => far a
    | _ => false
  (s.launchOp c f).onCore c fun k => { k with hold := if wait then k.hold ++ [.spine f.unit] else k.hold }

/-- A partial-overlap stall ends after 3 + p steps (R125, R193, R216): the load proceeds; the ERET word issues afresh; a
gather goes on with its element. -/
def endOverlap (c : Nat) (s : State) : State :=
  match firstOverlap (s.core c).hold with
  | none => s
  | some h =>
    let n := h.overlapEnd.getD 0
    if !s.canReach c n then s
    else
      let s := (s.passTo c n).onCore c fun k => { k with hold := k.hold.erase h }
      match h with
      | .overlap f p => s.reissue c f p
      | _ => s

/-- A fence releases issue once every store it waits for is performed (R127, R190): one that a BLU form triggered before it has
yet to make, too (log entry 77). -/
def releaseFence (c : Nat) (s : State) : State :=
  let q := s.core c
  match q.fenceStep with
  | some p =>
    if q.buffer = [] ∧ q.retired = [] ∧ q.flights.all (fun f => f.store.isNone) ∧ s.canReach c (p + 1) then
      (s.passTo c (p + 1)).onCore c fun k => { k with hold := k.hold.erase (.fence p) }
    else s
  | none => s

/-- The refill of a line ends the fetch hold after L + 3 steps and the waits of its accesses (R130): once the word that stood in
GR is gone, or issue stands. -/
def refill (c wait : Nat) (s : State) : State :=
  match (s.core c).miss with
  | some m => if m.go && (s.core c).hold == [] then s else (s.waited (s.mayWait c (8 * m.line)) wait).1.endMiss c m wait
  | none => s

end Sys2Proof.Machine
end

