-- ==== Sys2Proof/Machine/Images.lean ====
section
/-!
DEFINITION. The sets that frames carry: input and output images, the mirror set and its staging, SHARED segments
(R16, R19, R25, R26, R163, R284, R285), and the schedule (R222).
-/
namespace Sys2Proof.Machine

/-- Segment `x / 16` of every tenant in the order of core, tenant index and segment number: tenant and segment. -/
def allSegs : List (Nat × Nat) := (range 0 16384).map fun x => (x / 16, x % 16)

/-- The descriptors that a test selects, in the order of R285. -/
def State.segsWhere (s : State) (p : Seg → Bool) : List Seg :=
  (allSegs.map fun x => s.seg x.1 x.2).filter p

/-- A segment placed by ascending BASE. -/
def insertSeg (g : Seg) : List Seg → List Seg
  | [] => [g]
  | h :: l => if g.base ≤ h.base then g :: h :: l else h :: insertSeg g l

/-- Segments by ascending BASE. -/
def sortSegs : List Seg → List Seg
  | [] => []
  | g :: l => insertSeg g (sortSegs l)

/-- The input images, and the output images, by ascending address. -/
def State.inputSegs (s : State) : List Seg := sortSegs (s.segsWhere fun g => g.cls == 5 && !g.idir)
def State.outputSegs (s : State) : List Seg := sortSegs (s.segsWhere fun g => g.cls == 5 && g.idir)

/-- The physical addresses of input set `n`, ascending (R163, R274). -/
def State.inputSet (s : State) (n : Nat) : List Nat :=
  s.inputSegs.flatMap fun g => range (g.base + n % 3 * g.limit) g.limit

/-- The physical addresses of output set `n`, ascending (R163, R285). -/
def State.outputSet (s : State) (n : Nat) : List Nat :=
  s.outputSegs.flatMap fun g => range (g.base + n % 2 * g.limit) g.limit

/-- The MIRROR segments in the order of R284. -/
def State.mirrorSegs (s : State) : List Seg := s.segsWhere fun g => g.cls == 6

/-- The words of the mirror set. -/
def State.mirrorSize (s : State) : Nat := (s.mirrorSegs.map (·.limit)).foldl (· + ·) 0

/-- The first physical word of staging buffer `b` (R284). -/
def State.staging (s : State) (b : Nat) : Nat := 0x1000000 + 8 * s.fld mirStage 17 0 + b * 8 * s.fld mirStage 35 18

/-- The physical addresses of the mirror set of frame `n` in the staging, in order (R284). -/
def State.mirrorSet (s : State) (n : Nat) : List Nat := range (s.staging (n % 2)) s.mirrorSize

/-- The SHARED words, ascending; words that several tenants share count once. -/
def State.sharedSet (s : State) : List Nat :=
  ((sortSegs (s.segsWhere fun g => g.cls == 7)).foldl
    (fun (a : Nat × List (List Nat)) g =>
      let lo := max a.1 g.base
      (max a.1 (g.base + g.limit), range lo (g.base + g.limit - lo) :: a.2)) (0, [])).2.reverse.flatten

/-- A commons word lies in a SHARED segment, or in an input or output image (R281). -/
def State.sharedWord (s : State) (a : Nat) : Bool :=
  !(s.segsWhere fun g => g.cls == 7 && decide (g.base ≤ a) && decide (a < g.base + g.limit)).isEmpty

/-- The span of an IMAGE segment (R163). -/
def Seg.span (g : Seg) : Nat := (if g.idir then 2 else 3) * g.limit

/-- A commons word lies in an image segment's buffers (R281). -/
def State.imageWord (s : State) (a : Nat) : Bool :=
  !(s.segsWhere fun g => g.cls == 5 && decide (g.base ≤ a) && decide (a < g.base + g.span)).isEmpty

/-- A word lies in the published buffer of an input image, or, from frame 1, in the latched buffer of an output image
(R320). -/
def State.roleBarred (s : State) (a : Nat) : Bool :=
  let k := s.frame
  !(s.segsWhere fun g =>
    g.cls == 5 &&
      (if g.idir then k != 0 && decide (g.base + (k - 1) % 2 * g.limit ≤ a) &&
          decide (a < g.base + ((k - 1) % 2 + 1) * g.limit)
        else decide (g.base + k % 3 * g.limit ≤ a) && decide (a < g.base + (k % 3 + 1) * g.limit))).isEmpty

/-- An enabled tenant slot entry names tenant `t` (R223). -/
def State.scheduled (s : State) (t : Nat) : Bool :=
  (range 0 8).any fun k => s.flag (frmSlotA (t / 8) k) 39 && s.fld (frmSlotA (t / 8) k) 36 34 == t % 8

/-- Words are copied, oldest address first. -/
def State.copyWords (s : State) : List (Nat × Nat) → State
  | [] => s
  | (a, b) :: l => State.copyWords (s.poke b (s.peek a)) l

end Sys2Proof.Machine
end

