-- ==== Sys2Proof/Machine/Sets.lean ====
section
/-!
DEFINITION. The swappable sets (R259 to R262): the active set, the shadow, the set that assembles output frames, the
exchange table (R338 to R340), and the CRC-64 of a set (R275, R282).
-/
namespace Sys2Proof.Machine

/-- The active set: Verso when CFG_STAT.ACTIVE is 1 (R267). -/
def State.active (s : State) : Map Word := if s.flag cfgStat 26 then s.verso else s.recto

/-- The shadow set. -/
def State.shadow (s : State) : Map Word := if s.flag cfgStat 26 then s.recto else s.verso

/-- The state with the active set replaced. -/
def State.setActive (s : State) (m : Map Word) : State := if s.flag cfgStat 26 then { s with verso := m } else { s with recto := m }

/-- The state with the shadow set replaced. -/
def State.setShadow (s : State) (m : Map Word) : State := if s.flag cfgStat 26 then { s with recto := m } else { s with verso := m }

/-- The set that governs assembly and sending in this frame (R265): the shadow keeps the old one while FRESH is 1. -/
def State.assembly (s : State) : Map Word := if s.flag cfgSwstat 6 then s.shadow else s.active

/-- The tenants of CFG_TRUNn whose WORLD is 0, as bits: their bits read 1 (R261). -/
def State.sBits (s : State) (n : Nat) : Nat :=
  (range 0 32).foldl (fun a j => if s.flag (evtTctx (32 * n + j)) 39 then a else a + 2 ^ j) 0

/-- Word `x` of a set as it reads (R261, R267). -/
def State.setWord (s : State) (m : Map Word) (x : Nat) : Word :=
  if 0x20 ≤ x ∧ x < 0x40 then m.get x 0 ||| word (s.sBits (x - 0x20)) else m.get x 0

/-- Tenant `t` is held: its CFG_TRUN bit in the active set is 0 (R261). -/
def State.held (s : State) (t : Nat) : Bool := !bit (s.setWord s.active (0x20 + t / 32)) (t % 32)

/-- The word offsets of a set that hold fields (R267). -/
def setOffsets : List Nat := [0, 1] ++ range 0x20 32 ++ range 0x200 0x1000

/-- The CRC-64 of a set: its words in ascending offset (R275; DEDUCED, log entry 18). -/
def State.setCrc (s : State) (m : Map Word) : Digest := crcWords (setOffsets.map (s.setWord m))

/-- An exchange entry (R338). -/
structure Exch where
  valid : Bool
  tx    : Bool
  port  : Nat
  evSend : Bool
  evLate : Bool
  tag   : Bool
  macm  : Bool
  seg   : Nat
  tenant : Nat
  pack  : Nat
  safe  : Bool
  zeroto : Bool
  etype : Nat
  key   : Nat
  koff  : Nat
  mac   : Nat
  pcp   : Nat
  vid   : Nat
  woff  : Nat
  nw    : Nat
  poff  : Nat
  tmo   : Nat
  deriving DecidableEq, Repr

/-- Entry `e` of a set (R338). -/
def exch (m : Map Word) (e : Nat) : Exch :=
  let w (i : Nat) : Word := m.get (0x200 + 8 * e + i) 0
  { valid := bit (w 0) 39, tx := bit (w 0) 38, port := bits (w 0) 37 36, evSend := bit (w 0) 34,
    evLate := bit (w 0) 35, tag := bit (w 0) 33, macm := bit (w 0) 32, seg := bits (w 0) 31 28,
    tenant := bits (w 0) 27 18, pack := bits (w 0) 17 16, safe := bit (w 0) 15, zeroto := bit (w 0) 14,
    etype := bits (w 1) 39 24, key := bits (w 1) 23 8, koff := bits (w 1) 7 0,
    mac := bits (w 2) 39 0 * 256 + bits (w 3) 39 32, pcp := bits (w 3) 31 29, vid := bits (w 3) 28 17,
    woff := bits (w 4) 39 20, nw := bits (w 4) 19 8, poff := bits (w 5) 39 26, tmo := bits (w 5) 19 0 }

/-- Bytes per word (R338 PACK). -/
def Exch.bytes (x : Exch) : Nat :=
  match x.pack with
  | 0 => 4
  | 1 => 5
  | 2 => 2
  | _ => 1

/-- The valid entries of a port in one direction, ascending. -/
def entries (m : Map Word) (p : Nat) (tx : Bool) : List Nat :=
  (range 0 512).filter fun e =>
    let x := exch m e
    x.valid && x.tx == tx && x.port == p

/-- The segment an entry names. -/
def State.exchSeg (s : State) (x : Exch) : Seg := s.seg x.tenant x.seg

/-- The physical address of the first word of an entry in the set or buffer `n` (R163). -/
def State.exchAddr (s : State) (x : Exch) (n : Nat) : Nat := (s.exchSeg x).phys n x.woff

/-- The frame of an entry in bytes, from destination address to FCS (R343). -/
def Exch.frameLen (x : Exch) : Nat := max 64 (18 + (if x.tag then 4 else 0) + x.poff + x.nw * x.bytes)

/-- One valid entry meets the conditions of R340 on itself. -/
def State.exchOk (s : State) (x : Exch) : Bool :=
  let g := s.exchSeg x
  s.scheduled x.tenant && g.cls == 5 && g.idir == x.tx && decide (1 ≤ x.nw) && decide (x.nw ≤ 2400) &&
    decide (x.woff + x.nw ≤ g.limit) && s.fld (xePcfg x.port) 2 0 != 0 &&
    (x.koff == 0xFF || decide (x.koff + 2 ≤ x.poff)) && decide (x.frameLen ≤ 9600)

/-- Two receive entries of one port that no frame can tell apart (R340). -/
def Exch.clash (x y : Exch) : Bool :=
  x.port == y.port && x.etype == y.etype && x.key == y.key && x.koff == y.koff && x.tag == y.tag && x.vid == y.vid &&
    x.macm == y.macm && (!x.macm || x.mac == y.mac)

/-- No two receive entries of a list clash. -/
def noClash : List Exch → Bool
  | [] => true
  | x :: l => l.all (fun y => !x.clash y) && noClash l

/-- The transmit frames of a port, with preamble and a 12-byte gap, last no longer than T − X (R340): bits against
the bits of (T − X) µs at 10 Gb/s for MODE 1, else 1 Gb/s. -/
def State.transmitFits (s : State) (m : Map Word) (p : Nat) : Bool :=
  let n := ((entries m p true).map fun e => (exch m e).frameLen + 20).foldl (· + ·) 0
  let us := s.fld frmCtl 19 0 - s.fld frmPhase1 39 20
  decide (8 * n ≤ us * (if s.fld (xePcfg p) 2 0 = 1 then 10000 else 1000))

/-- The conditions of R340 on a set, for the loader and for the swap check (R263). -/
def State.tableOk (s : State) (m : Map Word) : Bool :=
  let xs := ((range 0 512).map (exch m)).filter (·.valid)
  xs.all s.exchOk && noClash (xs.filter fun x => !x.tx) && (range 0 4).all (s.transmitFits m)

end Sys2Proof.Machine
end

