-- ==== Sys2Proof/Machine/Queues.lean ====
section
/-!
DEFINITION. Commons queues (R195 to R198): the producer's and the consumer's sequence as the ports run them, and the
flush. And what an engine reads where check bits are bad (R176, R369).
-/
namespace Sys2Proof.Machine

/-- The source number of engines and of the host in the error log (R381). -/
def srcEngine : Nat := 0x82
def srcHost : Nat := 0x81

/-- An indivisible read-modify-write at its bank (R176, R192): none on an uncorrectable word. -/
def State.rmw (s : State) (src a : Nat) (f : Word → Word) : State × Option Word :=
  match s.meet 3 src 0 a with
  | (s, true) => (s.poke a (f (s.peek a)), some (s.peek a))
  | (s, false) => (s, none)

/-- A queue header lies in the commons at a multiple of 8 (R236, R325). -/
def headerOk (h : Nat) : Bool := decide (0x1000000 ≤ h) && decide (h < 0x1200000) && h % 8 == 0

/-- Ring geometry of QCFG (R195): item count 2^LOGN and ITEMW. -/
def ringLen (cfg : Word) : Nat := 2 ^ bits cfg 19 16
def itemWords (cfg : Word) : Nat := bits cfg 7 0

/-- The address of item `i` (R195). -/
def itemAddr (h : Nat) (cfg : Word) (i : Nat) : Nat := h + 8 + i % ringLen cfg * itemWords cfg

/-- QCOMMIT or QHEAD as (WIP, GEN, CNT). -/
def qword (wip : Bool) (gen cnt : Nat) : Word := putBit (putBits (word (cnt % 2 ^ 32)) 38 32 gen) 39 wip

/-- A flush of the queue whose header is at `h` (R197). -/
def State.flushQueue (s : State) (src h : Nat) : State :=
  match s.rmw src (h + 1) fun q => qword false (bits q 38 32 + 1) (bits q 31 0) with
  | (s, none) => s
  | (s, some q) =>
    let s := if bit q 39 then (s.rmw src (h + 3) fun w => w + 1).1 else s
    match s.rmw src (h + 2) fun _ => qword false (bits q 38 32 + 1) (bits q 31 0) with
    | (s, none) => s
    | (s, some hd) =>
      let s := (s.rmw src (h + 4) fun w => putBits w 31 0 (bits w 31 0 + (bits q 31 0 + 2 ^ 32 - bits hd 31 0) % 2 ^ 32)).1
      (s.rmw src (h + 3) fun w => w + word (2 ^ 20)).1

/-- A flush, remembered for R198. -/
def State.flushNow (s : State) (src h : Nat) : State :=
  let s := s.flushQueue src h
  { s with frm := { s.frm with flushed := h :: s.frm.flushed } }

/-- The queue has been flushed in this frame. -/
def State.flushedNow (s : State) (h : Nat) : Bool := s.frm.flushed.contains h

/-- A word that an engine reads: an uncorrectable one is logged as code 4 (R369). -/
def State.engineRead (s : State) (a : Nat) : State × Option Word :=
  match s.meet 4 srcEngine 0 a with
  | (s, true) => (s, some (s.peek a))
  | (s, false) => (s, none)

/-- Words that an engine reads, in order; none where one is uncorrectable. -/
def State.engineReads (s : State) : List Nat → State × Option (List Word)
  | [] => (s, some [])
  | a :: l =>
    match s.engineRead a with
    | (s, none) => let (s, _) := State.engineReads s l; (s, none)
    | (s, some w) =>
      match State.engineReads s l with
      | (s, some ws) => (s, some (w :: ws))
      | (s, none) => (s, none)

/-- Words that the digest engine or the link reads; what an uncorrectable word gives is a free value (log entry 4). -/
def State.engineWords (s : State) : List Nat → State × List Word
  | [] => (s, [])
  | a :: l =>
    match s.engineRead a with
    | (s, some w) => let (s, ws) := State.engineWords s l; (s, w :: ws)
    | (s, none) =>
      let v := Config.freeWord s.free
      let (s, ws) := State.engineWords s.spend l
      (s, v :: ws)

/-! ### A port's side of a queue (R196) -/

/-- What a producer finds (R196): a header word is uncorrectable, a flush is in progress or another item is open, the queue is
full, or item CNT may be written. -/
inductive Produce where
  | broken | retry | full
  | item (cfg : Word) (gen cnt : Nat)
  deriving DecidableEq, Repr

/-- The producer's first reads (R196). -/
def State.produce (s : State) (h : Nat) : State × Produce :=
  match s.engineReads [h + 1, h + 2, h] with
  | (s, some [c, q, cfg]) =>
    (s,
      if bits c 38 32 ≠ bits q 38 32 ∨ bit c 39 then .retry
      else if (bits c 31 0 + 2 ^ 32 - bits q 31 0) % 2 ^ 32 = ringLen cfg then .full
      else .item cfg (bits c 38 32) (bits c 31 0))
  | (s, _) => (s, .broken)

/-- The item's words are written and committed by an indivisible read-modify-write of QCOMMIT (R196). -/
def State.commit (s : State) (h : Nat) (cfg : Word) (gen cnt : Nat) (ws : List (Nat × Word)) : State :=
  let a := itemAddr h cfg cnt
  let s := ws.foldl (fun (s : State) w => s.poke (a + w.1) w.2) s
  (s.rmw srcEngine (h + 1) fun _ => qword false gen (cnt + 1)).1

/-- What a consumer finds (R196): nothing to take, or item CNT at an address, the next QHEAD, and the item's length. -/
def State.consume (s : State) (h : Nat) : State × Option (Nat × Word × Nat) :=
  match s.engineReads [h + 2, h + 1, h] with
  | (s, some [q, c, cfg]) =>
    (s,
      if bits c 38 32 ≠ bits q 38 32 ∨ bits q 31 0 = bits c 31 0 then none
      else some (itemAddr h cfg (bits q 31 0), qword false (bits q 38 32) (bits q 31 0 + 1), itemWords cfg))
  | (s, _) => (s, none)

/-- The item is taken by an indivisible read-modify-write of QHEAD (R196). -/
def State.take (s : State) (h : Nat) (next : Word) : State := (s.rmw srcEngine (h + 2) fun _ => next).1

/-! ### The frozen input set goes to the partner (R25) -/

/-- Consecutive chunks of up to 256 words with their offsets (R273). `n` bounds the chunks. -/
def chunks (off : Nat) (ws : List Word) : Nat → List (Nat × List Word)
  | 0 => []
  | n + 1 => if ws = [] then [] else (off, ws.take 256) :: chunks (off + 256) (ws.drop 256) n

/-- Words of a set from offset `off` on are sent in packets. -/
def State.sendFrom (s : State) (mk : Nat → List Word → Body) (off : Nat) (ws : List Word) (fr : Byte) : State :=
  (chunks off ws (ws.length / 256 + 1)).foldl (fun (s : State) c => s.send (mk c.1 c.2) fr) s

/-- This device forwards its input set: a primary, or the partner of a join in frame J (R25, R295). -/
def State.forwards (s : State) : Bool :=
  s.pair.role == .primary || (s.pair.role == .solo && s.pair.joinFrame == some s.frame)

/-- A parse write of set `n` that is not performed covers the word at `a`. -/
def State.writeDue (s : State) (n a : Nat) : Bool :=
  s.ports.any fun x => x.2.writes.any fun w => w.set == n && w.ws.any fun u => u.1 == a

/-- Words of the frozen set are forwarded, in ascending order, as far as their writes have been performed (R25, R341). -/
def State.forwardInput (s : State) : State :=
  if !s.frm.frozen || !s.forwards then s
  else
    let n := s.frame + 1
    let due := ((s.inputSet n).drop s.pair.fwdNext).takeWhile fun a => !s.writeDue n a
    let (s, ws) := s.engineWords due
    let off := s.pair.fwdNext
    ({ s with pair := { s.pair with fwdNext := off + ws.length } }).sendFrom .input off ws s.frameByte

end Sys2Proof.Machine
end

