-- ==== Sys2Proof/Machine/Slot.lean ====
section
/-!
DEFINITION. The command slots of the host interface as other blocks see them (R321 to R324, R329): arguments, results,
and the end of a command.
-/
namespace Sys2Proof.Machine

/-- Command slot `k` (R322). -/
def State.cmd (s : State) (k : Nat) : Cmd := s.host.slots.get k Cmd.reset

/-- The state with command slot `k` replaced. -/
def State.setCmd (s : State) (k : Nat) (c : Cmd) : State :=
  { s with host := { s.host with slots := s.host.slots.set k Cmd.reset c } }

/-- The command in a slot is QUEUED or RUNNING. -/
def Cmd.busy (c : Cmd) : Bool := c.st == .queued || c.st == .running

/-- Word `n` of DATA of slot `k` is written (R321, R323). -/
def State.setData (s : State) (k n : Nat) (v : Word) : State :=
  { s with host := { s.host with bar4 := s.host.bar4.set (512 * k + 16 + n) 0 v } }

/-- DATA words from word `n` upward. -/
def State.setDatas (s : State) (k n : Nat) : List Word → State
  | [] => s
  | v :: vs => State.setDatas (s.setData k n v) k (n + 1) vs

/-- A command ends (R323, R329): its final state, FAIL and PROG, then its interrupt cause with IRQ = 1. -/
def State.endCmd (s : State) (k : Nat) (st : CmdState) (fail prog : Nat) : State :=
  let c := s.cmd k
  if !c.busy then s
  else
    let s := s.setCmd k { c with st := st, fail := fail, prog := prog, abort := false }
    if c.irq then s.cause k else s

/-- Every command of a list ends in DONE, in the same step (R326). -/
def State.endAll (s : State) : List (Option Nat) → State
  | [] => s
  | some k :: l => State.endAll (s.endCmd k .done 0 0) l
  | none :: l => State.endAll s l

end Sys2Proof.Machine
end

