-- ==== Sys2Proof/Machine/TenantReset.lean ====
section
/-!
DEFINITION. Tenant resets (R234, R235, R345) and the work of the housekeeping slot (R231 to R233).
-/
namespace Sys2Proof.Machine

/-- Port `p`. -/
def State.port (s : State) (p : Nat) : Port := s.ports.get p Port.reset

/-- The state with port `p` replaced. -/
def State.setPort (s : State) (p : Nat) (q : Port) : State := { s with ports := s.ports.set p Port.reset q }

/-- A frame of transmit entry `e` is not sent (R343): the event of EVMODE bit 35. -/
def State.notSent (s : State) (e : Nat) : State := if (exch s.assembly e).evLate then s.occur e else s

/-- A frame or item counts in TXCAN (R344, R345). -/
def State.cancelFrame (s : State) (p e : Nat) : State := (s.count (xePcnt p 3) 39 20 1).notSent e

/-- Frames that are cancelled, in order. -/
def State.cancelFrames (s : State) (p : Nat) : List Nat → State
  | [] => s
  | e :: l => State.cancelFrames (s.cancelFrame p e) p l

/-- The queue headers listed in FRM_TQ0 to FRM_TQ3 with EN = 1 (R235). -/
def State.listed (s : State) (t : Nat) : List Nat :=
  (range 0 4).filterMap fun n => if s.flag (frmTq t n) 39 then some (s.fld (frmTq t n) 27 0) else none

/-- A tenant reset cancels the tenant's parse writes and frames not yet assembled on one port (R345). -/
def State.cancelPort (s : State) (t p : Nat) : State :=
  let q := s.port p
  let mine (e : Nat) : Bool := (exch s.assembly e).tenant == t
  (s.setPort p { q with writes := q.writes.filter (·.tenant ≠ t), toSend := q.toSend.filter fun e => !mine e }).cancelFrames p
    (q.toSend.filter mine)

/-- A queue that a reset lists is flushed, or left to the next frame where it has been flushed in this one (R235). -/
def State.resetFlush (s : State) (c h : Nat) : State :=
  if s.flushedNow h then { s with frm := { s.frm with later := s.frm.later ++ [⟨c, h, s.frame + 1⟩] } }
  else s.flushNow c h

/-- The context registers outside the socket map that a reset clears: window pointers and EVT_TCTX (R167, R217). -/
def State.clearTctx (s : State) (t : Nat) : State :=
  let s := s.setPtrs t fun _ => 0
  let tc := s.reg (evtTctx t)
  s.setReg (evtTctx t) (putBits (putBits (putBits (putBits tc 38 37 (2 * bits tc 39 39)) 36 32 16) 31 28 0) 27 24 0)

/-- One of the actions of a tenant reset (R235): the epoch, the exchange engines, the queues, the context, the state. -/
def State.resetAction (s : State) (c t : Nat) : Nat → State
  | 0 => s.count (frmTuse t) 39 32 1
  | 1 =>
    let s := (range 0 4).foldl (fun (s : State) p => s.cancelPort t p) s
    { s with frm := { s.frm with cancelled := t :: s.frm.cancelled } }
  | 2 => (s.listed t).foldl (fun (s : State) h => s.resetFlush c h) s
  | 3 => ((s.setCtx t Ctx.reset).clearTctx t).dropContext t
  | _ => (s.setFld (frmTstat t) 39 37 1).setFld (frmTstat t) 36 35 0

/-- The first `n` actions of a tenant reset, in order. -/
def State.resetPartly (s : State) (c t n : Nat) : State := (range 0 n).foldl (fun (s : State) i => s.resetAction c t i) s

/-- The reset of tenant `t` in the housekeeping slot of core `c` (R235). -/
def State.resetTenant (s : State) (c t : Nat) : State := s.resetPartly c t 5

/-- The tenants of core `c` whose reset falls in this frame's housekeeping slot, ascending (R234): those requested,
and in a join frame every scheduled one (R295). -/
def State.dueResets (s : State) (c : Nat) : List Nat :=
  (range (8 * c) 8).filter fun t =>
    s.frm.resets.any (fun r => r.what == t && decide (r.notBefore ≤ s.frame)) ||
      (s.pair.joinFrame == some s.frame && s.scheduled t)

/-- A due reset is performed, and every request for it is answered in the same step (R326). -/
def State.doReset (s : State) (c t : Nat) : State :=
  let due (r : Request) : Bool := r.what == t && decide (r.notBefore ≤ s.frame)
  let done := s.frm.resets.filter due
  let s := { s with frm := { s.frm with resets := s.frm.resets.filter fun r => !due r } }
  ((s.resetTenant c t).forwardInput).endAll (done.map (·.slot))

/-! ### The housekeeping slot -/

/-- An action of the housekeeping sequence (R231). -/
inductive Chore where
  | drain
  | copy (src dst len : Nat)
  | flush (header : Nat)
  | reset (t : Nat)
  deriving DecidableEq, Repr

/-- The mirror copies of core `c`: each of its MIRROR segments to its place in staging buffer (FRM_COUNT mod 2);
`off` is the place of the first segment of the list (R284). -/
def State.mirrorChores (s : State) (c : Nat) : Nat → List (Nat × Nat) → List Chore
  | _, [] => []
  | off, x :: l =>
    let g := s.seg x.1 x.2
    if g.cls = 6 then
      let rest := State.mirrorChores s c (off + g.limit) l
      if x.1 / 8 = c then .copy g.base (s.staging (s.frame % 2) + off) g.limit :: rest else rest
    else State.mirrorChores s c off l

/-- The sequence of core `c` (R231): drain, mirror copy, resets. Flushes left from an earlier frame come with the
resets (R235). -/
def State.chores (s : State) (c : Nat) : List Chore :=
  .drain :: s.mirrorChores c 0 allSegs ++
    ((s.frm.later.filter fun x => x.core == c && decide (x.notBefore ≤ s.frame)).map fun x => .flush x.header) ++
    (s.dueResets c).map .reset

/-- The mirror copy of a segment (R26, R231); a word with an uncorrectable error is logged as code 4, and what is copied
is a free value (log entry 4). -/
def State.copySeg (s : State) (src dst len : Nat) : State :=
  let (s, ws) := s.engineWords (range src len)
  s.pokes dst ws

/-- L_w of R232: the longest deterministic latency that a tenant of the core may write. -/
def State.longestWrite (s : State) (c : Nat) : Nat :=
  ((range (8 * c) 8).flatMap fun t => (range 0 16).map fun g =>
    let d := s.seg t g
    if d.cls ≠ 0 ∧ d.wr then
      match target c d.base with
      | some x => s.latencyOf true c d.base x
      | none => 0
    else 0).foldl max 0

/-- The steps of a mirror copy beyond one for each word (R232): L of the segment's target, and 24 + S(q). -/
def State.choreLag (s : State) (c src : Nat) : Nat :=
  (match target c src with
    | some x => s.latencyOf true c src x
    | none => 0) + 24 + s.slices (c / 4)

/-- The term of an action in H (R232). -/
def State.choreSteps (s : State) (c : Nat) : Chore → Nat
  | .drain => 5 + s.longestWrite c
  | .copy src _ len => len + s.choreLag c src
  | .flush _ => 0
  | .reset t => 24 + 4 * (s.listed t).length * (26 + s.slices (c / 4))

/-- One action of the sequence. -/
def State.doChore (s : State) (c : Nat) : Chore → State
  | .drain => s.drain c
  | .copy src dst len => s.copySeg src dst len
  | .flush h =>
    let s := { s with frm := { s.frm with later := s.frm.later.filter fun x => !(x.core == c && x.header == h) } }
    s.resetFlush c h
  | .reset t => s.doReset c t

/-- An action that the guard point cuts after `n` of its steps (R233): the drain has performed what its steps reached; a copy
has performed a word a step after the first L + 24 + S(q); a reset, which is performed again in full, had made some of its
actions but the last: how many is a free value (log entry 87). -/
def State.cutChore (s : State) (c n : Nat) : Chore → State
  | .drain => s.settle c ((s.core c).now + n) 4
  | .copy src dst len => s.copySeg src dst (min len (n - (s.choreLag c src)))
  | .flush _ => s
  | .reset t => (s.resetPartly c t (Config.freeNat s.free % 5)).spend

/-- Actions in order. -/
def State.doChores (s : State) (c : Nat) : List Chore → State
  | [] => s
  | a :: l => State.doChores (s.doChore c a) c l

/-- The sequence as far as `n` steps take it (R233): whole actions, then the one that is cut. -/
def State.doSteps (s : State) (c : Nat) : Nat → List Chore → State
  | _, [] => s
  | n, a :: l =>
    if s.choreSteps c a ≤ n then State.doSteps (s.doChore c a) c (n - s.choreSteps c a) l else s.cutChore c n a

/-- H of R232: the count that the BUDGET of entry 9 must cover. -/
def State.housekeepingCount (s : State) (c : Nat) : Nat :=
  let fixed := (.drain :: s.mirrorChores c 0 allSegs).map (s.choreSteps c)
  let resets := ((range (8 * c) 8).filter s.scheduled).map fun t => s.choreSteps c (.reset t)
  (fixed ++ resets).foldl (· + ·) 1

/-- Entry `k` of core `c` has opened in this frame: each slot opens once in a frame (R222). -/
def State.hasOpened (s : State) (c k : Nat) : Bool := s.frm.opened.contains (16 * c + k)

/-- Entry `k` of core `c` opens. -/
def State.noteOpen (s : State) (c k : Nat) : State := { s with frm := { s.frm with opened := (16 * c + k) :: s.frm.opened } }

/-- The host's queue flushes at the OPEN of core 0's housekeeping slot (R325, R326): each is performed, or waits
for the next frame. A reset whose core's housekeeping slot has opened already is not one for this frame (R234). -/
def State.hostFlushes (s : State) : State :=
  let tenantLists (s : State) (h : Nat) : Bool :=
    (range 0 128).any fun c => !s.hasOpened c 9 && (s.dueResets c).any fun t => (s.listed t).contains h
  let due := s.frm.flushes.filter fun r => decide (r.notBefore ≤ s.frame)
  due.foldl
    (fun (s : State) r =>
      if tenantLists s r.what || s.flushedNow r.what then s
      else
        let s := { s with frm := { s.frm with flushes := s.frm.flushes.filter fun x => x != r } }
        (s.flushNow srcHost r.what).endAll [r.slot])
    s

end Sys2Proof.Machine
end

