-- ==== Sys2Proof/Machine/Slots.lean ====
section
/-!
DEFINITION. The commands of the slots (file 11, R378): opening and closing, ends and stops of tenants, self-tests, and
housekeeping.
-/
namespace Sys2Proof.Machine

/-- The core's mode as a slot loads it (R43, R55): PRED_EN is loaded as 1. -/
def State.loadMode (s : State) (c : Nat) (width lock det : Bool) : State :=
  s.setFld (coreMode c) 3 0 (8 + 4 * width.toNat + 2 * lock.toNat + det.toNat)

/-- The device's role lets tenant slots open in this frame (R270, R295). -/
def State.runsTenants (s : State) : Bool :=
  s.pair.role != .joining && s.pair.role != .dropped && s.pair.joinFrame != some s.frame &&
    (!s.pairMode || s.pair.role != .none)

/-- Slots open (R373): frames have begun and no class F error has stopped the part. -/
def State.slotsOpen (s : State) : Bool := s.frm.started && !s.fatal

/-- The tenant of entry `k` of core `c` (R222, R238). -/
def State.slotTenant (s : State) (c k : Nat) : Nat := 8 * c + s.fld (frmSlotA c k) 36 34

/-- Tenant slot `k` of core `c` opens (R224, R228, R261, R372): the tenant is READY and not held. -/
def State.opensSlot (s : State) (c k : Nat) : Bool :=
  s.slotsOpen && s.runsTenants && !s.offline c && (s.core c).phase == .closed && !s.hasOpened c k && s.flag (frmSlotA c k) 39 &&
    s.fld (frmTstat (s.slotTenant c k)) 39 37 == 1 && !s.held (s.slotTenant c k)

/-- The OPEN instant of slot `k` of core `c` has come (R15, R222). -/
def State.reachOpen (s : State) (c k : Nat) : State := s.reach (s.frm.boundary + s.fld (frmSlotA c k) 29 0)

/-- SLOT_OPEN (R224): the mode and the context of the tenant, CORE_SCNT 0, 6 st of entry, the word at ENTRY next. A
performance-mode slot opens with an empty queue and history (R152). -/
def openSlot (c k : Nat) (s : State) : State :=
  if !s.opensSlot c k then s
  else
    let s := (s.reachOpen c k).noteOpen c k
    let a := s.reg (frmSlotA c k)
    let t := s.slotTenant c k
    let f := s.flag (evtTctx t) 39
    let s := s.loadMode c (s.flag (frmTcfg t) 39) (!f || bit a 37) (!f || bit a 38)
    let s := (s.setFld (coreScnt c) 31 0 0).setFld (frmTstat t) 39 37 2
    s.onCore c fun q =>
      { q with
        phase := .running, slot := k, tenant := bits a 36 34, pc := BitVec.ofNat 24 (s.fld (frmTcfg t) 23 0),
        now := q.now + 6, hold := [], trap := none, entering := none, modeChange := none, flgMove := none,
        front := [], miss := none, paStep := q.now + 6 - depth (s.det c), quiet := q.now + 6, moved := false,
        pred := { q.pred with ghr := 0, ras := [], ckpt := [] } }

/-- The step in which the next word would issue if it were any other word than the one at END (R225): none where issue is
held, a trap waits, or fetch waits for a line. -/
def State.endStep (s : State) (c : Nat) : Option Nat :=
  let k := s.core c
  if k.phase = .running ∧ k.hold = [] ∧ k.trap.isNone ∧ s.endWord c then
    let q := (s.bringHead c).core c
    match q.front with
    | [] => none
    | w :: _ => if q.miss.any (!·.go) then none else some (max q.now (w.at_ + depth (s.det c)))
  else none

/-- The tenant ends in step `n`: END is reached, within the budget or in the step of the budget fault (R225, R226, R229). -/
def State.atEnd (s : State) (c : Nat) : Option Nat :=
  match s.endStep c with
  | some n => if s.settled c n ∧ n - (s.core c).now ≤ s.budgetLeft c then some n else none
  | none => none

/-- TENANT_END (R225, R133, R237): the steps up to it pass, work in flight is abandoned, STATE becomes ENDED, the core is idle
until CLOSE. -/
def endTenant (c slack : Nat) (s : State) : State :=
  match s.atEnd c with
  | none => s
  | some n =>
    let s := s.passTo c n
    let t := s.tenant c
    ((s.exit c).setFld (frmTstat t) 39 37 3).forecast c t slack

/-- A stop during the 12 st of entry (R229): the event is pending again, the tenant's EVT_TCTX is as before, and of the frame the
words not yet written, two a step from a + 3 on, hold what they held. -/
def State.undoEntry (s : State) (c : Nat) : State :=
  match (s.core c).entering with
  | none => s
  | some e =>
    if e.step + 12 ≤ (s.core c).now then s
    else
      let n := min 8 (2 * ((s.core c).now - (e.step + 3)))
      let s := (s.setReg (evtTctx (s.tenant c)) e.tctx).pokes (e.addr + n) (e.old.drop n)
      match e.event with
      | some n => { s with events := putBit s.events n true }
      | none => s

/-- A stop of the running tenant in the step in which the core stands (R228, R229). -/
def State.stopRunning (s : State) (c cause : Nat) : State := (s.undoEntry c).stopTenant c cause

/-- BUDGET_FAULT (R226, R228, R229), `held` steps on: in the step after BUDGET − 1 and in no other, which the core reaches while
its issue stands; a tenant that ends in the step is not stopped. -/
def budgetFault (c held : Nat) (s : State) : State :=
  let n := (s.core c).now + s.budgetLeft c
  if held = s.budgetLeft c ∧ (s.core c).phase = .running ∧ s.canReach c n ∧ s.settled c n ∧ s.atEnd c ≠ some n then (s.passTo c n).stopRunning c 1
  else s

/-- The exit guard point of slot `k` of core `c` (R227): CLOSE − ceil(6 × CEIL) ns after the boundary, with CEIL in ps. -/
def State.guardPoint (s : State) (c k : Nat) : Nat :=
  s.frm.boundary + (s.fld (frmSlotB c k) 29 0 - ceilDiv (6 * s.fld ageCtl 39 28) 1000)

/-- PACE_FAULT (R227, R229) in the step after the guard point, `held` steps on: the time base has reached the guard point. Where
the budget fault falls in the same step or before it, or the tenant ends, that is what is recorded. -/
def paceFault (c held : Nat) (s : State) : State :=
  let n := (s.core c).now + held
  if (s.core c).phase ≠ .running ∨ s.budgetLeft c ≤ held ∨ !s.canReach c n ∨ !s.settled c n then s
  else ((s.reach (s.guardPoint c (s.core c).slot)).passTo c n).stopRunning c 2

/-- SLOT_CLOSE at the CLOSE instant (R43, R144, R227): the mode is discarded, so what CORE_MODE holds until the next slot loads
it is free. A tenant that still runs is stopped by its pace fault first; a self-test ends within its slot (R230). -/
def closeSlot (c : Nat) (s : State) : State :=
  let k := s.core c
  if k.phase = .running ∨ k.phase = .closed ∨ k.running ≠ [] then s
  else
    let s := s.reach (s.frm.boundary + s.fld (frmSlotB c k.slot) 29 0)
    let s := (s.setFld (coreMode c) 3 0 (Config.freeWord s.free).toNat).spend
    s.onCore c fun k => { k with phase := .closed, slot := 15, tenant := 0, front := [], miss := none }

/-! ### Self-tests -/

/-- The steps of a test (R377). -/
def testSteps (code : Nat) : Nat :=
  match code with
  | 1 => 2400
  | 2 => 4400
  | 3 => 600
  | _ => 400

/-- The first pending test of core `c` (R378, R372): the retest, host requests, and the next of the rotation with
AUTO = 1; only host requests on a core that is offline. -/
def State.nextTest (s : State) (c : Nat) : Option Test :=
  let k := s.core c
  if k.retest && !s.offline c then some ⟨2, .retest⟩
  else
    match k.tests with
    | t :: _ => some t
    | [] => if s.flag errStctl 39 && !s.offline c then some ⟨s.fld errStctl 1 0 + 1, .rotation⟩ else none

/-- The steps of entry 8's BUDGET that are left. -/
def State.sentryLeft (s : State) (c : Nat) : Nat := s.fld (frmSlotC c 8) 31 0 - s.fld (coreScnt c) 31 0

/-- The next pending test starts when it fits what is left of the slot's BUDGET; else the slot's work is over. -/
def State.startTest (s : State) (c : Nat) : State :=
  match s.nextTest c with
  | some t =>
    if testSteps t.code ≤ s.sentryLeft c then s.onCore c fun k => { k with running := [t] } else s
  | none => s

/-- SENTRY_SLOT (R43, R230, R378). -/
def sentrySlot (c : Nat) (s : State) : State :=
  if s.slotsOpen ∧ (s.core c).phase = .closed ∧ (s.core c).running = [] ∧ !s.hasOpened c 8 ∧ s.flag (frmSlotA c 8) 39 then
    let s := (((s.reachOpen c 8).noteOpen c 8).loadMode c false true true).setFld (coreScnt c) 31 0 0
    (s.onCore c fun k => { k with phase := .sentry, slot := 8, tenant := 0 }).startTest c
  else s

/-- A test is no longer pending; the rotation advances when its test completes (R378). -/
def State.dropTest (s : State) (c : Nat) (t : Test) : State :=
  match t.src with
  | .retest => s.onCore c fun k => { k with retest := false }
  | .host _ => s.onCore c fun k => { k with tests := k.tests.drop 1 }
  | .rotation => s.count errStctl 1 0 1

/-- The result of a requested test (R378): DATA0, DATA1, DATA2, PROG 3, DONE, event 974. What DATA2 holds after a pass
is not stated: a free value. -/
def State.reportTest (s : State) (k code : Nat) (fail : Option Nat) : State :=
  let d2 := match fail with
    | some n => word n
    | none => Config.freeWord s.free
  let s := (s.setDatas k 0 [word fail.isSome.toNat, word (testSteps code), d2]).spend
  (s.endCmd k .done 0 3).occur 974

/-- A failed test (R371, R378): event 973, error code 11, the core offline. -/
def State.failTest (s : State) (c : Nat) : State :=
  let s' := ((s.occur 973).error 11 c 0 0)
  if s'.offline c then s' else faultEdge s' (s'.takeOffline c)

/-- SELF_TEST_COMPLETE (R377, R378): the running test passes, or fails at a vector, word or bank group. -/
def completeTest (c : Nat) (fail : Option Nat) (s : State) : State :=
  match (s.core c).phase, (s.core c).running with
  | .sentry, t :: _ =>
    let s := (s.charge c (testSteps t.code) false).dropTest c t
    let s := s.onCore c fun k => { k with running := [] }
    let s := match t.src with
      | .host k => s.reportTest k t.code fail
      | _ => s
    let s := if fail.isSome then s.failTest c else s
    if (s.core c).phase = .sentry then s.startTest c else s
  | _, _ => s

/-! ### Housekeeping -/

/-- The core's bit in FRM_HAND is set (R231). -/
def State.handOff (s : State) (c : Nat) : State := s.setFlag (frmHand (c / 32)) (c % 32) true

/-- The swappable set goes out in ascending offset, 256 words a packet (R273, R275; log entry 88). `n` bounds the packets. -/
def State.sendWords (s : State) (l : List (Nat × Word)) : Nat → State
  | 0 => s
  | n + 1 => if l = [] then s else State.sendWords (s.send (.actset (l.take 256)) s.frameByte) (l.drop 256) n

/-- ACTSET: every word of the active set (R275, R295). -/
def State.sendActset (s : State) : State :=
  s.sendWords (setOffsets.map fun x => (x, s.active.get x 0)) (setOffsets.length / 256 + 1)

/-- What the host and the link do at the OPEN of core 0's housekeeping slot: waiting queue flushes (R325), and in a join
frame PENDING, and ACTSET when the images are equal (R295). -/
def State.atHousekeeping (s : State) : State :=
  let s := s.hostFlushes
  if s.pair.joinFrame = some s.frame ∧ (s.pair.role = .primary ∨ s.pair.role = .solo) then
    let s := s.send (.pending s.events) s.frameByte
    if s.pair.unlike then s
    else s.sendActset
  else s

/-- The housekeeping slot of core `c` opens (R43, R231): no tenant context is switched. -/
def State.openHousekeeping (s : State) (c : Nat) : State :=
  ((((s.reachOpen c 9).noteOpen c 9).loadMode c false true true).setFld (coreScnt c) 31 0 0).onCore c fun k => { k with phase := .housekeeping, slot := 9, tenant := 0 }

/-- The housekeeping slot may open. -/
def State.keepsHouse (s : State) (c : Nat) : Bool :=
  s.slotsOpen && (s.core c).phase == .closed && !s.hasOpened c 9 && s.flag (frmSlotA c 9) 39

/-- HOUSEKEEPING_SLOT (R231, R372): the whole sequence with its steps, and the hand-off; an offline core only has its
FRM_HAND bit set. -/
def housekeeping (c : Nat) (s : State) : State :=
  if !s.keepsHouse c then s
  else
    let s := if c = 0 then s.atHousekeeping else s
    if s.offline c then (s.noteOpen c 9).handOff c
    else
      let s := s.openHousekeeping c
      let l := s.chores c
      let n := (l.map (s.choreSteps c)).foldl (· + ·) 1
      let s := ((s.doChores c l).charge c n false).handOff c
      s.onCore c fun k => { k with phase := .idle }

/-- HOUSEKEEPING_OVERRUN (R233): the guard point comes after `n` steps of the slot's sequence, before the hand-off: the sequence
stops where it stands. Resets not performed, the one under way too, stay requested; event 965, and bit 4 of the health
word. -/
def housekeepingOverrun (c n : Nat) (s : State) : State :=
  if !s.keepsHouse c || s.offline c then s
  else
    let s := if c = 0 then s.atHousekeeping else s
    let s := (s.openHousekeeping c).reach (s.guardPoint c 9)
    let l := s.chores c
    let n := min n (l.map (s.choreSteps c)).sum
    let s := (s.doSteps c n l).charge c n false
    let s := { s with pair := { s.pair with health := putBit s.pair.health 4 true } }
    (s.onCore c fun k => { k with phase := .idle }).occur 965

/-- SLOT_OPEN (R224). -/
def execSlotOpen (c : CoreId) (k : Fin 8) (s : State) : Result := .next (openSlot c k s)

/-- TENANT_END (R225). -/
def execTenantEnd (c : CoreId) (slack : Nat) (s : State) : Result := .next (endTenant c slack s)

/-- BUDGET_FAULT (R226). -/
def execBudgetFault (c : CoreId) (held : Nat) (s : State) : Result := .next (budgetFault c held s)

/-- PACE_FAULT (R227). -/
def execPaceFault (c : CoreId) (held : Nat) (s : State) : Result := .next (paceFault c held s)

/-- SLOT_CLOSE (R227). -/
def execSlotClose (c : CoreId) (s : State) : Result := .next (closeSlot c s)

/-- SENTRY_SLOT (R378). -/
def execSentrySlot (c : CoreId) (s : State) : Result := .next (sentrySlot c s)

/-- SELF_TEST_COMPLETE (R378). -/
def execSelfTestComplete (c : CoreId) (firstFailing : Option Nat) (s : State) : Result :=
  .next (completeTest c firstFailing s)

/-- HOUSEKEEPING_SLOT (R231). -/
def execHousekeepingSlot (c : CoreId) (s : State) : Result := .next (housekeeping c s)

/-- HOUSEKEEPING_OVERRUN (R233). -/
def execHousekeepingOverrun (c : CoreId) (steps : Nat) (s : State) : Result := .next (housekeepingOverrun c steps s)

end Sys2Proof.Machine
end

