-- ==== Sys2Proof/Machine/PairOps.lean ====
section
/-!
DEFINITION. What the commands of the redundant pair share (file 13): role changes, the identity exchange, sequence
numbers and acknowledgement, replays, and the digest.
-/
namespace Sys2Proof.Machine

/-- MIR_WHY (R299). -/
def State.setWhy (s : State) (code : Nat) : State := s.setReg mirWhy (putBits (word (s.frame % 2 ^ 32)) 39 32 code)

/-- The role codes of R270. -/
def Role.code : Role → Nat
  | .none => 0
  | .solo => 1
  | .primary => 2
  | .secondary => 3
  | .standby => 4
  | .joining => 5
  | .dropped => 6

/-- The codes of MIR_STAT.LINK (R299). -/
def LinkState.code : LinkState → Nat
  | .down => 0
  | .lock => 1
  | .align => 2
  | .ident => 3
  | .up => 4

/-- The device has dropped twice within 1,024 frames of a completed join (R291). -/
def Pair.limited (p : Pair) : Bool :=
  p.completed.any fun j => decide (2 ≤ (p.drops.filter fun d => decide (j ≤ d) && decide (d ≤ j + 1024)).length)

/-- The 256-bit digest of CFG_DIG0 to CFG_DIG6 (R267). -/
def State.imageDigest (s : State) : BitVec 256 :=
  BitVec.ofNat 256 ((range 0 6).foldl (fun a n => a + s.fld (cfgDig n) 39 0 * 2 ^ (40 * n)) 0 + s.fld (cfgDig 6) 15 0 * 2 ^ 240)

/-- The IDENT message of this device (R275). -/
def State.identMsg (s : State) : IdentMsg :=
  { pairId := s.pair.ownId, role := BitVec.ofNat 3 s.pair.role.code, frame := word s.frame, digest := s.imageDigest,
    layout := s.reg mirLayout, frmCtl := s.reg frmCtl, phase0 := s.reg frmPhase0, phase1 := s.reg frmPhase1,
    setCrc := s.setCrc s.active }

/-- The device begins to join (R271, R295): what it must receive is counted afresh. -/
def Pair.joining (p : Pair) (unlike : Bool) : Pair :=
  { p with role := .joining, waiting := false, wantJoin := false, joinFrame := none, unlike := unlike,
           joinAs := if unlike then .standby else .secondary, fwdGot := 0, mirrorGot := 0, sharedGot := 0,
           pendingGot := false, actsetGot := none }

/-- The partner's image digest differs from this device's (R271, R299): none where its identity is not known. -/
def State.unlikeNow (s : State) : Bool :=
  match s.pair.identRx with
  | some m => decide (m.digest ≠ s.imageDigest)
  | none => s.pair.unlike

/-- A join is asked for (R291, R295): the device is JOINING and sends IDENT; its part after the join follows from the two
image digests. -/
def State.askJoin (s : State) : State :=
  let s := s.onPair fun p => p.joining s.unlikeNow
  s.send (.ident s.identMsg) s.frameByte

/-- Why a join is refused (R294). -/
def State.refusal (s : State) (m : IdentMsg) : Option Nat :=
  if m.pairId = s.pair.ownId then some 1
  else if bits m.frmCtl 19 0 ≠ s.fld frmCtl 19 0 ∨ m.phase0 ≠ s.reg frmPhase0 ∨ m.phase1 ≠ s.reg frmPhase1 then some 2
  else if m.layout ≠ s.reg mirLayout then some 3
  else none

/-- A DROPPED device whose link is UP asks to join with AUTOJ = 1 or on the host's request, unless the partner's identity is one
that R294 refuses: it stays DROPPED with that reason. At the rejoin limit it records reason 11 instead (R291; log
entry 22). -/
def State.rejoin (s : State) : State :=
  if s.pair.role ≠ .dropped ∨ s.pair.link ≠ .up then s
  else if s.pair.wantJoin then
    match s.pair.identRx.bind s.refusal with
    | some r => s.setWhy r
    | none => s.askJoin
  else if s.flag mirCtl 38 && s.pair.limited then s.setWhy 11
  else s

/-- The ports send nothing more (R270, R290): what they had begun is withheld, and counts in neither TXLATE nor TXCAN. -/
def State.stopPorts (s : State) : State :=
  (range 0 4).foldl (fun (s : State) p => s.setPort p { s.port p with toSend := [], sending := none }) s

/-- The device becomes DROPPED with a reason (R25, R290 to R295): its ports fall silent, event 900, and a join is wanted under
R291. -/
def State.drop (s : State) (reason : Nat) : State :=
  let s := ((s.stopPorts).setWhy reason).onPair fun p =>
    { p with role := .dropped, partner := false, waiting := false, joinFrame := none, handFrame := none, swapRx := none,
             drops := s.frame :: p.drops }
  ((s.onPair fun p => { p with wantJoin := s.flag mirCtl 38 && !p.limited }).occur 900).rejoin

/-- The device becomes SOLO. -/
def State.solo (s : State) : State :=
  s.onPair fun p => { p with role := .solo, partner := false, waiting := false, joinFrame := none, handFrame := none }

/-- A role change under R292: TAKEOVERS and event 899. -/
def State.takeover (s : State) : State := ((s.solo).count mirCnt2 19 0 1).occur 899

/-- The frame whose low byte a packet carries, nearest to the current one (R273; DEDUCED, log entry 20). -/
def State.frameOf (s : State) (b : Byte) : Nat :=
  let d := signed 8 (b.toNat + 256 - s.frame % 256)
  (s.frame + d).toNat

/-! ### Acknowledgement and replay (R276) -/

/-- Packets that wait are sent while fewer than 64 are unacknowledged. -/
def State.sendWaiting (s : State) : Nat → State
  | 0 => s
  | n + 1 =>
    match s.pair.waitq with
    | [] => s
    | b :: l =>
      if s.pair.unacked.length < 64 then
        State.sendWaiting ((s.onPair fun p => { p with waitq := l }).launch b.1 b.2) n
      else s

/-- The packets after the one with SEQ `a`, if that one is among them. -/
def afterSeq (a : BitVec 12) : List Packet → Option (List Packet)
  | [] => none
  | p :: l => if p.seq = a then some l else afterSeq a l

/-- A packet of this device whose body meets a test is still to be acknowledged. -/
def Pair.due (p : Pair) (f : Body → Bool) : Bool := p.unacked.any (fun k => f k.body) || p.waitq.any fun b => f b.1

/-- The body is an IDENT message. -/
def Body.isIdent : Body → Bool
  | .ident _ => true
  | _ => false

/-- The body is a SWAPACK message. -/
def Body.isSwapack : Body → Bool
  | .swapack _ _ => true
  | _ => false

/-- A partner that has answered SWAP with an equal set is ARMED for the target once its SWAPACK is known to have arrived within
the 100 µs of R263, so that neither device swaps alone (R282; DEDUCED, log entry 23). -/
def State.armPartner (s : State) : State :=
  match s.pair.swapRx with
  | none => s
  | some (target, limit) =>
    if s.pair.due Body.isSwapack then s
    else
      let t := s.onPair fun p => { p with swapRx := none }
      if s.clk.tb.toNat ≤ limit ∧ s.frame < target then (t.setFld cfgSwapf 39 0 target).setFlag cfgSwstat 4 true else t

/-- A cumulative ACK releases packets. -/
def State.acked (s : State) (a : BitVec 12) : State :=
  match afterSeq a s.pair.unacked with
  | none => s
  | some l => ((s.onPair fun p => { p with unacked := l, replays := 0 }).sendWaiting 64).armPartner

/-- The link goes DOWN (R277, R278): event 897, SEQ starts again from 0 (DEDUCED, log entry 21), the partner is
silent. -/
def State.linkToDown (s : State) : State :=
  if s.pair.link = .down then s
  else
    ((s.setFld mirLane 3 0 0).onPair fun p =>
      { p with link := .down, txSeq := 0, rxSeq := 0, unacked := [], waitq := [], nakSent := false, replays := 0,
               identRx := none, swapRx := none }).occur 897

/-- What a device does when it first treats its partner as silent (R278, R292): event 898; a primary becomes SOLO, a
JOINING device DROPPED; a secondary that finds PWLINE high with PWEN = 1 becomes DROPPED. -/
def State.partnerSilent (s : State) (pwHigh : Bool) : State :=
  if s.pair.silent || !s.pairMode then s
  else
    let s := (s.onPair fun p => { p with silent := true }).occur 898
    match s.pair.role with
    | .primary => s.solo
    | .solo => s.onPair fun p => { p with joinFrame := none }
    | .joining => s.drop 12
    | .secondary => if s.flag mirCtl 37 && pwHigh then s.drop 12 else s
    | .standby => if s.flag mirCtl 37 && pwHigh then s.drop 12 else s
    | _ => s

/-- The level that EVIN[PWLINE] has (R292). -/
def State.pwHigh (s : State) : Bool := bit s.pins.evin (s.fld mirCtl 35 32)

/-- The level of EVIN[PWLINE] as a command finds it. -/
def State.seePw (s : State) (high : Bool) : State :=
  { s with pins := { s.pins with evin := putBit s.pins.evin (s.fld mirCtl 35 32) high } }

/-- The link goes down and with it the partner (R277, R278). -/
def State.lostLink (s : State) : State := (s.linkToDown).partnerSilent s.pwHigh

/-- A replay from the oldest unacknowledged packet: REPLAYS, event 909; the eighth without an advance of ACK takes the link
DOWN. -/
def State.replay (s : State) : State :=
  if s.pair.unacked = [] ∨ s.fatal then s
  else
    let s := ((s.pair.unacked.foldl (fun (s : State) p => s.emit (.replayed p (p.blocks s.ackOut))) s).count mirCnt0 39 20 1).occur 909
    let s := s.onPair fun p => { p with replays := p.replays + 1 }
    if 8 ≤ s.pair.replays then s.lostLink else s

/-! ### Identity and joining (R271, R294, R295) -/

/-- FRM_COUNT takes the partner's frame number (R271, R295), which may be a multiple of HST_TICK.N (R329). -/
def State.adoptFrame (s : State) (frame : Nat) : State :=
  let t := s.setFld frmCount 39 0 frame
  let t := { t with frm := { t.frm with started := true } }
  if t.frame = s.frame then t else t.tick

/-- A device without a role begins to join (R271): it adopts the partner's frame number, and has no frame 0. -/
def State.beginJoin (s : State) (frame : Nat) : State :=
  (s.adoptFrame frame).onPair fun p => p.joining s.unlikeNow

/-- The partner of a joining device chooses J = FRM_COUNT + 2 and sends JOIN (R295). -/
def State.startJoin (s : State) : State :=
  (s.onPair fun p => { p with joinFrame := some (s.frame + 2) }).send (.join (s.frame + 2)) s.frameByte

/-- The first whole microsecond of the time base at least 100 µs from now (R271). -/
def State.frame0Instant (s : State) : Nat := ceilDiv (s.clk.tb.toNat + 100000) 1000 * 1000

/-- The outcome of the identity exchange for a device that waits after the seal (R271). Of two devices that wait and whose
identities differ as R294 refuses, the one of PAIR_ID 0 becomes SOLO and the one that would join is refused (DEDUCED,
log entry 8). -/
def State.firstMeeting (s : State) (m : IdentMsg) : State :=
  match s.refusal m with
  | some r =>
    if m.role = 0 ∧ r ≠ 1 ∧ !s.pair.ownId then (s.solo).occur 906
    else if m.role = 0 ∨ m.role = 1 ∨ m.role = 2 then (s.drop r).occur 906
    else s
  | none =>
    if m.role = 0 then
      if m.digest = s.imageDigest then
        if s.pair.ownId then s.onPair fun p => { p with role := .secondary, waiting := false, partner := true }
        else
          let i := s.frame0Instant
          (s.onPair fun p => { p with role := .primary, waiting := false, partner := true, frame0At := some i }).send
            (.frame0 (BitVec.ofNat 64 i)) s.frameByte
      else if s.pair.ownId then s.beginJoin 0
      else (s.solo).startJoin
    else if m.role = 1 ∨ m.role = 2 then s.beginJoin m.frame.toNat
    else s

/-- What the identity exchange decides (R271, R291, R294). A partner that waits or is JOINING is admitted by a SOLO or
PRIMARY device. -/
def State.meetPartner (s : State) (m : IdentMsg) : State :=
  match s.pair.role with
  | .none => if s.pair.waiting then s.firstMeeting m else s
  | .dropped =>
    if s.pair.wantJoin then
      match s.refusal m with
      | some r => (s.setWhy r).occur 906
      | none => s.rejoin
    else s.rejoin
  | .joining =>
    match s.refusal m with
    | some r => (s.drop r).occur 906
    | none => s
  | .secondary => s
  | .standby => s
  | _ =>
    if m.role = 0 ∨ m.role = 5 then
      match s.refusal m with
      | some _ => s.occur 906
      | none => s.startJoin
    else s

/-- The link reaches UP once IDENT has been accepted in both directions (R277): event 896, and the exchange decides. A device
sends its IDENT after its seal, which gives the image digest (R267, R271). -/
def State.checkUp (s : State) : State :=
  match s.pair.link, s.pair.identRx with
  | .ident, some m =>
    if !s.sealed || s.pair.due Body.isIdent then s else ((s.onPair fun p => { p with link := .up }).occur 896).meetPartner m
  | _, _ => s

/-- This device's IDENT goes out when its link has reached the state IDENT and it is sealed (R271, R277), and MIR_STAT.UNLIKE
takes the digests as they now are (R299). -/
def State.sendIdent (s : State) : State :=
  if s.sealed && s.pairMode && s.pair.link == .ident then
    ((s.onPair fun p => { p with unlike := s.unlikeNow }).send (.ident s.identMsg) s.frameByte)
  else s

/-- An IDLE block carries ACK with ACKV = 1 (R276); after a class F error the transmitters are idle (R373). -/
def State.answer (s : State) (nak : Bool) : State := if s.fatal then s else s.emit (.idle (idleBlock nak s.ackOut))

/-- A packet is accepted (R276): its SEQ, its acknowledgement fields, the partner heard. Packets pass only while the link
is trained. -/
def State.accept (s : State) (h : Ack) : State :=
  let s := s.onPair fun p => { p with rxSeq := p.rxSeq + 1, nakSent := false, silent := false }
  let s := if h.ackv then s.acked h.ack else s
  let s := if h.nak then s.replay else s
  (s.checkUp).answer false

/-- Packets can arrive. -/
def State.hears (s : State) : Bool := s.pairMode && (s.pair.link == .ident || s.pair.link == .up)

/-- A packet command: the packet is accepted, then acts. -/
def State.receive (s : State) (h : Ack) (f : State → State) : State := if s.hears then f (s.accept h) else s

/-! ### Sending sets -/

/-- A set is sent in packets. -/
def State.sendSet (s : State) (mk : Nat → List Word → Body) (ws : List Word) (fr : Byte) : State := s.sendFrom mk 0 ws fr

end Sys2Proof.Machine
end

