-- ==== Sys2Proof/Machine/Link.lean ====
section
/-!
DEFINITION. The commands of the sympathy link: CONTROL messages, the other packets, acknowledgement and replay, link
training, silence and takeover, and time alignment (file 13).
-/
namespace Sys2Proof.Machine

/-! ### CONTROL messages (R275) -/

/-- The partner's identity is kept (R294, R299), and decides once the link is UP. -/
def State.identify (s : State) (m : IdentMsg) : State :=
  let s := s.onPair fun p =>
    { p with identRx := some m, partId := m.pairId, unlike := if s.sealed then decide (m.digest ≠ s.imageDigest) else p.unlike }
  if s.pair.link = .up then s.meetPartner m else s.checkUp

/-- IDENT (R294). -/
def execIdent (m : IdentMsg) (h : Ack) (s : State) : Result := .next (s.receive h fun s => s.identify m)

/-- JOIN (R295): the JOINING device learns J, and with it the partner's frame number. -/
def State.learnJoin (s : State) (j : Nat) (fr : Byte) : State :=
  if s.pair.role ≠ .joining then s
  else
    let f := j - 2 + (fr.toNat + 256 - (j - 2) % 256) % 256
    (s.adoptFrame f).onPair fun p => { p with joinFrame := some j }

/-- JOIN (R295). -/
def execJoin (frame : Word) (h : Ack) (s : State) : Result :=
  .next (s.receive h fun s => s.learnJoin frame.toNat h.frame)

/-- PENDING (R295): the joining device's pending bits. -/
def State.takePending (s : State) (b : BitVec 1024) : State :=
  if s.pair.role = .joining then { s with events := b, pair := { s.pair with pendingGot := true } } else s

/-- PENDING (R295). -/
def execPending (bits : BitVec 1024) (h : Ack) (s : State) : Result := .next (s.receive h fun s => s.takePending bits)

/-- ACTSET (R295): words of the set to adopt at J + 1; one packet holds at most 256 of them (R273, log entry 88). -/
def execActset (set : List (Nat × Word)) (h : Ack) (s : State) : Result :=
  .next (s.receive h fun s =>
    if s.pair.role = .joining then s.onPair fun p => { p with actsetGot := some (p.actsetGot.getD [] ++ set) } else s)

/-- SWAP (R282): the partner compares the shadow's CRC-64 and answers SWAPACK; when equal, and the set passes the check of R263
here as well, it is ARMED for the target as soon as its answer is known to have arrived in time, which is within 100 µs less
the measured delay of the SWAP packet (DEDUCED, log entry 23). -/
def State.answerSwap (s : State) (target : Nat) (crc : Digest) : State :=
  if s.pair.role = .secondary ∨ s.pair.role = .standby then
    let equal := s.setCrc s.shadow == crc
    let ok := equal && s.tableOk s.shadow
    let s := s.onPair fun p =>
      { p with swapRx := if ok then some (target, s.clk.tb.toNat + 100000 - s.fld mirDly 39 20) else none }
    s.send (.swapack target equal) s.frameByte
  else s

/-- SWAP (R282). -/
def execSwap (target : Word) (crc : Digest) (h : Ack) (s : State) : Result :=
  .next (s.receive h fun s => s.answerSwap target.toNat crc)

/-- SWAPACK (R282): the answer to this device's SWAP. -/
def execSwapack (target : Word) (equal : Bool) (h : Ack) (s : State) : Result :=
  .next (s.receive h fun s =>
    if s.flag cfgSwstat 5 && s.fld cfgSwapf 39 0 == target.toNat then s.onPair fun p => { p with swapAck := some equal }
    else s)

/-- HANDOVER (R297): the roles change at the boundary of H. -/
def execHandover (frame : Word) (h : Ack) (s : State) : Result :=
  .next (s.receive h fun s =>
    if s.pair.role = .secondary ∨ s.pair.role = .standby then s.onPair fun p => { p with handFrame := some frame.toNat }
    else s)

/-- YIELD (R292): the receiver becomes SOLO at once. -/
def execYield (h : Ack) (s : State) : Result :=
  .next (s.receive h fun s => if s.pair.role = .secondary ∨ s.pair.role = .standby then s.takeover else s)

/-- DROP (R289): the receiver becomes DROPPED; the spec gives no MIR_WHY reason for it, so the reason is a free value
among the codes of R299. -/
def execDrop (h : Ack) (s : State) : Result :=
  .next (s.receive h fun s => if s.pair.role = .dropped then s else (s.drop (1 + Config.freeNat s.free % 12)).spend)

/-- FRAME0 (R271): the time-base instant of frame 0. -/
def execFrame0 (instant : BitVec 64) (h : Ack) (s : State) : Result :=
  .next (s.receive h fun s => s.onPair fun p => { p with frame0At := some instant.toNat })

/-- LEAVE (R25, R275): a receiving PRIMARY becomes SOLO. -/
def execLeave (_reason : Byte) (h : Ack) (s : State) : Result :=
  .next (s.receive h fun s => if s.pair.role = .primary then s.solo else s)

/-! ### Other packets (R274) -/

/-- DIGEST (R287): CMPA and CMPB each keep a copy. -/
def execDigest (m : DigestMsg) (h : Ack) (s : State) : Result :=
  .next (s.receive h fun s => s.onPair fun p => { p with partDig := some m, partDigB := some m })

/-- Words placed at the addresses of a set from an offset on (R274). -/
def State.placeWords (s : State) (addrs : List Nat) : List Word → State
  | [] => s
  | w :: ws =>
    match addrs with
    | [] => s
    | a :: l => (s.poke a w).placeWords l ws

/-- The device receives the primary's input sets. -/
def State.takesInput (s : State) : Bool :=
  s.pair.role == .secondary || s.pair.role == .standby || s.pair.role == .joining

/-- INPUT (R25): words of the forwarded set of the next frame. -/
def execInput (off : Nat) (ws : List Word) (h : Ack) (s : State) : Result :=
  .next (s.receive h fun s =>
    if s.takesInput then
      (s.placeWords ((s.inputSet (s.frame + 1)).drop off) ws).onPair fun p => { p with fwdGot := p.fwdGot + ws.length }
    else s)

/-- The addresses of the MIRROR segments' words, in the order of the set (R284, R295). -/
def State.mirrorHome (s : State) : List Nat := s.mirrorSegs.flatMap fun g => range g.base g.limit

/-- MIRROR (R274, R295): a joining device writes the words into its own MIRROR segments; outside a join the set has no
effect on the receiver (log entry 24). -/
def execMirror (off : Nat) (ws : List Word) (h : Ack) (s : State) : Result :=
  .next (s.receive h fun s =>
    if s.pair.role = .joining ∧ s.pair.joinFrame = some s.frame then
      (s.placeWords (s.mirrorHome.drop off) ws).onPair fun p => { p with mirrorGot := p.mirrorGot + ws.length }
    else s)

/-- SHARED (R295): a joining device writes the words into its SHARED segments. -/
def execShared (off : Nat) (ws : List Word) (h : Ack) (s : State) : Result :=
  .next (s.receive h fun s =>
    if s.pair.role = .joining then
      (s.placeWords (s.sharedSet.drop off) ws).onPair fun p => { p with sharedGot := p.sharedGot + ws.length }
    else s)

/-- One EVENT word (R280): the delivery is kept, or its δ has passed, which drops a secondary with reason 7. -/
def State.takeDelivery (s : State) (fr : Byte) (w : Word) : State :=
  let f := s.frameOf fr
  let off := bits w 39 10
  if f < s.frame ∨ (f = s.frame ∧ off < s.sinceBoundary) then
    ((s.count mirCnt2 39 20 1).occur 904).drop 7
  else { s with deliver := s.deliver ++ [⟨bits w 9 0, f, off⟩] }

/-- A joining device keeps the deliveries whose δ lies in frame J + 1 or later, in which it runs slots (R280, R295). -/
def State.joinDelivery (s : State) (fr : Byte) (w : Word) : State :=
  match s.pair.joinFrame with
  | some j =>
    if j + 1 ≤ s.frameOf fr then { s with deliver := s.deliver ++ [⟨bits w 9 0, s.frameOf fr, bits w 39 10⟩] } else s
  | none => s

/-- The words of an EVENT packet, while the device is SECONDARY, STANDBY or JOINING. -/
def State.takeDeliveries (s : State) (fr : Byte) : List Word → State
  | [] => s
  | w :: ws =>
    if s.pair.role = .secondary ∨ s.pair.role = .standby then (s.takeDelivery fr w).takeDeliveries fr ws
    else if s.pair.role = .joining then (s.joinDelivery fr w).takeDeliveries fr ws
    else s

/-- EVENT (R280). -/
def execEvent (ws : List Word) (h : Ack) (s : State) : Result := .next (s.receive h fun s => s.takeDeliveries h.frame ws)

/-- The addresses under which a HOSTW packet carries a tenant reset and a queue flush (R281; log entry 25). -/
def hostReset : Nat := 0x10000000
def hostFlush : Nat := 0x10000001

/-- One pair of a HOSTW packet (R281), to be performed at the boundary of frame `f`. -/
def State.takeHostw (s : State) (f : Nat) (w : Nat × Word) : State :=
  if w.1 = hostReset then s.requestReset w.2.toNat none f
  else if w.1 = hostFlush then { s with frm := { s.frm with flushes := s.frm.flushes ++ [⟨bits w.2 27 0, f, none⟩] } }
  else s.onPair fun p => { p with held := p.held ++ [⟨w.1, w.2, f⟩] }

/-- HOSTW (R281). -/
def execHostw (writes : List (Nat × Word)) (h : Ack) (s : State) : Result :=
  .next (s.receive h fun s =>
    if s.pair.role = .secondary ∨ s.pair.role = .standby then
      writes.foldl (fun (s : State) w => s.takeHostw (s.frameOf h.frame) w) s
    else s)

/-- SYNC_REQUEST (R279): stamped and answered. -/
def execSyncRequest (t1 : BitVec 64) (h : Ack) (s : State) : Result :=
  .next (s.receive h fun s => s.send (.syncReply t1 s.clk.tb s.clk.tb) s.frameByte)

/-- A number saturated to `n` bits of two's complement. -/
def satBits (n : Nat) (v : Int) : Nat :=
  (BitVec.ofInt n (max (-(2 ^ (n - 1) : Nat) : Int) (min v ((2 ^ (n - 1) : Nat) - 1)))).toNat

/-- OWD and θ of R279 from the four stamps, halves rounded down (DEDUCED, log entry 26). -/
def State.measure (s : State) (t1 t2 t3 t4 : Int) : State × Int :=
  let owd := ((t4 - t1) - (t3 - t2)) / 2
  let theta := ((t2 - t1) - (t4 - t3)) / 2 - signed 20 (s.fld mirDly 19 0)
  ((s.setFld mirDly 39 20 (BitVec.ofInt 20 owd).toNat).setFld mirTbofs 19 0 (satBits 20 theta), theta)

/-- What a measured θ does (R279): a JOINING or DROPPED device steps, a SECONDARY or STANDBY slews, or drops beyond
200 ns. -/
def State.align (s : State) (theta : Int) : State :=
  match s.pair.role with
  | .joining => s.stepBase theta
  | .dropped => s.stepBase theta
  | .secondary => if 200 < theta.natAbs then (s.occur 908).drop 8 else s.onPair fun p => { p with theta := theta }
  | .standby => if 200 < theta.natAbs then (s.occur 908).drop 8 else s.onPair fun p => { p with theta := theta }
  | _ => s

/-- SYNC_REPLY (R279): t4 is the time base on arrival. -/
def execSyncReply (t1 t2 t3 : BitVec 64) (h : Ack) (s : State) : Result :=
  .next (s.receive h fun s =>
    let m := s.measure t1.toNat t2.toNat t3.toNat s.clk.tb.toNat
    m.1.align m.2)

/-- RESERVED_PACKET (R274): acknowledged and discarded. -/
def execReservedPacket (_ty : Fin 8) (h : Ack) (s : State) : Result := .next (s.receive h id)

/-! ### Time alignment and deliveries -/

/-- SYNC_TIMER (R279): every device that is not the primary or SOLO asks. -/
def execSyncTimer (s : State) : Result :=
  .next (if s.pairMode ∧ s.pair.role ≠ .primary ∧ s.pair.role ≠ .solo then
    s.send (.syncRequest s.clk.tb) s.frameByte else s)

/-- One count added or omitted toward θ (R279). -/
def State.slew (s : State) : State :=
  let t := s.pair.theta
  if (s.pair.role ≠ .secondary ∧ s.pair.role ≠ .standby) ∨ t = 0 then s
  else
    if 0 < t then (s.addCount).onPair fun p => { p with theta := t - 1 }
    else (s.omitCount).onPair fun p => { p with theta := t + 1 }

/-- TIME_BASE_SLEW (R279). -/
def execTimeBaseSlew (s : State) : Result := .next s.slew

/-- The deliveries without the first of event `n`. -/
def dropDelivery (n : Nat) : List Delivery → List Delivery
  | [] => []
  | d :: l => if d.event = n then l else d :: dropDelivery n l

/-- EVENT_DELIVERY (R280): at δ the route's pending bit is set. -/
def execEventDelivery (n : Fin 1024) (s : State) : Result :=
  .next (if s.deliver.any fun d => d.event == n.val then
    { s with deliver := dropDelivery n s.deliver }.setPending n else s)

/-! ### Acknowledgement, blocks and training (R272, R276, R277) -/

/-- NAK_RECEIVED (R276): the sender replays from its oldest packet that is not acknowledged. -/
def execNakReceived (ack : BitVec 12) (s : State) : Result := .next (if s.hears then (s.acked ack).replay else s)

/-- REPLAY_TIMEOUT (R276). -/
def execReplayTimeout (s : State) : Result := .next (if s.hears then s.replay else s)

/-- A discarded packet (R276): the first since the last accepted one is answered with a NAK, in an IDLE block. -/
def State.discard (s : State) (count : Bool) : State :=
  let s := if count then s.count mirCnt0 19 0 1 else s
  if s.pair.nakSent then s else (s.answer true).onPair fun p => { p with nakSent := true }

/-- BLOCK_ERROR (R272): the packet being received is discarded. -/
def execBlockError (s : State) : Result := .next (if s.hears then s.discard true else s)

/-- DISCARDED_PACKET (R276): CRCERR counts a wrong CRC (R299). -/
def execDiscardedPacket (why : BadPacket) (s : State) : Result :=
  .next (if s.hears then s.discard (why == .crc) else s)

/-- IDLE_BLOCK (R276, R278): its acknowledgement; with ACKV = 1 the partner is heard. -/
def execIdleBlock (h : Ack) (s : State) : Result :=
  .next (if s.hears then
    let s := if h.ackv then (s.onPair fun p => { p with silent := false }).acked h.ack else s
    let s := if h.nak then s.replay else s
    s.checkUp
  else s)

/-- LANE_SIGNAL_DETECT (R277): DOWN to LOCK. In pair mode only (R268); a fatal device's transmitters are idle, its
receivers are not. -/
def execLaneSignalDetect (s : State) : Result :=
  .next (if s.pairMode ∧ s.pair.link = .down then s.onPair fun p => { p with link := .lock } else s)

/-- BLOCK_LOCK (R277): LOCK to ALIGN; every lane has block lock. -/
def execBlockLock (s : State) : Result :=
  .next (if s.pairMode ∧ s.pair.link = .lock then (s.setFld mirLane 3 0 15).onPair fun p => { p with link := .align } else s)

/-- LANE_ALIGN (R277): ALIGN to IDENT with a skew of at most 32 blocks, and IDENT is sent. -/
def State.laneAlign (s : State) (skew : BitVec 20) : State :=
  if !s.pairMode || s.pair.link != .align then s
  else ((s.setFld mirLane 23 4 skew.toNat).onPair fun p => { p with link := .ident }).sendIdent

/-- LANE_ALIGN (R277). -/
def execLaneAlign (skew : BitVec 20) (s : State) : Result := .next (s.laneAlign skew)

/-- LINK_DOWN (R277, R278). -/
def execLinkDown (s : State) : Result := .next (if s.pairMode then s.lostLink else s)

/-- PARTNER_SILENT (R278, R292). -/
def execPartnerSilent (pwHigh : Bool) (s : State) : Result := .next ((s.seePw pwHigh).partnerSilent pwHigh)

/-- TAKEOVER (R292): a SECONDARY or STANDBY whose partner is silent becomes SOLO; with PWEN = 1 only while PWLINE is low. -/
def State.takeOver (s : State) (pwHigh : Bool) : State :=
  if s.pair.silent && (s.pair.role == .secondary || s.pair.role == .standby) then
    if s.flag mirCtl 37 && pwHigh then s.drop 12 else s.takeover
  else s

/-- TAKEOVER (R292). -/
def execTakeover (pwHigh : Bool) (s : State) : Result := .next ((s.seePw pwHigh).takeOver pwHigh)

/-- WAITUP_EXPIRY (R271): a device that waited without a partner becomes SOLO. -/
def execWaitupExpiry (s : State) : Result := .next (if s.pair.waiting && s.pair.role == .none then s.solo else s)

end Sys2Proof.Machine
end

