-- ==== Sys2Proof/Machine/Events.lean ====
section
/-!
DEFINITION. Occurrences of events and the acceptance of events, traps and faults (file 10).
-/
namespace Sys2Proof.Machine

/-- EVENT_OCCURRENCE (R202, R203). -/
def execEventOccurrence (n : Fin 1024) (s : State) : Result := .next (if s.inReset then s else s.occur n)

/-- EVIN_OCCURRENCE (R202): the line is high. -/
def execEvinOccurrence (n : Fin 16) (s : State) : Result :=
  let t := { s with pins := { s.pins with evin := putBit s.pins.evin n.val true } }
  .next (if s.inReset then t else t.occur (1008 + n.val))

/-- TENANT_TIMER (R202, R219): the time base reaches OFFSET of core `c` in a frame whose period is above it. -/
def State.timer (s : State) (c : Nat) : State :=
  let off := s.fld (evtTmr c) 19 0
  if s.frm.started && s.flag (evtTmr c) 20 && decide (off < s.fld frmCtl 19 0) then
    (s.reach (s.frm.boundary + 1000 * off)).occur (768 + c)
  else s

/-- TENANT_TIMER (R219). -/
def execTenantTimer (c : CoreId) (s : State) : Result := .next (s.timer c)

/-! ### Acceptance -/

/-- Event `n` is eligible on core `c` for tenant `t` (R208). -/
def State.eligible (s : State) (c t n : Nat) : Bool :=
  let r := s.reg (evtRoute n)
  let tc := s.reg (evtTctx t)
  bit s.events n && bit r 24 && bits r 23 17 == c && bit r (32 + t % 8) && bit r 16 == bit tc 39 &&
    decide (bits r 15 12 < bits tc 36 32) &&
    (s.flag (evtDesc c (bits r 16 16) (32 + bits r 4 0)) 38 || !supervisor (bits tc 38 37))

/-- The more urgent of two events: the smaller PRI, then the smaller number (R208). -/
def State.moreUrgent (s : State) (a b : Nat) : Nat :=
  if s.fld (evtRoute b) 15 12 < s.fld (evtRoute a) 15 12 then b else a

/-- The most urgent event that a test selects, with the smallest number among equals. -/
def State.mostUrgent (s : State) (p : Nat → Bool) : Option Nat :=
  match (range 0 1024).filter p with
  | [] => none
  | a :: l => some (l.foldl s.moreUrgent a)

/-- Step `n` is one in which core `c` may take an event, trap or fault (R226, R229, R373): its slot runs, the core stands at the
start of the step or comes to it while its issue stands, what surely happens before has happened, and the budget lasts into
the step. -/
def State.mayEnter (s : State) (c n : Nat) : Bool :=
  (s.core c).phase == .running && !s.fatal && decide (n - (s.core c).now < s.budgetLeft c) && s.canReach c n && s.settled c n

/-- Entry of routed event `n` (R203, R212): its pending bit is cleared. -/
def State.enterEvent (s : State) (c n : Nat) : State :=
  let r := s.reg (evtRoute n)
  ({ s with events := putBit s.events n false }).enter c
    { kind := 0, code := 0, pri := bits r 15 12, evnum := n, fpc := 0, detail := 0, desc := 32 + bits r 4 0, sk := 0 }

/-- The core stands at an acceptance point at which no trap or fault is accepted (R207, R210): none waits, and the word that would
issue raises none. -/
def State.mayAccept (s : State) (c : Nat) : Bool :=
  (s.core c).acceptancePoint (s.core c).now && (s.core c).trap.isNone && !s.wouldTrap c

/-- Acceptance of a routed event (R207, R208, R210), `held` steps on. The steps up to it pass. -/
def State.acceptEvent (s : State) (c held : Nat) : State :=
  if !s.mayEnter c ((s.core c).now + held) then s
  else
    let s' := s.passTo c ((s.core c).now + held)
    match s'.mayAccept c, s'.mostUrgent (s'.eligible c (s'.tenant c)) with
    | true, some n => s'.enterEvent c n
    | _, _ => s

/-- EVENT_ACCEPTANCE (R208, R212). -/
def execEventAcceptance (c : CoreId) (held : Nat) (s : State) : Result := .next (s.acceptEvent c held)

/-- What a trap or fault enters (R213, R214, R398): SVC is KIND 2. -/
def Trap.entry (x : Trap) : Entry :=
  { kind := if x.code = 17 then 2 else 1, code := x.code, pri := 0, evnum := 0, fpc := x.phys, detail := x.detail,
    desc := x.code, sk := x.sk }

/-- Acceptance of a trap or fault (R210), in the step after it was raised: a trap of the decode rule waits for an acceptance
point. That is the step in which the core stands, so that no steps are `held` before it. -/
def State.acceptTrap (s : State) (c held : Nat) : State :=
  match (s.core c).trap with
  | none => s
  | some x =>
    if held ≠ 0 || !s.mayEnter c (s.core c).now || (x.decode && !(s.core c).acceptancePoint (s.core c).now) then s else s.enter c x.entry

/-- TRAP_ACCEPTANCE (R210). -/
def execTrapAcceptance (c : CoreId) (held : Nat) (s : State) : Result := .next (s.acceptTrap c held)

end Sys2Proof.Machine
end

