-- ==== Sys2Proof/Machine/Health.lean ====
section
/-!
DEFINITION. Scrubbing and temperature: MEMORY_SCRUB and TEMPERATURE_UPDATE (R176, R177, R369 to R373, R376).
-/
namespace Sys2Proof.Machine

/-- The tenant in core `c`'s slot, or 0 (R381 TENANT). -/
def State.tenantInSlot (s : State) (c : Nat) : Nat := if (s.core c).slot < 8 then s.tenant c else 0

/-- The last word of the commons (R154), with which a scrubber pass over the commons ends. -/
def lastCommons : Nat := 0x11FFFFF

/-- The scrubber of a memory word (R376): its number, one per bank, commons path and core; its bit of ERR_SCRUB.LATE; and its
words. Each is visited every 256 ns. -/
def scrubber (a : Nat) : Nat × Nat × Nat :=
  if a < 0x1000000 then (a / 0x8000, 1, 0x8000)
  else if a < 0x1200000 then (0x1000 + (a - 0x1000000) / 0x40000, 0, 0x40000)
  else (0x2000 + (a - 0x1200000) / 0x2000, 2, 0x2000)

/-- A scrubber's pass ends with the last word of its memory: one longer than four times its nominal time sets its LATE flag
(R376). -/
def State.endPass (s : State) (a : Nat) : State :=
  let (n, b, words) := scrubber a
  if a % words + 1 = words then
    let now := s.clk.tb.toNat
    let s := if now - s.clk.scrubbed.get n 0 > 4 * (256 * words) then s.setFlag errScrub b true else s
    s.onClk fun k => { k with scrubbed := k.scrubbed.set n 0 now }
  else s

/-- The SRC of a word that a scrubber visits (R381; DEDUCED, log entry 29): the core that owns the bank or scratchpad,
or the commons; none where the address is unpopulated (R154). -/
def scrubSrc (a : Nat) : Option Nat :=
  if a < 0x1000000 then some (4 * (a / 0x80000) + a % 0x80000 / 0x20000)
  else if a < 0x1200000 then some 0x80
  else if a < 0x1300000 then some ((a - 0x1200000) / 0x2000)
  else none

/-- What the visit finds of word `a`: the worse of what its check bits show and of the error it is known to hold. -/
def State.foundAt (s : State) (a : Nat) : Found → Option BadBits
  | .good => s.bad a
  | .single => if s.bad a = some .double then some .double else some .single
  | .double => some .double

/-- A scrubber visits a memory word (R177): a single-bit error is corrected and counted as code 1; an uncorrectable word is
logged as code 5 and left in place. PASSES counts when the pass over the commons ends (R381). -/
def State.scrubWord (s : State) (a : Nat) (found : Found) : State :=
  match scrubSrc a with
  | none => s
  | some src =>
    let s := match s.foundAt a found with
      | none => s
      | some .single => (s.poke a (s.peek a)).error 1 src 0 a
      | some .double => ({ s with check := s.check.set a none (some .double) }).error 5 src 0 a
    (if a = lastCommons then s.count errScrub 26 3 1 else s).endPass a

/-- The part stops (R373): ERR_STAT.FATAL, with FAULT_N. -/
def State.stopPart (s : State) : State := faultEdge s (s.setFlag errStat 15 true)

/-- What an uncorrectable error in a protection structure damages (R369): a core (code 10), the part (code 12), or the
shadow set, which is a word like any other (code 5; DEDUCED, log entry 29). -/
inductive Damage where
  | core (c : Nat)
  | part
  | shadow
  deriving DecidableEq, Repr

/-- The structure that holds the register at a word index (R376). -/
def damageOf (r : Nat) : Option Damage :=
  if layout r = [] then none
  else if 0x20000 ≤ r ∧ r < 0x24000 then
    if 0x40 ≤ (r - 0x20000) % 0x80 then some (.core ((r - 0x20000) / 0x80)) else none
  else if 0x40000 ≤ r ∧ r < 0x48000 then some (.core ((r - 0x40000) / 0x100))
  else if 0x60000 ≤ r ∧ r < 0x60200 then some .part
  else if 0x80000 ≤ r ∧ r < 0x80400 then some .part
  else if 0x80800 ≤ r ∧ r < 0x84800 then some (.core ((r - 0x80800) / 0x80))
  else if 0xA0000 ≤ r ∧ r < 0xA6000 then some .part
  else if 0xC2000 ≤ r ∧ r < 0xC4000 then some .part
  else if 0xC4000 ≤ r ∧ r < 0xC6000 then some .shadow
  else none

/-- The key under which the check map holds the condition of a register's check bits: above every physical word address. A
word of a swappable set goes by its copy, Recto or Verso, whichever view names it. -/
def State.regKey (s : State) (r : Nat) : Nat :=
  let other := s.flag cfgStat 26
  0x10000000 + (if other && decide (0xC2000 ≤ r) && decide (r < 0xC4000) then r + 0x2000
    else if other && decide (0xC4000 ≤ r) && decide (r < 0xC6000) then r - 0x2000 else r)

/-- The SRC of an error in a structure (R381). -/
def Damage.src : Damage → Nat
  | .core c => c
  | .part => srcEngine
  | .shadow => srcEngine

/-- A core with an uncorrectable error in its structures goes offline, once (R369, R371, R372). -/
def State.coreLost (s : State) (c : Nat) : State := if s.offline c then s else faultEdge s (s.takeOffline c)

/-- An uncorrectable error in a structure (R369). -/
def State.damage (s : State) (d : Damage) (r : Nat) : State :=
  match d with
  | .core c => (s.error 10 c (s.tenantInSlot c) r).coreLost c
  | .part => (s.error 12 srcEngine 0 r).stopPart
  | .shadow => s.error 5 srcEngine 0 r

/-- A scrubber visits a register that carries check bits. -/
def State.scrubReg (s : State) (r : Nat) (found : Found) : State :=
  match damageOf r, found with
  | some d, .single => s.error 1 d.src 0 r
  | some d, .double => ({ s with check := s.check.set (s.regKey r) none (some .double) }).damage d r
  | _, _ => s

/-- A parity error in a core's microstores (R176, R371), which the visit finds or which a patch word has had since the loader wrote
it (R399): code 9, and the retest; no tenant is stopped by it. -/
def State.scrubMicro (s : State) (c : Nat) (found : Found) : State :=
  if found = .good ∧ s.patchParity then s else (s.error 9 c 0 0).m1 c

/-- The margin plan record (R369). -/
def State.scrubPlan (s : State) (found : Found) : State :=
  match found with
  | .good => s
  | .single => s.error 1 0x83 0 0
  | .double => (s.error 12 0x83 0 0).stopPart

/-- One visit of a scrubber. -/
def State.scrub (s : State) (loc : ScrubLoc) (found : Found) : State :=
  match loc with
  | .word a => s.scrubWord a found
  | .reg r => s.scrubReg r found
  | .planRecord => s.scrubPlan found
  | .microstore c => s.scrubMicro c found

/-- MEMORY_SCRUB (R177, R376). -/
def execMemoryScrub (loc : ScrubLoc) (found : Found) (s : State) : Result := .next (if s.inReset then s else s.scrub loc found)

/-- DEV_TEMP.TJ is above ERR_CTL.TJMAX (R335, R381): TJ in sixteenths of a degree, two's complement. -/
def State.hot (s : State) : Bool := decide ((16 * s.fld errCtl 17 10 : Nat) < signed 16 (s.fld devTemp 15 0))

/-- TEMPERATURE_UPDATE (R370): event 977 when TJ rises above TJMAX. -/
def State.newTemperature (s : State) (tj : BitVec 16) : State :=
  let s' := s.setFld devTemp 15 0 tj.toNat
  if s'.hot && !s.hot then s'.occur 977 else s'

/-- TEMPERATURE_UPDATE (R370). -/
def execTemperatureUpdate (tj : BitVec 16) (s : State) : Result := .next (if s.inReset then s else s.newTemperature tj)

end Sys2Proof.Machine
end

