-- ==== Sys2Proof/Machine/Planner.lean ====
section
/-!
DEFINITION. The margin planner (file 14): rounds and candidates, PMBus, delay codes, the plan that takes effect at a
boundary, and the forecasts.
-/
namespace Sys2Proof.Machine

/-- The planner's own state changed by a function. -/
def State.onAge (s : State) (f : Planner → Planner) : State := { s with age := f s.age }

/-- A one-bit flag of AGE_STAT is set; its event occurs when it changes from 0 to 1 (R370). -/
def State.ageFlag (s : State) (b n : Nat) : State :=
  if s.flag ageStat b then s else (s.setFlag ageStat b true).occur n

/-! ### Delay codes (R307) -/

/-- The three copies of code `n`. -/
def Planner.copies (a : Planner) (n : Nat) : Nat × Nat × Nat := a.codes.get n (0x20, 0x20, 0x20)

/-- The bitwise majority of three copies. -/
def majority (x : Nat × Nat × Nat) : Nat := (x.1 &&& x.2.1) ||| (x.1 &&& x.2.2) ||| (x.2.1 &&& x.2.2)

/-- The delay code in effect. -/
def Planner.code (a : Planner) (n : Nat) : Nat := majority (a.copies n)

/-- All three copies of a code are written. -/
def Planner.setCode (a : Planner) (n v : Nat) : Planner := { a with codes := a.codes.set n (0x20, 0x20, 0x20) (v, v, v) }

/-- One copy is changed by an upset. -/
def Planner.upset (a : Planner) (u : Fin 136 × Fin 3 × BitVec 6) : Planner :=
  let x := a.copies u.1.val
  let v := u.2.2.toNat
  let y := match u.2.1.val with
    | 0 => (v, x.2.1, x.2.2)
    | 1 => (x.1, v, x.2.2)
    | _ => (x.1, x.2.1, v)
  { a with codes := a.codes.set u.1.val (0x20, 0x20, 0x20) y }

/-- Exactly one of the three copies differs from the other two. -/
def oneDiffers (x : Nat × Nat × Nat) : Bool :=
  (x.1 != x.2.1 || x.1 != x.2.2) && (x.1 == x.2.1 || x.1 == x.2.2 || x.2.1 == x.2.2)

/-- The scrubber's visit to every code (R307). -/
def State.scrubCodes (s : State) : State :=
  (range 0 136).foldl
    (fun (s : State) n =>
      let x := s.age.copies n
      let s := if oneDiffers x then s.count ageScrub 39 20 1 else s
      s.onAge fun a => a.setCode n (majority x))
    s

/-- DELAY_CODE_SCRUB (R307): what upsets have changed since the last visit, then the visit. -/
def execDelayCodeScrub (upsets : List (Fin 136 × Fin 3 × BitVec 6)) (s : State) : Result :=
  .next (if s.inReset then s else (upsets.foldl (fun (s : State) u => s.onAge fun a => a.upset u) s).scrubCodes)

/-- The comparison of majorities with the plan record at a round's end (R307): a code that differs is rewritten. -/
def State.checkCodes (s : State) : State :=
  (range 0 136).foldl
    (fun (s : State) n =>
      let r := s.age.record.get n 0x20
      if s.age.code n = r then s
      else
        let s := (s.onAge fun a => a.setCode n r).count ageScrub 19 0 1
        s.ageFlag 13 968)
    s

/-! ### A round (R301, R303, R304) -/

/-- DUR of a sentinel that completes C laps (R301); a ring that completes none gives no reading the spec states: a free
value. -/
def durOf (s : State) (laps : Nat) : Nat := if laps = 0 then Config.freeNat s.free % 4096 else ceilDiv 1024000 laps

/-- The greatest of the readings and its sentinel, the first of equals. -/
def worstOf : Nat → List Nat → Nat × Nat
  | _, [] => (0, 0)
  | n, d :: l =>
    let r := worstOf (n + 1) l
    if r.1 ≤ d then (d, n) else r

/-- The quantities of AGE_CTL and AGE_VLIM (R302, R313). -/
def State.ceil (s : State) : Nat := s.fld ageCtl 39 28
def State.guard (s : State) : Nat := s.fld ageCtl 27 20
def State.dmin (s : State) : Nat := s.fld ageCtl 11 6
def State.vmax (s : State) : Nat := s.fld ageVlim 29 20
def State.vmin (s : State) : Nat := s.fld ageVlim 19 10

/-- CEIL_e and VMAX_e under the policy in effect (R308). -/
def State.ceilE (s : State) : Nat := if s.fld agePolicy 13 12 = 1 then min s.ceil (s.fld agePolicy 11 0) else s.ceil
def State.vmaxE (s : State) : Nat :=
  if s.fld agePolicy 13 12 = 2 then max s.vmin (min s.vmax (s.fld agePolicy 11 0)) else s.vmax

/-- V of the plan in effect, or V0 before the first plan (R303, R311). -/
def State.vNow (s : State) : Nat :=
  match s.age.plan with
  | some p => p.v
  | none => s.age.v0

/-- N of R301 for a worst reading. -/
def State.needOf (s : State) (dur : Nat) : Nat := ceilDiv (dur * (256 + s.guard)) 256

/-- A power cap must give way (R309): under POWERCAP, N is above CEIL at or above the cap. -/
def State.capBroken (s : State) (n : Nat) : Bool :=
  s.fld agePolicy 13 12 == 2 && decide (s.ceil < n) && decide (s.vmaxE ≤ s.vNow)

/-- V of the candidate (R303, R309); `held` says that some SLACK is below DMIN. -/
def State.vNext (s : State) (n : Nat) (held : Bool) : Nat :=
  let v := s.vNow
  if s.capBroken n then min (v + 20) s.vmax
  else if s.ceilE < n ∧ v < s.vmaxE then min (v + 20) s.vmaxE
  else if n * (256 + s.fld ageCtl 19 12) ≤ s.ceilE * 256 ∧ s.vmin < v ∧ !held then max (v - 5) s.vmin
  else v

/-- The candidate's delay code of one sentinel (R304). -/
def nextCode (dmin slack code : Nat) : Nat :=
  if slack < dmin then min 63 (code + 1) else if dmin + 8 < slack then code - 1 else code

/-- A change of V may be formed from a round that began at `start` (R306): a raise once the last raise is confirmed, or once the
regulator has failed it, since raises continue to be attempted; a lower 200 µs after the last change is confirmed and while
PMBERR is clear. -/
def State.mayChange (s : State) (v start : Nat) : Bool :=
  let a := s.age
  if s.vNow < v then !a.raising || a.failed || (!a.unconfirmed && decide (a.settle ≤ start))
  else if v < s.vNow then !a.unconfirmed && decide (a.settle + 200000 ≤ start) && !s.flag ageStat 14
  else true

/-- CLIP and CLIPKIND (R309). -/
def State.clip (s : State) (kind : Nat) : State := (s.ageFlag 18 969).setFld ageStat 17 16 kind

/-- The policy is clipped by a need (R309): 1 under SPEED at VMAX, 2 where the cap gives way. -/
def State.clipKind (s : State) (n : Nat) : Nat :=
  if s.capBroken n then 2
  else if s.fld agePolicy 13 12 = 1 ∧ s.fld agePolicy 11 0 < n ∧ s.vNow = s.vmax then 1
  else 0

/-- HOLDFAIL and NEED (R310): set when N is above CEIL at VMAX, cleared at the first plan with N at most CEIL. -/
def State.holdStep (s : State) (n : Nat) : State :=
  if s.ceil < n ∧ s.vNow = s.vmax then
    faultEdge s (((s.ageFlag 19 970).setFld ageStat 39 28 n).onPair fun p => { p with health := putBit p.health 3 true })
  else if n ≤ s.ceil then (s.setFlag ageStat 19 false).setFld ageStat 39 28 0
  else s

/-- AGE_SENTn and AGE_SPNNEAR as the round read them (R313). -/
def State.recordRound (s : State) (readings : List (Nat × Nat)) : State :=
  let durs := readings.map fun r => durOf s r.1
  let s' := (range 0 136).foldl
    (fun (s : State) n => (s.setFld (ageSent n) 11 0 (durs.getD n 0)).setFld (ageSent n) 30 23 (min 255 (readings.getD n (0, 0)).2))
    s
  let near := (range 0 8).foldl
    (fun a j => if s.ceil * 9 * 256 < durs.getD (128 + j) 0 * (256 + s.guard) * 10 then a + 2 ^ j else a) 0
  s'.setFld ageSpnnear 7 0 near

/-- The candidate of a round (R301, R303, R304), and the first plan (R311). -/
def State.candidate (s : State) (readings : List (Nat × Nat)) (start : Nat) : State :=
  let w := worstOf 0 (readings.map fun r => durOf s r.1)
  let n := s.needOf w.1
  let held := readings.any fun r => decide (min 255 r.2 < s.dmin)
  let v := s.vNext n held
  if !s.mayChange v start then s
  else
    let kind := s.clipKind n
    let codes := (range 0 136).map fun i => nextCode s.dmin (min 255 (readings.getD i (0, 0)).2) (s.age.code i)
    let p : Plan := { v := v, pstep := min n s.ceil, need := n, codes := codes, worst := w.2 }
    let s := if kind = 0 then s else s.clip kind
    let s := s.holdStep n
    let first := match s.age.setUpAt with
      | some t => decide (t ≤ start) && !s.age.unconfirmed && decide (n ≤ s.ceil)
      | none => false
    let s := if first then s.setFlag ageStat 12 true else s
    s.onAge fun a => { a with cand := some p }

/-- The end of a round of 16,384 ns (R301). -/
def State.endRound (s : State) (readings : List (Nat × Nat)) : State :=
  if readings.length ≠ 136 ∨ !s.clk.running then s
  else
    let s := s.reach (s.age.roundAt + 16384)
    let start := s.clk.tb.toNat - 16384
    let s := s.onAge fun a => { a with roundAt := s.clk.tb.toNat }
    let s := ((s.checkCodes).recordRound readings).candidate readings start
    if readings.any fun r => r.1 == 0 then s.spend else s

/-- SENTINEL_ROUND (R301). -/
def execSentinelRound (readings : List (Nat × Nat)) (s : State) : Result := .next (s.endRound readings)

/-! ### PMBus (R305, R306) -/

/-- A transaction goes out to the regulator of AGE_PMB.ADDR, with PEC as AGE_PMB.PEC says (R305). -/
def State.pmbusSend (s : State) (w : PmbusWait) : State := s.emit (.pmbus (s.fld agePmb 6 0) (s.flag agePmb 16) w)

/-- A transaction begins. A VOUT_COMMAND is a new attempt, whatever became of the last (R306). -/
def State.pmbusStart (s : State) (w : PmbusWait) : State :=
  let command : Bool := match w with
    | .command _ => true
    | _ => false
  (s.pmbusSend w).onAge fun a =>
    { a with inFlight := some w, tries := 0, failed := a.failed && !command,
             changedAt := if command then s.clk.tb.toNat else a.changedAt }

/-- A VOUT_COMMAND is issued, or waits for the transaction in flight. -/
def State.voutCommand (s : State) (code : Nat) : State :=
  match s.age.inFlight with
  | none => s.pmbusStart (.command code)
  | some _ => s.onAge fun a => { a with waiting := some code }

/-- A transaction is over; a VOUT_COMMAND that waits is issued. -/
def State.pmbusEnd (s : State) : State :=
  let s := s.onAge fun a => { a with inFlight := none, tries := 0 }
  match s.age.waiting with
  | some code => (s.onAge fun a => { a with waiting := none }).pmbusStart (.command code)
  | none => s

/-- The ULINEAR16 code of V in mV: the smallest code at or above V (R305). -/
def voutCode (vexp v : Nat) : Nat :=
  let e := signed 5 vexp
  if e < 0 then ceilDiv (v * 2 ^ e.natAbs) 1000 else ceilDiv v (1000 * 2 ^ e.natAbs)

/-- `n × 2^e`, rounded down. -/
def scaled (n : Int) (e : Int) : Int := if e < 0 then n / (2 ^ e.natAbs : Int) else n * (2 ^ e.natAbs : Int)

/-- The voltage of a ULINEAR16 reading in whole mV, held to the ten bits of VREAD (R305, R313; log entry 90). -/
def ulinear16 (vexp : Nat) (code : BitVec 16) : Nat := min 1023 (scaled (1000 * (code.toNat : Int)) (signed 5 vexp)).toNat

/-- The current of a LINEAR11 reading in units of 10 mA, held to the sixteen bits of IOUT (R305, R313; PRESUMED, log
entry 90): the exponent in bits 15:11, the mantissa in bits 10:0. -/
def linear11 (code : BitVec 16) : Nat :=
  min 0xFFFF (scaled (100 * signed 11 (code.toNat % 2048)) (signed 5 (code.toNat / 2048))).toNat

/-- Two numbers of mV within a distance. -/
def withinMv (a b d : Nat) : Bool := decide (a ≤ b + d) && decide (b ≤ a + d)

/-- READ_VOUT_POLL (R306): READ_VOUT, with at most one transaction in flight. -/
def execReadVoutPoll (s : State) : Result :=
  .next (if !s.inReset && s.age.inFlight.isNone then s.pmbusStart .readVout else s)

/-- A READ_VOUT reading (R306, R311): it confirms V within 10 mV, unless it was begun before the VOUT_COMMAND of a new V; before
the first plan it is V0. -/
def State.readVout (s : State) (mv : Nat) : State :=
  let s := s.setFld agePlan 17 8 mv
  let s := if s.age.plan.isNone ∧ s.age.v0 = 0 then s.onAge fun a => { a with v0 := mv } else s
  if s.age.unconfirmed ∧ s.age.waiting.isNone ∧ withinMv mv s.vNow 10 then
    s.onAge fun a => { a with unconfirmed := false, failed := false, settle := s.clk.tb.toNat }
  else s

/-- The reading is over; READ_IOUT follows a READ_VOUT while V is confirmed (R305, R306: the spec does not say when it is
issued; DESIGN CHOICE, log entry 90). -/
def State.readDone (s : State) : State :=
  let s := s.pmbusEnd
  if s.age.inFlight.isNone && !s.age.unconfirmed then s.pmbusStart .readIout else s

/-- PMBERR (R306): event 967; raises continue to be attempted. -/
def State.pmbusError (s : State) : State := (s.onAge fun a => { a with failed := true }).ageFlag 14 967

/-- PMBUS_RESPONSE (R306): the transaction completes, or fails and is retried up to three times. -/
def State.pmbusDone (s : State) (r : Pmbus) : State :=
  match r, s.age.inFlight with
  | .iout v, some .readIout => (s.setFld ageIout 15 0 (linear11 v)).pmbusEnd
  | .vout v, some .readVout => (s.readVout (ulinear16 (s.fld agePmb 12 8) v)).readDone
  | .written, some (.command _) => s.pmbusEnd
  | .failed, some w =>
    if s.age.tries < 3 then (s.pmbusSend w).onAge fun a => { a with tries := a.tries + 1 }
    else (s.pmbusError).pmbusEnd
  | _, _ => s

/-- PMBUS_RESPONSE (R306). -/
def execPmbusResponse (r : Pmbus) (s : State) : Result := .next (s.pmbusDone r)

/-- READ_VOUT has not come within 15 mV of V in the 1 ms after VOUT_COMMAND (R306). -/
def State.confirmTimeout (s : State) : State :=
  let s := s.reach (s.age.changedAt + 1000000)
  if withinMv (s.fld agePlan 17 8) s.vNow 15 then s else s.pmbusError

/-- VOUT_CONFIRM_TIMEOUT (R306). -/
def execVoutConfirmTimeout (s : State) : Result :=
  .next (if s.clk.running ∧ s.age.unconfirmed then s.confirmTimeout else s)

/-! ### Taking effect (R14 step 5, R306, R307, R310, R312) -/

/-- HEAD of the plan in effect (R312). -/
def State.head (s : State) : Nat := s.vmax - s.vNow

/-- HEAD, MINHEAD which follows it down, and WARN when MINHEAD falls below WARNMV (R312). -/
def State.trackHead (s : State) : State :=
  let m := s.fld ageHead 9 0
  let w := s.fld ageVlim 9 0
  let s := (s.setFld ageHead 19 10 s.head).setFld ageHead 9 0 (min m s.head)
  if w ≤ m ∧ s.head < w then s.ageFlag 15 971 else s

/-- The newest candidate takes effect at a boundary (R15, R306, R307): PSTEP, V, every copy of every code, and VOUT_COMMAND
for a new V. While HOLDFAIL is 1, bit 3 of the health word is set for the frame (R310). -/
def State.planBoundary (s : State) : State :=
  let s := match s.age.cand with
    | none => s
    | some p =>
      let v0 := s.vNow
      let s := ((s.setFld agePlan 39 28 p.pstep).setFld agePlan 27 18 p.v).setFld agePlan 7 0 p.worst
      let s := (range 0 136).foldl
        (fun (s : State) n => s.onAge fun a =>
          { (a.setCode n (p.codes.getD n 0x20)) with record := a.record.set n 0x20 (p.codes.getD n 0x20) }) s
      let s := s.onAge fun a => { a with plan := some p, cand := none }
      let s := if p.v = v0 then s
        else
          (s.onAge fun a => { a with unconfirmed := true, raising := decide (v0 < p.v) }).voutCommand
            (voutCode (s.fld agePmb 12 8) p.v)
      s.trackHead
  if s.flag ageStat 19 then s.onPair fun p => { p with health := putBit p.health 3 true } else s

/-- 1,024 hours of the time base, in ns (R312). -/
def logInterval : Nat := 1024 * 3600 * second

/-- HEAD_LOG_INTERVAL (R312): the log shifts up, the interval's MINHEAD goes to AGE_LOG0, MINHEAD to 0x3FF. -/
def State.logHead (s : State) : State :=
  let s := s.reach ((s.age.intervals + 1) * logInterval)
  let m := s.fld ageHead 9 0
  let s := (range 0 15).foldl (fun (s' : State) i => s'.setReg (ageLog (15 - i)) (s.reg (ageLog (14 - i)))) s
  let s := s.setReg (ageLog 0) (putBits (word m) 39 10 s.age.intervals)
  (s.setFld ageHead 9 0 0x3FF).onAge fun a => { a with intervals := a.intervals + 1 }

/-- HEAD_LOG_INTERVAL (R312): while the time base runs. -/
def execHeadLogInterval (s : State) : Result := .next (if s.clk.running then s.logHead else s)

end Sys2Proof.Machine
end

