-- ==== Sys2Proof/Machine/Ports.lean ====
section
/-!
DEFINITION. The field exchange ports (file 16): receiving and parsing, the receive timers, output frames, the queues
with their PTP timestamps, and the link. The bytes of a frame here run from the destination address to the end of the
payload; a frame sent carries its FCS as well.
-/
namespace Sys2Proof.Machine

/-- Port `p` changed by a function. -/
def State.onPort (s : State) (p : Nat) (f : Port → Port) : State := s.setPort p (f (s.port p))

/-! ### Receiving (R336, R337, R341) -/

/-- `n` bytes at an offset as a big-endian number; none where the frame is too short. -/
def beAt (bs : List Byte) (off n : Nat) : Option Nat :=
  if off + n ≤ bs.length then some (beNat ((bs.drop off).take n)) else none

/-- A received frame taken apart (R336): addresses, C-tag, EtherType and the bytes after it. -/
structure Rx where
  dst   : Nat
  src   : Nat
  tag   : Bool
  vid   : Nat
  etype : Nat
  body  : List Byte
  deriving DecidableEq, Repr

/-- One C-tag, TPID 0x8100, is read; any other TPID is the EtherType (R336). -/
def rxOf (bs : List Byte) : Rx :=
  let ty := beNat ((bs.drop 12).take 2)
  let dst := beNat (bs.take 6)
  let src := beNat ((bs.drop 6).take 6)
  if ty = 0x8100 then
    ⟨dst, src, true, beNat ((bs.drop 14).take 2) % 4096, beNat ((bs.drop 16).take 2), bs.drop 18⟩
  else ⟨dst, src, false, 0, ty, bs.drop 14⟩

/-- The port's MAC address (R350). -/
def State.mac (s : State) (p : Nat) : Nat := s.fld (xePmac0 p) 39 0 * 256 + s.fld (xePmac1 p) 39 32

/-- The destination addresses a port accepts (R337). -/
def State.acceptsDst (s : State) (p d : Nat) : Bool :=
  d == s.mac p || d == 2 ^ 48 - 1 || (s.flag (xePcfg p) 3 && d.testBit 40)

/-- The UDP payload of a UDP/IPv4 frame with its destination port, and its offset in the bytes after the EtherType. -/
def udpOf (r : Rx) : Option (Nat × Nat) :=
  let ihl := 4 * (beNat (r.body.take 1) % 16)
  if r.etype = 0x0800 ∧ beNat (r.body.take 1) / 16 = 4 ∧ beNat ((r.body.drop 9).take 1) = 17 then
    match beAt r.body (ihl + 2) 2 with
    | some port => some (port, ihl + 8)
    | none => none
  else none

/-- The offset of the PTP message in the bytes after the EtherType, if the frame carries one (R341). -/
def ptpOffset (r : Rx) : Option Nat :=
  if r.etype = 0x88F7 then some 0
  else
    match udpOf r with
    | some (port, off) => if port = 319 ∨ port = 320 then some off else none
    | none => none

/-- The offset of a message that R336 timestamps as an event: over EtherType 0x88F7 or UDP port 319, and no other (R336; log
entry 17). -/
def eventOffset (r : Rx) : Option Nat :=
  if r.etype = 0x88F7 then some 0
  else
    match udpOf r with
    | some (port, off) => if port = 319 then some off else none
    | none => none

/-- The messageType of a PTP message: the low four bits of its first byte, as IEEE 1588 lays it out (PRESUMED, log entry
17). -/
def messageType (r : Rx) (off : Nat) : Nat := beNat ((r.body.drop off).take 1) % 16

/-- A frame matches a receive entry (R341). -/
def Exch.accepts (x : Exch) (r : Rx) : Bool :=
  x.etype == r.etype && x.tag == r.tag && (!x.tag || x.vid == r.vid) &&
    (x.koff == 0xFF || beAt r.body x.koff 2 == some x.key) && (!x.macm || x.mac == r.src)

/-- The time of a byte on a port's link, in tenths of a ns (R336, R350 PSTAT.SPEED). -/
def State.byteTime (s : State) (p : Nat) : Nat :=
  match s.fld (xePstat p) 2 0 with
  | 1 => 8000
  | 2 => 800
  | 3 => 80
  | _ => 8

/-- The tables that govern a frame of `n` bytes that has just arrived (R265): those before the last swap for a frame whose first
byte arrived before its boundary (a parse begins with it: DEDUCED, log entry 39). -/
def State.rxTables (s : State) (p n : Nat) : Map Word :=
  match s.frm.swapped with
  | some (t, old) => if 10 * (s.clk.tb.toNat - t) < n * s.byteTime p then old else s.active
  | none => s.active

/-- The entry with the lowest number that a frame matches (R341). -/
def rxEntry (m : Map Word) (p : Nat) (r : Rx) : Option Nat := (entries m p false).find? fun e => (exch m e).accepts r

/-- The word of a datum on reception (R339). -/
def rxWord (pack : Nat) (bs : List Byte) : Word :=
  match pack with
  | 0 => wordI (signed 32 (beNat bs))
  | 2 => wordI (signed 16 (beNat bs))
  | _ => word (beNat bs)

/-- The words of a matched frame (R339); none where the frame is too short. -/
def rxWords (x : Exch) (body : List Byte) : Option (List Word) :=
  if x.poff + x.nw * x.bytes ≤ body.length then
    some ((range 0 x.nw).map fun i => rxWord x.pack ((body.drop (x.poff + i * x.bytes)).take x.bytes))
  else none

/-- The number of the input set being filled (R16, R17). -/
def State.filling (s : State) : Nat := s.frame + (if s.frm.frozen then 2 else 1)

/-- An entry has a receive timer (R342). -/
def Exch.timed (x : Exch) : Bool := x.valid && !x.tx && x.tmo != 0

/-- The timer of a receive entry restarts (R342): it holds the time base of its last restart. -/
def State.restartTimer (s : State) (e : Nat) : State :=
  if (exch s.active e).timed then { s with timers := s.timers.set e none (some s.clk.tb.toNat) } else s

/-- The place of the next parse write in the order of parse completions: after all that are not performed (R17). -/
def State.nextSeq (s : State) : Nat :=
  (s.ports.flatMap fun x => x.2.writes).foldl (fun (n : Nat) w => max n (w.seq + 1)) 0

/-- Words of entry `x` are on their way to the set being filled (R17, R341). -/
def State.queueWrite (s : State) (p : Nat) (x : Exch) (ws : List Word) : State :=
  let n := s.filling
  let a := s.exchAddr x n
  s.onPort p fun q =>
    { q with writes := q.writes ++ [⟨x.tenant, n, s.nextSeq, (range 0 ws.length).map fun i => (a + i, ws.getD i 0)⟩] }

/-- A parse completes (R341, R342): counters, TO, the timer, the event, and the words on their way to the set. -/
def State.parse (s : State) (p e : Nat) (x : Exch) (ws : List Word) : State :=
  let s := (((s.count (xePcnt p 0) 39 20 1).count (xeEstat e) 31 0 1).setFlag (xeEstat e) 39 false).restartTimer e
  let s := s.queueWrite p x ws
  if x.evSend then s.occur e else s

/-! ### The receive queue (R346, R347) -/

/-- Frame bytes four per word, first byte in bits 7:0 (R346). `n` bounds the words. -/
def packBytes (bs : List Byte) : Nat → List Word
  | 0 => []
  | n + 1 => if bs = [] then [] else word (leNat (bs.take 4)) :: packBytes (bs.drop 4) n

/-- The PTP time moved by some ns, as words 1 and 2 of an item (R346). -/
def State.stamp (s : State) (d : Int) : Word × Word :=
  let k := s.clk.ptpAdd d
  (k.ptpHi, k.ptpLo)

/-- The time that `n` bytes last on a port's link, in whole ns. -/
def State.duration (s : State) (p n : Nat) : Nat := n * s.byteTime p / 10

/-- The words of a receive-queue item (R346): the message timestamp point is the frame's first byte, which came before its last
by the frame's duration (log entry 17). Without a timestamp, words 1 and 2 are free values; words beyond the frame are not
written. -/
def State.rxItem (s : State) (p : Nat) (tsv : Bool) (bs : List Byte) : List (Nat × Word) :=
  let back := s.fld (xePcfg p) 15 8 + s.duration p (bs.length + 4)
  let ts := if tsv then s.stamp (-(back : Int)) else (Config.freeWord s.free, Config.freeWord (s.free + 1))
  let ws := packBytes bs (bs.length / 4 + 1)
  [(0, putBit (word bs.length) 14 tsv), (1, ts.1), (2, ts.2)] ++ (range 0 ws.length).map fun i => (3 + i, ws.getD i 0)

/-- A frame is dropped at the receive queue (R347). -/
def State.dropRx (s : State) (p : Nat) : State := s.count (xePcnt p 1) 19 0 1

/-- What became of an item at the receive queue (R196, R347). -/
inductive Queued where
  | done | again | dropped
  deriving DecidableEq, Repr

/-- An item of a frame of `n` bytes meets the receive queue (R196, R347). A header word that is uncorrectable drops it (log
entry 56). -/
def State.offerRx (s : State) (p n : Nat) (item : List (Nat × Word)) : State × Queued :=
  let h := s.fld (xePrxq p) 27 0
  match s.produce h with
  | (s, .broken) => (s.dropRx p, .dropped)
  | (s, .retry) => (s, .again)
  | (s, .full) => (s.dropRx p, .dropped)
  | (s, .item cfg gen cnt) =>
    if (itemWords cfg - 3) * 4 < n then (s.dropRx p, .dropped) else (s.commit h cfg gen cnt item, .done)

/-- The items that wait for a queue to be ready are tried again, oldest first (R196, R347). `n` bounds them. -/
def State.retryRx (s : State) (p : Nat) : Nat → State
  | 0 => s
  | n + 1 =>
    match (s.port p).rxWait with
    | [] => s
    | x :: l =>
      match s.offerRx p x.1 x.2 with
      | (s, .again) => s
      | (s, _) => State.retryRx (s.onPort p fun q => { q with rxWait := l }) p n

/-- Every port tries its waiting items again. -/
def State.retryAll (s : State) : State := (range 0 4).foldl (fun (s : State) p => s.retryRx p (s.port p).rxWait.length) s

/-- A frame goes to the receive queue (R347), behind the items that wait (log entry 56). -/
def State.queueRx (s : State) (p : Nat) (tsv : Bool) (bs : List Byte) : State :=
  if !s.flag (xePrxq p) 39 then s.dropRx p
  else
    let item := s.rxItem p tsv bs
    let s := if tsv then s else s.spend.spend
    let s := s.onPort p fun q => { q with rxWait := q.rxWait ++ [(bs.length, item)] }
    s.retryRx p (s.port p).rxWait.length

/-- A frame with no entry, or a PTP message, is queued; an event message carries its timestamp (R336, R347). -/
def State.queueFrame (s : State) (p : Nat) (r : Rx) (bs : List Byte) : State :=
  match eventOffset r with
  | some off => s.queueRx p (decide (messageType r off ≤ 3)) bs
  | none => s.queueRx p false bs

/-- A frame arrives (R336, R337, R341): `bs` without its FCS. -/
def State.receiveFrame (s : State) (p : Nat) (bs : List Byte) (fcsOk : Bool) : State :=
  if !(s.port p).up || !s.sealed then s
  else if !fcsOk || decide (bs.length + 4 < 64) || decide (9600 < bs.length + 4) then s.count (xePcnt p 0) 19 0 1
  else
    let r := rxOf bs
    if !s.acceptsDst p r.dst then s
    else if r.etype = 0x8808 then s.count (xePcnt p 1) 39 20 1
    else if (ptpOffset r).isSome then s.queueFrame p r bs
    else
      let m := s.rxTables p (bs.length + 4)
      match rxEntry m p r with
      | none => s.queueFrame p r bs
      | some e =>
        match rxWords (exch m e) r.body with
        | none => s.count (xePcnt p 0) 19 0 1
        | some ws => s.parse p e (exch m e) ws

/-- FRAME_RECEIVED (R341). -/
def execFrameReceived (p : PortId) (bytes : List Byte) (fcsOk : Bool) (s : State) : Result :=
  .next (s.receiveFrame p bytes fcsOk)

/-- A word is written into an input set (R341). On a device that receives the primary's sets, a word of the set its own ports
froze goes to that set, which is published only after a takeover (R293). -/
def State.writeInput (s : State) (set : Nat) (a : Nat) (w : Word) : State :=
  match s.pair.ownFrozen with
  | some (n, m) =>
    if set = n then { s with pair := { s.pair with ownFrozen := some (n, m.set a 0 w) } } else s.poke a w
  | none => s.poke a w

/-- The words of a parse reach their set (R341). Words of earlier parses that are still on their way to the same place of the
same set are not written after it: the later parse prevails (R17). -/
def State.writeParse (s : State) (w : ParseWrite) : State :=
  let s := w.ws.foldl (fun (s : State) x => s.writeInput w.set x.1 x.2) s
  let stale (u : ParseWrite) (a : Nat) : Bool := u.set == w.set && decide (u.seq < w.seq) && w.ws.any fun x => x.1 == a
  (range 0 4).foldl
    (fun (s : State) p => s.onPort p fun q =>
      { q with writes := q.writes.map fun u => { u with ws := u.ws.filter fun x => !stale u x.1 } }) s

/-- PARSE_WRITE_PERFORMED (R341): the oldest parse of the port; after the cutoff a primary goes on forwarding. -/
def execParseWritePerformed (p : PortId) (s : State) : Result :=
  .next (match (s.port p).writes with
    | [] => s
    | w :: l => ((s.onPort p fun q => { q with writes := l }).writeParse w).forwardInput)

/-- RECEIVE_TIMEOUT (R342): TMO µs after its last restart the timer of a valid receive entry expires, once. -/
def State.expire (s : State) (e : Nat) : State :=
  let x := exch s.active e
  match s.timers.get e none with
  | none => s
  | some t =>
    if !x.timed then s
    else
      let s := s.reach (t + 1000 * x.tmo)
      let s := (({ s with timers := s.timers.set e none none }).setFlag (xeEstat e) 39 true).setFlag (xeEstat e) 38 true
      let s := if x.zeroto then s.queueWrite x.port x (List.replicate x.nw 0) else s
      if x.evLate then s.occur e else s

/-- RECEIVE_TIMEOUT (R342). -/
def execReceiveTimeout (e : Fin 512) (s : State) : Result := .next (s.expire e)

/-! ### Transmitting (R343, R344) -/

/-- The device's ports send frames: no class F error, no FAULT_N in pair mode (R292), the role (R270). -/
def State.mayDrive (s : State) : Bool :=
  !s.fatal && (!s.pairMode || (!s.faultN && (s.pair.role == .primary || s.pair.role == .solo)))

/-- Output set `k` goes out in this frame (R21, R24, R289, R290). -/
def State.sends (s : State) (k : Nat) : Bool :=
  s.mayDrive &&
    (if s.pair.role == .primary then
      s.pair.verdictFor == some k && (s.fld mirVerd 39 37 == 1 || s.fld mirVerd 39 37 == 5 || s.fld mirVerd 39 37 == 6)
    else s.pair.barred != some k)

/-- A word as its data bytes on transmission (R339). -/
def txBytes (pack : Nat) (w : Word) : List Byte :=
  match pack with
  | 0 => beBytes 4 (bits w 31 0)
  | 1 => beBytes 5 (bits w 39 0)
  | 2 => beBytes 2 (bits w 15 0)
  | _ => beBytes 1 (bits w 7 0)

/-- Bytes written over others at an offset. -/
def overwrite (bs : List Byte) (off : Nat) (new : List Byte) : List Byte := bs.take off ++ new ++ bs.drop (off + new.length)

/-- Padding to 60 bytes, then the FCS (R343). -/
def withFcs (bs : List Byte) : List Byte :=
  let b := bs ++ List.replicate (60 - bs.length) 0
  b ++ leBytes 4 (crc32 b).toNat

/-- The frame of a transmit entry (R343). -/
def State.frameOfEntry (s : State) (p : Nat) (x : Exch) (ws : List Word) : List Byte :=
  let tag := if x.tag then beBytes 2 0x8100 ++ beBytes 2 (x.pcp * 2 ^ 13 + x.vid) else []
  let body := List.replicate (x.poff + x.nw * x.bytes) (0 : Byte)
  let body := if x.koff = 0xFF then body else overwrite body x.koff (beBytes 2 x.key)
  let body := overwrite body x.poff (ws.flatMap (txBytes x.pack))
  withFcs (beBytes 6 x.mac ++ beBytes 6 (s.mac p) ++ tag ++ beBytes 2 x.etype ++ body)

/-- The frame of entry `x` does not go out, counted in TXLATE (R343). -/
def State.lateFrame (s : State) (p e : Nat) : State := (s.count (xePcnt p 2) 19 0 1).notSent e

/-- The frame of a transmit entry is not sent in this frame: its tenant was reset (R345), or is silent with SAFE = 0
(R344). -/
def State.unsent (s : State) (x : Exch) : Bool :=
  s.frm.cancelled.contains x.tenant || (s.frm.silent.contains x.tenant && !x.safe)

/-- The data words that a transmit entry reads from output set FRM_COUNT − 1 (R19, R343, R344): none where one is
uncorrectable. -/
def State.dataOf (s : State) (x : Exch) : State × Option (List Word) :=
  match s.engineReads (range (s.exchAddr x (s.frame - 1)) x.nw) with
  | (s, none) => (s, none)
  | (s, some ws) => (s, some (if s.frm.silent.contains x.tenant then List.replicate x.nw 0 else ws))

/-- The next frame of the port is assembled from output set FRM_COUNT − 1; entries that send none are passed over (R343,
R344). `n` bounds them. -/
def State.assemble (s : State) (p : Nat) : Nat → State
  | 0 => s
  | n + 1 =>
    match (s.port p).toSend with
    | [] => s
    | e :: l =>
      let x := exch s.assembly e
      let s := s.onPort p fun q => { q with toSend := l }
      if s.unsent x then (s.cancelFrame p e).assemble p n
      else
        match s.dataOf x with
        | (s, none) => (s.lateFrame p e).assemble p n
        | (s, some data) => s.onPort p fun q => { q with sending := some ⟨e, x.evSend, x.evLate, s.frameOfEntry p x data⟩ }

/-- Frames that a port withholds are assembled all the same: their words are read (R24, R343, R349). They count in neither TXLATE
nor TXCAN and raise no event. -/
def State.withhold (s : State) : List Nat → State
  | [] => s
  | e :: l =>
    let x := exch s.assembly e
    State.withhold (if s.unsent x then s else (s.dataOf x).1) l

/-- Frames that the link being down leaves unsent (R343), in order. -/
def State.lateFrames (s : State) (p : Nat) : List Nat → State
  | [] => s
  | e :: l =>
    let x := exch s.assembly e
    let s := if s.unsent x then s.cancelFrame p e else s.lateFrame p e
    State.lateFrames s p l

/-- A frame that was completely assembled is not sent: it is late, whatever became of its tenant since (R343, R345). -/
def State.lateSending (s : State) (p : Nat) (x : Sending) : State :=
  let s := s.count (xePcnt p 2) 19 0 1
  if x.evLate then s.occur x.entry else s

/-- At X the port begins with its transmit entries (R343), behind a frame of the last set that it is still sending; with the
link down, every frame is late; a port that withholds sends nothing. -/
def State.transmit (s : State) (p : Nat) : State :=
  let es := entries s.assembly p true
  if !s.sends (s.frame - 1) then s.withhold es
  else if !(s.port p).up then s.lateFrames p es
  else
    let s := s.onPort p fun q => { q with toSend := es }
    if (s.port p).sending.isNone then s.assemble p (es.length + 1) else s

/-- The port's CFG_PORTEN bit is set in the set that governs assembly (R265, R343), and its MODE is not 0. -/
def State.portOn (s : State) (p : Nat) : Bool := bit (s.assembly.get 1 0) p && s.fld (xePcfg p) 2 0 != 0

/-- The transmit point X of a port (R13), once in a frame; no set is sent in frame 0 (R19). -/
def State.transmitPoint (s : State) (p : Nat) : State :=
  let s := s.reach (s.frm.boundary + 1000 * s.fld frmPhase1 39 20)
  let s := s.onPort p fun q => { q with begun := true }
  if s.frame ≠ 0 ∧ s.portOn p then s.transmit p else s

/-- TRANSMIT_POINT (R343). -/
def execTransmitPoint (p : PortId) (s : State) : Result :=
  .next (if s.frm.started ∧ !(s.port p).begun then s.transmitPoint p else s)

/-- OUTPUT_FRAME_SENT (R343): TXOK, the entry's count and event; the next frame is assembled. A port that may no longer send
(R270, R292, R373) withholds what it had begun. -/
def State.frameSent (s : State) (p : Nat) : State :=
  match (s.port p).sending with
  | none => s
  | some x =>
    if !s.mayDrive then s.onPort p fun q => { q with sending := none, toSend := [] }
    else
      let s := (s.onPort p fun q => { q with sending := none }).emit (.frame p x.bytes)
      let s := (s.count (xePcnt p 2) 39 20 1).count (xeEstat x.entry) 31 0 1
      let s := if x.evSend then s.occur x.entry else s
      s.assemble p ((s.port p).toSend.length + 1)

/-- OUTPUT_FRAME_SENT (R343). -/
def execOutputFrameSent (p : PortId) (s : State) : Result := .next (s.frameSent p)

/-! ### The transmit queue (R346, R348) -/

/-- Bytes of an item's words, four per word (R346). -/
def unpackBytes (ws : List Word) (n : Nat) : List Byte := (ws.flatMap fun w => leBytes 4 (bits w 31 0)).take n

/-- The transmit time in originTimestamp of a Sync, ten bytes at offset 34 of the PTP message as IEEE 1588 lays it out; over
UDP/IPv4 the checksum becomes zero (R348; PRESUMED, log entry 17). -/
def oneStep (bs : List Byte) (sec ns : Nat) : List Byte :=
  let r := rxOf bs
  let base := bs.length - r.body.length
  match eventOffset r with
  | none => bs
  | some off =>
    if messageType r off ≠ 0 then bs
    else
      let bs := overwrite bs (base + off + 34) (beBytes 6 sec ++ beBytes 4 ns)
      if r.etype = 0x88F7 then bs else overwrite bs (base + off - 2) (beBytes 2 0)

/-- The time at which an item's message timestamp point leaves, eight bytes of preamble after its start, corrected by TXLAT
(R346; log entry 17). -/
def State.txClock (s : State) (p : Nat) : Clock := s.clk.ptpAdd (s.duration p 8 + s.fld (xePcfg p) 23 16 : Nat)

/-- TWOSTEP (R348): XE_TXTS0, XE_TXTS1, VALID, and OVR where VALID was 1. -/
def State.twoStep (s : State) (p : Nat) : State :=
  let k := s.txClock p
  let was := s.flag (xeTxts0 p) 39
  let ovr := was || s.flag (xeTxts0 p) 38
  (s.setReg (xeTxts0 p) (putBit (putBit k.ptpHi 39 true) 38 ovr)).setReg (xeTxts1 p) k.ptpLo

/-- The frame bytes of an item (R346). -/
def itemBytes (ws : List Word) : List Byte := unpackBytes (ws.drop 3) (bits (ws.getD 0 0) 13 0)

/-- An item is sent (R348): padded, with its FCS, and its timestamp flags handled. -/
def State.sendItem (s : State) (p : Nat) (ws : List Word) : State :=
  let w0 := ws.getD 0 0
  let bs := itemBytes ws
  let k := s.txClock p
  let bs := if bit w0 16 then oneStep bs k.sec.toNat k.ns else bs
  let s := if bit w0 17 then s.twoStep p else s
  (s.emit (.frame p (withFcs bs))).count (xePcnt p 2) 39 20 1

/-- The time base of the port's next X (R13, R348); none before frames begin. -/
def State.nextX (s : State) (p : Nat) : Option Nat :=
  let x := s.frm.boundary + 1000 * s.fld frmPhase1 39 20
  if !s.frm.started then none else some (if (s.port p).begun then x + s.periodNs else x)

/-- An item that starts at a count of the time base, with its preamble, ends before the next X (R348). -/
def State.endsInTime (s : State) (p start n : Nat) : Bool :=
  match s.nextX p with
  | none => true
  | some x => decide (start + s.duration p (n + 8) < x)

/-- The item at the head of the transmit queue is sent (R348): QHEAD advances before the first byte. -/
def State.sendHead (s : State) (p h : Nat) (next : Word) (ws : List Word) : State :=
  let n := (withFcs (itemBytes ws)).length
  let start := max s.clk.tb.toNat (s.port p).busy
  if !s.endsInTime p start n then s
  else
    let s := (s.reach start).take h next
    (s.sendItem p ws).onPort p fun q => { q with busy := start + s.duration p (n + 20) }

/-- TX_QUEUE_ITEM_SEND (R348): between cyclic frames, once the last item and its gap are over; an item with an uncorrectable
word is dropped and counts in TXCAN. -/
def State.sendNext (s : State) (p : Nat) : State :=
  let q := s.port p
  let h := s.fld (xePtxq p) 27 0
  if !(s.flag (xePtxq p) 39 && q.up && s.mayDrive && bit (s.assembly.get 1 0) p && q.sending.isNone && q.toSend.isEmpty) then s
  else
    match s.consume h with
    | (s, none) => s
    | (s, some (a, next, n)) =>
      match s.engineReads (range a n) with
      | (s, none) => (s.take h next).count (xePcnt p 3) 39 20 1
      | (s, some ws) => s.sendHead p h next ws

/-- TX_QUEUE_ITEM_SEND (R348). -/
def execTxQueueItemSend (p : PortId) (s : State) : Result := .next (s.sendNext p)

/-! ### The link (R336, R349) -/

/-- Frames not yet sent by a port whose link goes down, or that a frame's end finds not assembled, are late (R19, R343), unless the
port withholds them. -/
def State.leaveUnsent (s : State) (p : Nat) (x : Option Sending) (es : List Nat) : State :=
  if !s.mayDrive then s
  else
    (match x with
      | some x => s.lateSending p x
      | none => s).lateFrames p es

/-- The port's link goes down (R349): frames not yet sent are late, and the transmit queue is flushed at the next boundary. -/
def State.portDown (s : State) (p : Nat) : State :=
  let q := s.port p
  let s := (s.setFld (xePstat p) 3 0 0).setPort p { q with up := false, toSend := [], sending := none, flushDue := q.up || q.flushDue }
  s.leaveUnsent p q.sending q.toSend

/-- PORT_LINK_DOWN (R349). -/
def execPortLinkDown (p : PortId) (s : State) : Result := .next (s.portDown p)

/-- The codes of XE_PSTAT.SPEED (R350). -/
def speedCode : LinkSpeed → Nat
  | .m10 => 1
  | .m100 => 2
  | .g1 => 3
  | .g10 => 4

/-- The speeds of a MODE (R336). -/
def modeAllows (mode : Nat) (v : LinkSpeed) : Bool :=
  match mode, v with
  | 1, .g10 => true
  | 2, .g1 => true
  | 3, .g10 => false
  | 3, _ => true
  | _, _ => false

/-- PORT_LINK_UP (R336, R350): LINK and SPEED, at a speed the port's MODE has; ETHREF must be ready. -/
def execPortLinkUp (p : PortId) (speed : LinkSpeed) (s : State) : Result :=
  .next (if modeAllows (s.fld (xePcfg p) 2 0) speed ∧ s.flag clkStat 1 then
    (s.setFld (xePstat p) 3 0 (8 + speedCode speed)).onPort p fun q => { q with up := true }
  else s)

/-! ### What happens when no command waits -/

/-- The block idles (log entry 7): one count of the time base, and the receive items that wait are tried again (R196). -/
def State.idle (s : State) : State := (s.tickBase).retryAll

end Sys2Proof.Machine
end

