-- ==== Sys2Proof/Machine/Verdict.lean ====
section
/-!
DEFINITION. The digest, the verdict and the input cutoff: DIGEST_COMPLETION, VERDICT_POINT, INPUT_CUTOFF (R21 to R25,
R285 to R290).
-/
namespace Sys2Proof.Machine

/-- A phase point of the current frame, in µs from its boundary, has come (R13; log entry 28). -/
def State.reachPoint (s : State) (us : Nat) : State := s.reach (s.frm.boundary + 1000 * us)

/-! ### Digest -/

/-- The DIGEST packet of set `k` (R286). -/
def State.digestMsg (s : State) (d : Digest) (k : Nat) : DigestMsg :=
  { digest := d, inv := ~~~d, health := s.pair.healthOut, frame := word k }

/-- The device takes part in verdicts with a partner (R287). -/
def State.compares (s : State) : Bool :=
  s.pair.role == .primary || s.pair.role == .secondary || s.pair.role == .standby

/-- The digest of the sets of frame `k` is complete (R21, R285, R286): a device in a comparing role sends it, a single
one records it. -/
def State.digestDone (s : State) (k : Nat) : State :=
  let (s, out) := s.engineWords (s.outputSet k)
  let (s, mir) := s.engineWords (s.mirrorSet k)
  let d := crcWords (out ++ mir)
  let m := s.digestMsg d k
  let s := s.onPair fun p => { p with ownDig := some m, ownDigB := some m }
  if s.compares then s.send (.digest m) (BitVec.ofNat 8 k)
  else (s.setReg mirDigo0 (digLo d)).setReg mirDigo1 (digHi d)

/-- The digest point D (R13, R286): the digest is complete, once in a frame. -/
def State.digestPoint (s : State) : State :=
  let s := s.reachPoint (s.fld frmPhase0 39 20)
  ({ s with frm := { s.frm with digested := true } }).digestDone (s.frame - 1)

/-- DIGEST_COMPLETION (R286): from frame 1 on (R20). -/
def execDigestCompletion (s : State) : Result :=
  .next (if s.frm.started ∧ s.frame ≠ 0 ∧ !s.fatal ∧ !s.frm.digested then s.digestPoint else s)

/-! ### Verdict -/

/-- What a comparator reports: E and EI (R287). -/
structure Report where
  e  : Bool
  ei : Bool
  deriving DecidableEq, Repr

/-- A comparator on an own and a partner's digest with their inverted copies (R287). -/
def compare (own part : DigestMsg) : Report := ⟨own.digest == part.digest, own.inv == part.inv⟩

/-- The verdicts of MIR_VERD.VERDICT (R299): 1 AGREE, 2 MISMATCH, 3 CMPFAULT. -/
def judge (a b : Report) : Nat :=
  if a.e && a.ei && b.e && b.ei then 1
  else if !a.e && !a.ei && !b.e && !b.ei then 2
  else 3

/-- A digest with bit `j` inverted, in both copies (R288). -/
def flipBit (m : DigestMsg) (j : Nat) : DigestMsg :=
  { m with digest := m.digest ^^^ (1 <<< j), inv := m.inv ^^^ (1 <<< j) }

/-- The comparator self-check of R288, every 1,024 frames: each comparator must report DIFFER; else bit 2 of the health
word, INJOK 0 and event 902. A device without a partner's digest uses its own. -/
def State.selfCheck (s : State) : State :=
  if s.frame % 1024 ≠ 0 then s
  else
    match s.pair.ownDig, s.pair.ownDigB with
    | some a, some b =>
      let part (own : DigestMsg) (m : Option DigestMsg) : DigestMsg := if s.compares then m.getD own else own
      let j := s.frame / 1024 % 64
      let differs (r : Report) : Bool := !r.e && !r.ei
      if differs (compare a (flipBit (part a s.pair.partDig) j)) && differs (compare b (flipBit (part b s.pair.partDigB) j)) then
        s.setFlag mirVerd 32 true
      else
        faultEdge s (((s.setFlag mirVerd 32 false).onPair fun p => { p with health := putBit p.health 2 true }).occur 902)
    | _, _ => s

/-- The digests of the set judged are recorded (R299). -/
def State.recordDigests (s : State) : State :=
  let s := match s.pair.ownDig with
    | some m => (s.setReg mirDigo0 (digLo m.digest)).setReg mirDigo1 (digHi m.digest)
    | none => s
  match s.pair.partDig with
  | some m => (s.setReg mirDigp0 (digLo m.digest)).setReg mirDigp1 (digHi m.digest)
  | none => s

/-- A copy of the partner's digest, if it is that of set `k` (R287). -/
def ofSet (k : Nat) (m : Option DigestMsg) : Option DigestMsg := m.filter fun m => m.frame.toNat == k

/-- What a comparator reports on its copies of the two digests of set `k`; none while the partner's has not arrived (R287). -/
def report (k : Nat) (own part : Option DigestMsg) : Option Report :=
  match own, ofSet k part with
  | some a, some b => some (compare a b)
  | _, _ => none

/-- E and EI as two bits of MIR_VERD.CMP (R299). -/
def Report.code (r : Report) : Nat := 2 * r.e.toNat + r.ei.toNat

/-- The verdict on set `k` and the reports of CMPA and CMPB as MIR_VERD.CMP (R287). NOTCMP and UNLIKE stand over LATE
(DEDUCED, log entry 27). -/
def State.verdict (s : State) (k : Nat) : Nat × Nat :=
  let a := report k s.pair.ownDig s.pair.partDig
  let b := report k s.pair.ownDigB s.pair.partDigB
  let code := 4 * ((a.map Report.code).getD 0) + (b.map Report.code).getD 0
  if s.pair.notcmp = some k then (6, code)
  else if s.pair.role = .standby ∨ s.pair.unlike then (5, code)
  else
    match a, b with
    | some a, some b => (judge a b, code)
    | _, _ => (4, 0)

/-- After a MISMATCH or CMPFAULT the device yields (R290): exactly one health word has a bit among 0 to 5 set, and it is
its own; or not exactly one, and the device is the secondary. -/
def State.yields (s : State) : Bool :=
  let bad (m : Option DigestMsg) : Bool := match m with
    | some m => bits m.health 5 0 != 0
    | none => false
  let own := bad s.pair.ownDig
  let part := bad s.pair.partDig
  if own != part then own else s.pair.role == .secondary

/-- What a verdict on set `k` does (R287, R289, R290, R298). -/
def State.act (s : State) (k v prev : Nat) : State :=
  if v = 2 ∨ v = 3 then
    let s := (s.count mirCnt1 39 20 1).occur (if v = 2 then 901 else 902)
    let s := if v = 3 then s.onPair fun p => { p with health := putBit p.health 2 true } else s
    let s := s.onPair fun p => { p with barred := some k }
    if s.yields then (s.stopPorts).drop 5 else s.solo
  else if v = 4 then
    let s := s.occur 907
    if s.pair.role = .primary then (s.send .drop s.frameByte).solo else s
  else if v = 5 ∧ prev ≠ 5 then s.occur 911
  else s

/-- The verdict of V (R287): recorded in MIR_VERD and acted on, then the self-check. -/
def State.verdictPoint (s : State) : State :=
  let k := s.frame - 1
  let s :=
    if s.compares then
      let v := s.verdict k
      let prev := s.fld mirVerd 39 37
      let s := s.recordDigests
      let s := ((s.setFld mirVerd 39 37 v.1).setFld mirVerd 36 33 v.2).setFld mirVerd 31 0 k
      (s.onPair fun p => { p with verdictFor := some k }).act k v.1 prev
    else s
  s.selfCheck

/-- The verdict point V (R13): once in a frame, after D. -/
def State.judgePoint (s : State) : State :=
  let s := s.reachPoint (s.fld frmPhase0 19 0)
  ({ s with frm := { s.frm with judged := true } }).verdictPoint

/-- VERDICT_POINT (R287): from frame 1 on (R20). -/
def execVerdictPoint (s : State) : Result :=
  .next (if s.frm.started ∧ s.frame ≠ 0 ∧ !s.fatal ∧ s.frm.digested ∧ !s.frm.judged then s.judgePoint else s)

/-! ### The input cutoff -/

/-- The words of a set that are not zero, by address. -/
def State.snapshot (s : State) (addrs : List Nat) : Map Word :=
  addrs.foldl (fun (m : Map Word) a => m.set a 0 (s.peek a)) []

/-- The cutoff I (R13, R25, R293, R295): later arrivals fill the following set; a primary, or the partner of a join in frame J,
forwards the frozen set as far as its parse writes have been performed (R341); a receiving device keeps its own. -/
def State.cutoff (s : State) : State :=
  let n := s.frame + 1
  let s := s.reachPoint (s.fld frmPhase1 19 0)
  let s := { s with frm := { s.frm with frozen := true } }
  if s.forwards then s.forwardInput
  else if s.takesInput then
    let m := s.snapshot (s.inputSet n)
    s.onPair fun p => { p with ownFrozen := some (n, m) }
  else s

/-- INPUT_CUTOFF (R25). -/
def execInputCutoff (s : State) : Result := .next (if s.frm.started ∧ !s.frm.frozen then s.cutoff else s)

end Sys2Proof.Machine
end

