-- ==== Sys2Proof/Machine/Boundary.lean ====
section
/-!
DEFINITION. FRAME_BOUNDARY: the actions of R14 in their order, and what the pair does at a boundary (R25, R293, R295,
R297).
-/
namespace Sys2Proof.Machine

/-! ### Step 1: the output images are latched -/

/-- The tenants that were STOPPED or held when the output set was latched, or live on a core that is offline (R344, R372). -/
def State.silentTenants (s : State) : List Nat :=
  (range 0 1024).filter fun t => s.fld (frmTstat t) 39 37 == 4 || s.held t || s.offline (t / 8)

/-- In the join frame J the partner's output set is a copy of set J − 1 (R295). -/
def State.copyJoinSet (s : State) (j : Nat) : State :=
  if s.pair.joinFrame = some j ∧ (s.pair.role = .primary ∨ s.pair.role = .solo) ∧ j ≠ 0 then
    s.copyWords ((s.outputSet (j - 1)).zip (s.outputSet j))
  else s

/-- Frames that a port has not assembled by the end of the frame are late (R19, R343). -/
def State.lateAtEnd (s : State) (p : Nat) : State :=
  let es := (s.port p).toSend
  (s.onPort p fun q => { q with toSend := [], begun := false }).leaveUnsent p none es

/-- Parse writes of the set that is now published, not performed, are discarded: LATEW and event 972 for each (R341; a
parse is one write, DEDUCED, log entry 30). A write all of whose words a later parse has overtaken is none (R17). -/
def State.dropLate (s : State) (k p : Nat) : State :=
  let q := s.port p
  let late := (q.writes.filter fun w => decide (w.set ≤ k) && !w.ws.isEmpty).length
  let s := s.setPort p { q with writes := q.writes.filter fun w => decide (k < w.set) }
  (range 0 late).foldl (fun (s : State) _ => (s.count (xePcnt p 3) 19 0 1).occur 972) s

/-- The flush of the transmit queue at the first boundary after the link went down, unless the queue was flushed in the frame
just ended (R349). -/
def State.portFlush (s : State) (p : Nat) : State :=
  let h := s.fld (xePtxq p) 27 0
  if !(s.port p).flushDue then s
  else if !s.flag (xePtxq p) 39 then s.onPort p fun q => { q with flushDue := false }
  else if s.frm.flushedPrev.contains h then s
  else (s.onPort p fun q => { q with flushDue := false }).flushNow srcEngine h

/-- Bit 5 of the health word is set while this device's handover is in progress (R286, R297). -/
def State.handoverBit (s : State) : Word :=
  if s.pair.role = .primary ∧ s.pair.handFrame.isSome then putBit 0 5 true else 0

/-- The end of frame `k − 1` at the boundary of frame `k`: its outputs are latched, FRM_HAND and the records of the frame
start afresh (R14, R233, R286). -/
def State.endFrame (s : State) (k : Nat) : State :=
  let s := (range 0 4).foldl (fun (s : State) p => s.lateAtEnd p) (s.copyJoinSet (k - 1))
  let s := { s with frm := { s.frm with silent := s.silentTenants, digested := false, judged := false, frozen := false } }
  let s := { s with frm := { s.frm with opened := [], cancelled := [], flushedPrev := s.frm.flushed, flushed := [] } }
  let s := (range 0 4).foldl (fun (s : State) n => s.setFld (frmHand n) 31 0 0) s
  let s := (range 0 4).foldl (fun (s : State) p => (s.dropLate k p).portFlush p) s
  s.onPair fun p => { p with healthOut := p.health, health := s.handoverBit }

/-! ### Step 2: the input set is published -/

/-- The forwarded input set is complete (R25). -/
def State.forwarded (s : State) (k : Nat) : Bool := decide ((s.inputSet k).length ≤ s.pair.fwdGot)

/-- The set that the own ports froze is put into the buffer of set `k` (R293). -/
def State.restoreOwn (s : State) (k : Nat) : State :=
  match s.pair.ownFrozen with
  | some (n, m) => if n = k then (s.inputSet k).foldl (fun (s : State) a => s.poke a (m.get a 0)) s else s
  | none => s

/-- The join stream and the forwarded set of a joining device are complete (R295). -/
def State.joinComplete (s : State) (k : Nat) : Bool :=
  s.forwarded k && s.pair.pendingGot && decide (s.mirrorSize ≤ s.pair.mirrorGot) &&
    decide (s.sharedSet.length ≤ s.pair.sharedGot) && (s.pair.unlike || decide (setOffsets.length ≤ (s.pair.actsetGot.getD []).length))

/-- A joining device at the boundary of J + 1 (R294, R295): it takes its part and adopts the active set, or drops. -/
def State.finishJoin (s : State) (j : Nat) : State :=
  if !s.joinComplete (j + 1) then s.drop 4
  else
    let s := match s.pair.actsetGot with
      | some l => if s.pair.unlike then s else s.setActive (l.foldl (fun (m : Map Word) (x : Nat × Word) => m.set x.1 0 x.2) [])
      | none => s
    (s.onPair fun p =>
      { p with role := p.joinAs, partner := true, joinFrame := none, completed := j :: p.completed, notcmp := some j }).occur 905

/-- Publication by role (R16, R25, R293, R295). -/
def State.publish (s : State) (k : Nat) : State :=
  match s.pair.role with
  | .secondary => if s.forwarded k then s else ((s.occur 903).send (.leave 6) s.frameByte).drop 6
  | .standby => if s.forwarded k then s else ((s.occur 903).send (.leave 6) s.frameByte).drop 6
  | .joining =>
    match s.pair.joinFrame with
    | some j => if k = j + 1 then s.finishJoin j else if k = j then s.occur 910 else s
    | none => s
  | .solo =>
    let s := if s.forwarded k then s else s.restoreOwn k
    match s.pair.joinFrame with
    | some j =>
      if k = j + 1 then
        (s.onPair fun p => { p with role := .primary, partner := true, joinFrame := none, notcmp := some j }).occur 905
      else if k = j then s.occur 910
      else s
    | none => s
  | .primary =>
    match s.pair.joinFrame with
    | some j =>
      if k = j + 1 then (s.onPair fun p => { p with partner := true, joinFrame := none, notcmp := some j }).occur 905
      else if k = j then s.occur 910
      else s
    | none => s
  | _ => s

/-- The roles change hands at the boundary of H (R297, R298). -/
def State.handover (s : State) (k : Nat) : State :=
  if s.pair.handFrame ≠ some k then s
  else
    let s := s.onPair fun p => { p with handFrame := none }
    match s.pair.role with
    | .primary => s.onPair fun p => { p with role := if p.unlike then .standby else .secondary }
    | .secondary => (s.onPair fun p => { p with role := .primary, theta := 0 }).occur 899
    | .standby => (s.onPair fun p => { p with role := .primary, theta := 0 }).occur 899
    | _ => s

/-- The records of the forwarding start afresh. -/
def State.startForwarding (s : State) : State := s.onPair fun p => { p with fwdNext := 0, fwdGot := 0, ownFrozen := none }

/-! ### Step 3: the swap -/

/-- Every timed receive entry of the active set restarts its timer (R342). -/
def State.restartTimers (s : State) : State :=
  { s with timers := ((range 0 512).filter fun e => (exch s.active e).timed).map fun e => (e, some s.clk.tb.toNat) }

/-- A swap request is refused (R264, R329). -/
def State.refuseSwap (s : State) (why : Nat) : State := ((s.setFld cfgSwstat 23 20 why).setFlag cfgSwstat 2 true).cause 24

/-- Every instruction cache is invalidated (R153). -/
def State.dropCaches (s : State) : State :=
  (range 0 128).foldl (fun (s : State) c => s.onCore c fun k => { k with icache := [] }) s

/-- Step 3 of R14 at the boundary of frame `k` (R263 to R265). -/
def State.swapStep (s : State) (k : Nat) : State :=
  let s := s.setFlag cfgSwstat 6 false
  if s.fld cfgSwapf 39 0 ≠ k then s
  else if s.flag cfgSwstat 4 then
    let s := { s with frm := { s.frm with swapped := some (s.clk.tb.toNat, s.active) } }
    let s := s.setFlag cfgStat 26 (!s.flag cfgStat 26)
    let s := ((s.setFlag cfgSwstat 4 false).setFlag cfgSwstat 6 true).setFlag cfgSwstat 1 true
    ((s.dropCaches).restartTimers).cause 24
  else if s.flag cfgSwstat 5 then (s.setFlag cfgSwstat 5 false).refuseSwap 3
  else s

/-! ### Step 4: LV values and held host writes -/

/-- The LV fields of a register take the bits of a value (R3, R7). -/
def State.applyLv (s : State) (r : Nat) (v : Word) : State :=
  let m := accMask .lv (layout r)
  s.setReg r ((s.reg r &&& ~~~m) ||| (v &&& m))

/-- A host write to the commons is performed, unless its word has a role in this frame (R320). -/
def State.hostPoke (s : State) (a : Nat) (v : Word) : State :=
  if s.roleBarred a then s.count hstStat 19 0 1 else s.poke a v

/-- One held write is performed (R281): a commons word, or the LV fields of a register. -/
def State.performHeld (s : State) (w : HeldWrite) : State :=
  if 0x1000000 ≤ w.addr then s.hostPoke w.addr w.val else s.applyLv w.addr w.val

/-- Step 4 of R14 at the boundary of frame `k`: the held writes that are due, then the LV writes accepted since; the last write
accepted prevails (R7), since a write accepted by this device alone takes back those held for its register (State.lvWrite). -/
def State.lvStep (s : State) (k : Nat) : State :=
  let due := s.pair.held.filter fun w => decide (w.frame ≤ k)
  let s := due.foldl (fun (s : State) w => s.performHeld w)
    (s.onPair fun p => { p with held := p.held.filter fun w => decide (k < w.frame) })
  { (s.lv.foldl (fun (s : State) e => s.applyLv e.1 e.2) s) with lv := [] }

/-! ### The new frame -/

/-- Tenants that ended are READY again (R234). -/
def State.readyTenants (s : State) : State :=
  (range 0 1024).foldl (fun (s : State) t => if s.fld (frmTstat t) 39 37 = 3 then s.setFld (frmTstat t) 39 37 1 else s) s

/-- The primary streams the mirror set of the frame that ended; in a join frame the SHARED segments too (R26, R270,
R295). -/
def State.stream (s : State) : State :=
  if s.frame = 0 ∨ !(s.pair.role = .primary ∨ (s.pair.role = .solo ∧ s.pair.joinFrame = some s.frame)) then s
  else
    let k := s.frame - 1
    let (s, ws) := s.engineWords (s.mirrorSet k)
    let s := s.sendSet .mirror ws (BitVec.ofNat 8 k)
    if s.pair.joinFrame = some s.frame then
      let (s, ws) := s.engineWords s.sharedSet
      s.sendSet .shared ws s.frameByte
    else s

/-- The instant of the next boundary on the time base (R220, R271). -/
def State.nextBoundary (s : State) : Nat :=
  if s.frm.started then s.frm.boundary + s.periodNs
  else
    match s.pair.frame0At with
    | some i => i
    | none => (s.clk.tb.toNat / 1000 + 1) * 1000

/-- The device begins frames (R220, R270, R271): it is sealed, its time base runs, and in pair mode it has a role. -/
def State.framesRun (s : State) : Bool := s.sealed && s.clk.running && (!s.pairMode || s.pair.role != .none)

/-- The boundary of frame 0: nothing is latched, and the published set is the initial one (R20). A port whose link went down before
it flushes its transmit queue (R349). -/
def State.firstFrame (s : State) : State :=
  let s := ({ s with frm := { s.frm with started := true } }.restartTimers).onPair fun p => { p with frame0At := none }
  (range 0 4).foldl (fun (s : State) p => s.portFlush p) s

/-- The boundary of frame `k` after frame `k − 1`. -/
def State.laterFrame (s : State) (k : Nat) : State :=
  let s := s.setFld frmCount 39 0 k
  ((((s.endFrame k).publish k).handover k).startForwarding).swapStep k

/-- A frame boundary (R14, R220, R221). -/
def State.frameBoundary (s : State) : State :=
  if !s.framesRun then s
  else
    let s := s.reach s.nextBoundary
    let started := s.frm.started
    let s := { s with frm := { s.frm with boundary := s.clk.tb.toNat } }
    let s := if started then s.laterFrame (s.frame + 1) else s.firstFrame
    let s := ((s.lvStep s.frame).planBoundary).readyTenants
    let s := if started then s.tick else s
    s.stream

/-- FRAME_BOUNDARY (R14). -/
def execFrameBoundary (s : State) : Result := .next s.frameBoundary

end Sys2Proof.Machine
end

