-- ==== Sys2Proof/Machine/HostAccess.lean ====
section
/-!
DEFINITION. Host reads and the two word latches: BAR_READ, BAR_HIGH_WRITE, BAR2_WRITE, DOORBELL, MSIX_UNMASK,
HOST_INTERFACE_RESET (R315 to R320, R328 to R330), and the registers as the host reads them.
-/
namespace Sys2Proof.Machine

/-- The BARs can accept accesses (R316, R353): the part is out of reset, the host link can be up, and the function is not in
D3hot. -/
def State.barsOpen (s : State) : Bool := !s.inReset && s.flag clkStat 0 && !s.host.d3

/-- The function as the host finds it when it enumerates (R314). -/
structure PciFunction where
  vendor : BitVec 16
  device : BitVec 16
  cls    : BitVec 24
  subVendor : BitVec 16
  subDevice : BitVec 16
  vectors : Nat
  aer    : Bool
  deriving DecidableEq, Repr

/-- Device ID 0x1024 under Vanget's vendor ID, class code 0x0B_4000, the subsystem IDs of HST_SUBSYS, 64 MSI-X vectors; `aer` is
the advisory Unsupported Request that waits in Advanced Error Reporting (R314, R317). -/
def State.pciFunction (s : State) : PciFunction :=
  ⟨Config.vendorId, 0x1024, 0x0B4000, BitVec.ofNat 16 (s.fld hstSubsys 31 16), BitVec.ofNat 16 (s.fld hstSubsys 15 0), 64, s.host.aerUr⟩

/-- The link as the two ends negotiate it (R314, R335): x1, x2 or x4 at Gen1 to Gen4, by free values (log entry 74). -/
def State.negotiate (s : State) : State :=
  if s.reg hstLink ≠ 0 then s
  else
    let s' := (s.setFld hstLink 6 4 (2 ^ (Config.freeNat s.free % 3))).setFld hstLink 2 0 (1 + Config.freeNat (s.free + 1) % 4)
    { s' with free := s.free + 2 }

/-- An access reaches a BAR only after the host has brought the link up and assigned the BAR. The table has no command for either:
the first access to a BAR that is not assigned stands for both (log entry 74). -/
def State.assign (s : State) (b : Bar) : State :=
  if s.host.bars.contains b then s
  else (({ s with host := { s.host with bars := b :: s.host.bars } }).negotiate)

/-- A host access to a BAR acts while the BARs are open (R316). -/
def State.viaBar (s : State) (b : Bar) (f : State → State) : State := if s.barsOpen then f (s.assign b) else s

/-! ### Registers as they read -/

/-- QM_OWN of quire `q` (R187): a bit for each core in deterministic mode. -/
def State.ownView (s : State) (q : Nat) : Word :=
  word ((range 0 4).foldl (fun a i => if s.det (4 * q + i) then a + 2 ^ i else a) 0)

/-- The most urgent pending event of a core and world, whatever else holds (R218 NEXT). -/
def State.nextEvent (s : State) (c w : Nat) : Option Nat :=
  s.mostUrgent fun n => bit s.events n && s.fld (evtRoute n) 23 17 == c && s.fld (evtRoute n) 16 16 == w

/-- EVT_PSUM with ANY, NPRI and NEXT (R218). -/
def State.psumView (s : State) (c w : Nat) : Word :=
  let v := putBits (s.reg (evtPsum c w)) 23 0 0
  match s.nextEvent c w with
  | none => v
  | some n => putBits (putBits (putBits v 23 23 1) 22 19 (s.fld (evtRoute n) 15 12)) 9 0 n

/-- MIR_STAT (R268, R299). -/
def State.mirStatView (s : State) : Word :=
  let p := s.pair
  putBits (putBits (putBits (putBits (putBits (putBits (0 : Word) 39 37 p.role.code) 36 34 p.link.code) 33 33 p.partId.toNat)
    32 32 p.ownId.toNat) 31 31 p.unlike.toNat) 30 30 (s.pairMode && !s.pwHigh).toNat

/-- A register of the blocks MIR_, AGE_ and CLK_ as it reads (R299, R313, R355, R357). -/
def State.highView (s : State) (r : Nat) : Word :=
  if r = mirStat then s.mirStatView
  else if ageSent 0 ≤ r ∧ r < ageSent 136 then putBits (s.reg r) 36 31 (s.age.code (r - ageSent 0))
  else if r = clkTblo then word (bits s.clk.tb 39 0)
  else if r = clkTbhi then word s.clk.tbHi.toNat
  else if r = clkPtp0 then s.clk.ptpHi
  else if r = clkPtp1 then s.clk.ptp1
  else s.reg r

/-- The bits of every field of a register. -/
def fieldMask : List Field → Word
  | [] => 0
  | f :: fs => f.mask ||| fieldMask fs

/-- A register as the host reads it: what it stores or shows, with reserved bits 0 (R4) and WO fields 0 (R3). -/
def State.readReg (s : State) (r : Nat) : Word :=
  let v :=
    if 0x20000 ≤ r ∧ r < 0x24000 ∧ r % 0x80 = 1 then s.coreStatView ((r - 0x20000) / 0x80)
    else if qmOwn 0 ≤ r ∧ r < qmOwn 32 then s.ownView (r - qmOwn 0)
    else if evtPsum 0 0 ≤ r ∧ r < evtPsum 128 0 then s.psumView ((r - evtPsum 0 0) / 2) (r % 2)
    else if cfgActive ≤ r ∧ r < cfgActive + 0x2000 then s.setWord s.active (r - cfgActive)
    else if cfgShadow ≤ r ∧ r < cfgShadow + 0x2000 then s.setWord s.shadow (r - cfgShadow)
    else s.highView r
  v &&& fieldMask (layout r) &&& ~~~accMask .wo (layout r)

/-- What a read of a register changes: CLK_TBLO latches CLK_TBHI, CLK_PTP0 latches CLK_PTP1 (R355, R357). -/
def State.readEffect (s : State) (r : Nat) : State :=
  if r = clkTblo then s.onClk fun k => { k with tbHi := BitVec.ofNat 24 (bits k.tb 63 40) }
  else if r = clkPtp0 then s.onClk fun k => { k with ptp1 := k.ptpLo }
  else s

/-! ### BAR4 -/

/-- The code of a command state in CSW (R321). -/
def CmdState.code : CmdState → Nat
  | .idle => 0
  | .queued => 1
  | .running => 2
  | .done => 3
  | .failed => 4
  | .aborted => 5

/-- CSW of slot `k` (R321). -/
def State.csw (s : State) (k : Nat) : Word :=
  let c := s.cmd k
  putBits (putBits (putBits (putBits (0 : Word) 39 37 c.st.code) 31 24 c.fail) 23 16 c.tag.toNat) 15 0 c.prog

/-- What lies at a word of BAR4 (R321). -/
inductive Slot4 where
  | cmd (k : Nat)
  | csw (k : Nat)
  | data (k n : Nat)
  | msix (i : Nat)
  | pba
  | doorbell (n : Nat)
  | none
  deriving DecidableEq, Repr

/-- The map of BAR4 by 8-byte index (R321). -/
def slot4 (i : Nat) : Slot4 :=
  if i < 24 * 512 then
    match i % 512 with
    | 0 => .cmd (i / 512)
    | 1 => .csw (i / 512)
    | n => .data (i / 512) n
  else if 0x3C00 ≤ i ∧ i < 0x3C80 then .msix (i - 0x3C00)
  else if i = 0x3D00 then .pba
  else if 0x3E00 ≤ i ∧ i < 0x3E80 then .doorbell (i - 0x3E00)
  else .none

/-! ### Reads -/

/-- The word at an 8-byte index of a BAR, and whether it is poisoned (R317); none at a reserved offset. -/
def State.hostWord (s : State) (b : Bar) (i : Nat) : State × Option (Word × Bool) :=
  match b with
  | .bar0 =>
    if layout i = [] then (s, none)
    else if s.check.get (s.regKey i) none = some .double then ((s.error 6 srcHost 0 i), some (s.readReg i, true))
    else (s.readEffect i, some (s.readReg i, false))
  | .bar2 =>
    match s.meet 6 srcHost 0 (0x1000000 + i) with
    | (s, ok) => (s, some (s.peek (0x1000000 + i), !ok))
  | .bar4 =>
    match slot4 i with
    | .cmd _ => (s, some (0, false))
    | .csw k => (s, some (s.csw k, false))
    | .data k n => (s, some (s.host.bar4.get (512 * k + n) 0, false))
    | _ => (s, none)

/-- The latch entries of the other BARs. -/
def otherBars (b : Bar) (l : List (Bar × Nat × Byte)) : List (Bar × Nat × Byte) := l.filter fun x => x.1 != b

/-- What a latch holds for word `i` of a BAR (R318). -/
def latched (b : Bar) (i : Nat) (l : List (Bar × Nat × Byte)) : Option Byte :=
  (l.find? fun x => x.1 == b && x.2.1 == i).map (·.2.2)

/-- The two dwords of the MSI-X table or the PBA at an 8-byte index (R321); none elsewhere. -/
def State.dwords (s : State) (i : Nat) : Option (Nat × Nat) :=
  match slot4 i with
  | .msix j => some ((s.host.msix.get (2 * j) 0).toNat, (s.host.msix.get (2 * j + 1) 0).toNat)
  | .pba => some (s.host.pba.toNat % 2 ^ 32, s.host.pba.toNat / 2 ^ 32)
  | _ => none

/-- A completion of a read (R317). -/
def State.complete (s : State) (v : Nat) (poisoned : Bool) : State := s.emit (.completion (BitVec.ofNat 64 v) poisoned)

/-- A read of a word of a BAR (R318, R319): offset 0 (`half` 0), offset 4 (`half` 1), or both dwords at once. -/
def State.readWord (s : State) (b : Bar) (i half : Nat) (whole : Bool) : State :=
  if whole then
    match s.hostWord b i with
    | (s, none) => s.complete 0 false
    | (s, some (w, p)) => s.complete w.toNat p
  else if half = 0 then
    match s.hostWord b i with
    | (s, none) => s.complete 0 false
    | (s, some (w, p)) =>
      let h : Byte := BitVec.ofNat 8 (bits w 39 32)
      ({ s with host := { s.host with rdLatch := (b, i, h) :: otherBars b s.host.rdLatch } }).complete (bits w 31 0) p
  else
    match latched b i s.host.rdLatch with
    | some h => s.complete h.toNat false
    | none =>
      match s.hostWord b i with
      | (s, none) => s.complete 0 false
      | (s, some (w, p)) => s.complete (bits w 39 32) p

/-- The words of a BAR (R315). -/
def barWords : Bar → Nat
  | .bar0 => 0x200000
  | .bar2 => 0x200000
  | .bar4 => 0x4000

/-- A read of a word of a BAR, or of two dwords of the MSI-X table or the PBA. -/
def State.readAt (s : State) (b : Bar) (i half : Nat) (whole : Bool) : State :=
  match b, s.dwords i with
  | .bar4, some (lo, hi) => s.complete (if whole then hi * 2 ^ 32 + lo else if half = 0 then lo else hi) false
  | _, _ => s.readWord b i half whole

/-- A BAR read at a byte offset (R317, R319). -/
def State.barRead (s : State) (b : Bar) (off : Nat) (whole : Bool) : State :=
  if barWords b ≤ off / 8 then s else s.viaBar b fun s => s.readAt b (off / 8) (off % 8 / 4) whole

/-- BAR_READ (R319). -/
def execBarRead (b : Bar) (off : Nat) (whole : Bool) (s : State) : Result := .next (s.barRead b off whole)

/-- CLK_TBLO_READ (R355): a read of both dwords. -/
def execClkTbloRead (s : State) : Result := .next (s.barRead .bar0 (8 * clkTblo) true)

/-- CLK_PTP0_READ (R357): a read of both dwords. -/
def execClkPtp0Read (s : State) : Result := .next (s.barRead .bar0 (8 * clkPtp0) true)

/-! ### Writes -/

/-- A discarded host write (R317). -/
def State.badWrite (s : State) : State := s.count hstStat 19 0 1

/-- A write that is discarded on arrival (R317), or acts. Partial byte enables are reported as an advisory Unsupported Request. -/
def State.whenGood (s : State) (q : Quality) (f : State → State) : State :=
  match q with
  | .good => f s
  | .poisoned => s.badWrite
  | .partialBytes => ({ s.badWrite with host := { s.badWrite.host with aerUr := true } }).emit .unsupported

/-- A vector is unmasked: a pending message is sent (R330). -/
def State.unmaskVector (s : State) (v : Nat) : State :=
  if bit s.host.pba v && !s.host.d3 then
    ({ s with host := { s.host with pba := putBit s.host.pba v false } }).sendMsi v
  else s

/-- One dword of the MSI-X table is written; clearing a mask bit unmasks the vector. -/
def State.writeMsix (s : State) (d : Nat) (v : BitVec 32) : State :=
  let was := bit (s.host.msix.get d 0) 0
  let s := { s with host := { s.host with msix := s.host.msix.set d 0 v } }
  if d % 4 = 3 ∧ was ∧ !bit v 0 then s.unmaskVector (d / 4) else s

/-- A write to offset 4 (R319, R328): the write latch; a dword of the MSI-X table is written itself. -/
def State.highWrite (s : State) (b : Bar) (i : Nat) (v : BitVec 32) : State :=
  let latch : State :=
    { s with host := { s.host with wrLatch := (b, i, BitVec.ofNat 8 (bits v 7 0)) :: otherBars b s.host.wrLatch } }
  match b with
  | .bar0 => if layout i = [] then s else latch
  | .bar2 => latch
  | .bar4 =>
    match slot4 i with
    | .msix j => s.writeMsix (2 * j + 1) v
    | .pba => s
    | .doorbell _ => s
    | .none => s
    | _ => latch

/-- BAR_HIGH_WRITE (R319): the offset is that of the word's upper dword. -/
def execBarHighWrite (b : Bar) (off : Nat) (v : BitVec 32) (q : Quality) (s : State) : Result :=
  .next (if off / 8 < barWords b then s.viaBar b fun s => s.whenGood q fun s => s.highWrite b (off / 8) v else s)

/-- The word that a write stores, and the latch after it (R319). -/
def State.writeValue (s : State) (b : Bar) (i : Nat) (v : HostVal) : State × Word :=
  match v with
  | .whole w => (s, word (bits w 39 0))
  | .low w =>
    let w' := match latched b i s.host.wrLatch with
      | some h => word (h.toNat * 2 ^ 32 + w.toNat)
      | none => w.signExtend 40
    ({ s with host := { s.host with wrLatch := otherBars b s.host.wrLatch } }, w')

/-- A word of the commons lies in one of the four windows (R320). -/
def State.inWindow (s : State) (a : Nat) : Bool :=
  (range 0 4).any fun n =>
    let base := 0x1000000 + 8 * s.fld (hstBwin n) 17 0
    decide (base ≤ a) && decide (a < base + 8 * s.fld (hstBwin n) 35 18)

/-- The frame at whose boundary a host write accepted now is performed in a pair (R281): the first boundary at least
EVDLY µs away. -/
def State.heldFrame (s : State) : Nat :=
  let d := 1000 * s.fld mirCtl 23 16
  if !s.frm.started then
    if s.clk.tb.toNat + d ≤ s.nextBoundary then 0 else 1
  else s.frame + max 1 (ceilDiv (s.sinceBoundary + d) s.periodNs)

/-- A host write is held and forwarded (R281): `addr` is a commons word or a register's word index. -/
def State.holdWrite (s : State) (addr : Nat) (v : Word) : State :=
  let f := s.heldFrame
  (s.onPair fun p => { p with held := p.held ++ [(⟨addr, v, f⟩ : HeldWrite)] }).send (.hostw [(addr, v)]) (BitVec.ofNat 8 f)

/-- A host action that a SECONDARY or STANDBY device ignores (R281). -/
def State.ignored (s : State) : State := s.count mirCnt1 19 0 1

/-- The device follows a primary (R281). -/
def State.follows (s : State) : Bool := s.pair.role == .secondary || s.pair.role == .standby

/-- A commons write within the windows (R281, R320). -/
def State.commonsWrite (s : State) (a : Nat) (v : Word) : State :=
  if !s.inWindow a then s.badWrite
  else if s.sharedWord a || s.imageWord a then
    if s.follows then s.ignored else if s.pair.role == .primary then s.holdWrite a v else s.hostPoke a v
  else s.hostPoke a v

/-- BAR2_WRITE (R320). -/
def execBar2Write (off : Nat) (v : HostVal) (q : Quality) (s : State) : Result :=
  .next (if off / 8 < barWords .bar2 then
    s.viaBar .bar2 fun s => s.whenGood q fun s =>
      let x := s.writeValue .bar2 (off / 8) v
      x.1.commonsWrite (0x1000000 + off / 8) x.2
  else s)

/-- A write to a doorbell (R281, R328). -/
def State.ringDoorbell (s : State) (n : Nat) : State := if s.follows then s.ignored else s.occur (512 + n)

/-- DOORBELL (R328). -/
def execDoorbell (n : Fin 128) (s : State) : Result := .next (s.viaBar .bar4 fun s => s.ringDoorbell n)

/-- MSIX_UNMASK (R330): the mask bit of the vector's table entry is cleared. -/
def execMsixUnmask (v : Fin 64) (s : State) : Result :=
  .next (s.viaBar .bar4 fun s => s.writeMsix (4 * v.val + 3) (putBit (s.host.msix.get (4 * v.val + 3) 0) 0 false))

/-- The reset of the host interface (R316): BAR assignments, tables, causes, enables and latches; D3hot is entered, or left. A link
that is down reads SPEED 0 and WIDTH 0. -/
def State.resetHost (s : State) (k : HostReset) : State :=
  let s := (((s.setReg (hstIstat 0) 0).setReg (hstIstat 1) 0).setReg (hstIen 0) 0).setReg (hstIen 1) 0
  let s := if k = .linkDown then s.setReg hstLink 0 else s
  { s with host := { s.host with rdLatch := [], wrLatch := [], bars := [], msix := [], pba := 0, sent := 0, d3 := k == .d3hot } }

/-- HOST_INTERFACE_RESET (R316). -/
def execHostInterfaceReset (k : HostReset) (s : State) : Result := .next (if s.inReset then s else s.resetHost k)

end Sys2Proof.Machine
end

