-- ==== Sys2Proof/Machine/Clocks.lean ====
section
/-!
DEFINITION. PTP commands, the pulses per second and CLKOUT (R356 to R361).
-/
namespace Sys2Proof.Machine

/-! ### PTP time (R357) -/

/-- The command that a write of CLK_PTPCMD performs in the next count of the time base: LOAD takes PTP time from CLK_PTPLD0 and
CLK_PTPLD1, STEP the signed ns of CLK_PTPSTEP, as they stand when the write is performed (log entry 49). -/
def State.ptpCmd (s : State) (load step : Bool) : State :=
  let hi := s.reg clkPtpld0
  let time : BitVec 48 × Nat := (BitVec.ofNat 48 (bits hi 37 30 * 2 ^ 40 + (s.reg clkPtpld1).toNat), bits hi 29 0)
  let x : PtpCmd :=
    ⟨s.clk.tb.toNat + 1, if load then some time else none, if step then (s.reg clkPtpstep).toInt else 0⟩
  s.onClk fun k => { k with ptpCmds := k.ptpCmds ++ [x] }

/-- PTP_LOAD (R357). -/
def execPtpLoad (s : State) : Result := .next (s.viaBar .bar0 fun s => s.ptpCmd true false)

/-- PTP_STEP (R357). -/
def execPtpStep (s : State) : Result := .next (s.viaBar .bar0 fun s => s.ptpCmd false true)

/-! ### Pulses (R358, R359) -/

/-- PTP_SECOND_WRAP (R358): time runs to the count in which the nanoseconds wrap. -/
def execPtpSecondWrap (s : State) : Result := .next (if s.clk.running then s.advance (s.untilWrap + s.clk.owed) else s)

/-- Time runs to the count in which PPS_OUT falls. -/
def State.ppsFall (s : State) : State :=
  match s.clk.pps with
  | none => s
  | some t => (s.reach t).pulseEnd

/-- PPS_OUT_FALL (R358). -/
def execPpsOutFall (s : State) : Result := .next (if s.clk.running then s.ppsFall else s)

/-- A capture (R359): PTP time and the time base, VALID, and OVR where VALID was 1. -/
def State.capture (s : State) : State :=
  if !s.flag clkPpsctl 9 || !s.clk.running then s
  else
    let was := s.flag clkPpsctl 11
    let s := ((s.setReg clkPpscap0 s.clk.ptpHi).setReg clkPpscap1 s.clk.ptpLo).setReg clkPpstb0 (word (bits s.clk.tb 39 0))
    let s := (s.setReg clkPpstb1 (word (bits s.clk.tb 63 40))).setFlag clkPpsctl 11 true
    if was then s.setFlag clkPpsctl 10 true else s

/-- PPS_IN_CAPTURE (R359). -/
def execPpsInCapture (s : State) : Result := .next s.capture

/-! ### CLKOUT (R360, R361) -/

/-- A source of CLKOUT is ready (R360). -/
def State.outReady (s : State) (src : Nat) : Bool :=
  match src with
  | 0 => true
  | 2 => s.flag clkStat 1
  | 3 => s.flag clkStat 2
  | 5 => true
  | _ => s.flag clkStat 0

/-- ARG lies in the range of its source (R360). -/
def argOk (src arg : Nat) : Bool :=
  match src with
  | 5 => decide (arg ≤ 135)
  | 7 => decide (arg ≤ 127)
  | _ => true

/-- The RW bits of CLK_OUTSEL. -/
def outMask : Word := fieldMask (layout clkOutsel)

/-- A write of CLK_OUTSEL (R361): refused with OUTREF, kept until the end of a switch, or a switch begins. -/
def State.selectOut (s : State) (v : Word) : State :=
  let v := v &&& outMask
  if !s.outReady (bits v 2 0) || !argOk (bits v 2 0) (bits v 21 14) then s.setFlag clkStat 7 true
  else if s.clk.switching then s.onClk fun k => { k with nextSel := some v }
  else (s.setReg clkOutsel v).onClk fun k => { k with switching := true }

/-- CLK_OUTSEL_WRITE (R361). -/
def execClkOutselWrite (v : Word) (s : State) : Result := .next (s.viaBar .bar0 fun s => s.selectOut v)

/-- The switch ends (R361); a write accepted during it is then applied, and switches in its turn. -/
def State.switchDone (s : State) : State :=
  match s.clk.nextSel with
  | none => s.onClk fun k => { k with switching := false }
  | some v => (s.setReg clkOutsel v).onClk fun k => { k with switching := true, nextSel := none }

/-- CLKOUT_SWITCH_COMPLETE (R361). -/
def execClkoutSwitchComplete (s : State) : Result := .next (if s.clk.switching then s.switchDone else s)

/-- What CLKOUT carries (R360): a level, or a source divided by 2(DIV + 1), which for a sentinel is its ring lap. -/
inductive ClkOut where
  | low | high
  | divided (src arg by_ : Nat)
  deriving DecidableEq, Repr

/-- A level as CLKOUT carries it. -/
def ClkOut.level (v : Bool) : ClkOut := if v then .high else .low

/-- CLKOUT as it now is (R360, R361): low while its source is not ready or a switch runs; sources 6 and 7 are low until frame 0
begins. -/
def State.clkOut (s : State) : ClkOut :=
  let v := s.reg clkOutsel
  let src := bits v 2 0
  let arg := bits v 21 14
  let n := bits v 13 4 + 1
  if src = 0 ∨ s.clk.switching ∨ !s.outReady src then .low
  else if src = 6 then .level (s.frm.started && decide (s.sinceBoundary < 8 * n))
  else if src = 7 then .level (s.frm.started && (s.core arg).moved)
  else .divided src arg (2 * n)

end Sys2Proof.Machine
end

