-- ==== Sys2Proof/Machine/Swap.lean ====
section
/-!
DEFINITION. The swap, mirror and snapshot commands: ARM, CANCEL, COPY, SWAP_CHECK_COMPLETE, COPY_COMPLETE, MIR_DROP,
MIR_HANDOVER, MIR_JOIN, SNAPSHOT_BUILD, SMBUS_SNAPSHOT, SMBUS_IDENTITY (R263 to R266, R282, R291, R297, R331 to R333).
-/
namespace Sys2Proof.Machine

/-! ### The swap -/

/-- One of some bits of CFG_SWSTAT is 1. -/
def State.swapAny (s : State) (l : List Nat) : Bool := l.any fun b => s.flag cfgSwstat b

/-- The device is a primary with a partner present (R282). -/
def State.hasPartner (s : State) : Bool := s.pair.role == .primary && s.pair.partner

/-- ARM (R263, R264, R281, R282). -/
def State.armSwap (s : State) : State :=
  let target := s.fld cfgSwapf 39 0
  if s.follows then s.ignored
  else if target ≤ s.frame then s.refuseSwap 1
  else if s.swapAny [5, 4, 6, 7] then s.refuseSwap 4
  else
    let s := s.setFlag cfgSwstat 5 true
    if s.hasPartner then
      (s.onPair fun p => { p with swapAck := none }).send (.swap target (s.setCrc s.shadow)) s.frameByte
    else s

/-- ARM (R263). -/
def execArm (s : State) : Result := .next (s.viaBar .bar0 fun s => s.armSwap)

/-- CANCEL (R264, R265). -/
def State.cancelSwap (s : State) : State :=
  if s.swapAny [5, 4] then
    (((s.setFlag cfgSwstat 5 false).setFlag cfgSwstat 4 false).setFlag cfgSwstat 3 true).cause 24
  else s.refuseSwap 5

/-- CANCEL (R265). -/
def execCancel (s : State) : Result := .next (s.viaBar .bar0 fun s => s.cancelSwap)

/-- COPY (R264, R266). -/
def State.startCopy (s : State) : State := if s.swapAny [5, 4, 6] then s.refuseSwap 5 else s.setFlag cfgSwstat 7 true

/-- COPY (R266). -/
def execCopy (s : State) : Result := .next (s.viaBar .bar0 fun s => s.startCopy)

/-- The check passes (R263, R282): the exchange tables, and with a partner present a SWAPACK that reports an equal
CRC-64. -/
def State.swapOk (s : State) : Bool := s.tableOk s.shadow && (!s.hasPartner || s.pair.swapAck == some true)

/-- The check ends (R263, R264). -/
def State.checkDone (s : State) : State :=
  if !s.flag cfgSwstat 5 then s
  else
    let s' := s.setFlag cfgSwstat 5 false
    if s.swapOk then s'.setFlag cfgSwstat 4 true else s'.refuseSwap 2

/-- SWAP_CHECK_COMPLETE (R263). -/
def execSwapCheckComplete (s : State) : Result := .next s.checkDone

/-- The copy ends (R266). -/
def State.copyDone (s : State) : State :=
  if s.flag cfgSwstat 7 then (s.setShadow s.active).setFlag cfgSwstat 7 false else s

/-- COPY_COMPLETE (R266). -/
def execCopyComplete (s : State) : Result := .next s.copyDone

/-! ### Mirror commands -/

/-- MIR_CMD.DROP (R299): a primary sends YIELD first. With PAIR = 0 it has no effect (R268). -/
def State.hostDrop (s : State) : State :=
  if !s.pairMode || s.pair.role == .dropped then s
  else
    let s := s.onPair fun p => { p with health := putBit p.health 5 true }
    let s := if s.pair.role = .primary then s.send .yield s.frameByte else s
    s.drop 10

/-- MIR_DROP (R299). -/
def execMirDrop (s : State) : Result := .next (s.viaBar .bar0 fun s => s.hostDrop)

/-- MIR_CMD.HANDOVER (R297): sent to the partner, or refused with reason 9 and event 906. -/
def State.askHandover (s : State) : State :=
  let h := s.fld mirHandf 39 0
  if !s.pairMode then s
  else if !s.hasPartner || decide (h < s.frame + 2) then (s.setWhy 9).occur 906
  else
    (s.onPair fun p => { p with handFrame := some h, health := putBit p.health 5 true }).send (.handover h) s.frameByte

/-- MIR_HANDOVER (R297). -/
def execMirHandover (s : State) : Result := .next (s.viaBar .bar0 fun s => s.askHandover)

/-- MIR_CMD.JOIN (R291): a DROPPED device asks to join once its link is UP; the count of drops starts again (DEDUCED, log
entry 31). -/
def State.hostJoin (s : State) : State :=
  if s.pair.role = .dropped then (s.onPair fun p => { p with wantJoin := true, drops := [], completed := [] }).rejoin else s

/-- MIR_JOIN (R291). -/
def execMirJoin (s : State) : Result := .next (s.viaBar .bar0 fun s => s.hostJoin)

/-! ### The health snapshot -/

/-- Tenants for which a test holds. -/
def countTenants (p : Nat → Bool) : Nat := ((range 0 1024).filter p).length

/-- The 28 bytes of a snapshot with sequence number `seq` (R332). -/
def State.snapBytes (s : State) (seq : Nat) : List Byte :=
  let b (v : Bool) (i : Nat) : Nat := v.toNat * 2 ^ i
  let f (i : Nat) : Bool := s.flag ageStat i
  let w (i : Nat) : Bool := s.flag cfgSwstat i
  leBytes 2 seq ++ leBytes 4 (if s.frm.started then s.frame else 0xFFFFFFFF) ++
    leBytes 1 (s.fld cfgStat 31 28 + b s.sealed 4 + b (s.flag cfgStat 24) 5 + b s.faultN 6 + b (s.flag cfgStat 23) 7) ++
    leBytes 1 (s.pair.role.code + 16 * s.pair.link.code) ++
    leBytes 1 (s.fld mirVerd 39 37 + b (s.flag mirVerd 32) 3) ++ leBytes 2 (s.fld agePlan 39 28) ++
    leBytes 2 (s.fld agePlan 27 18) ++ leBytes 2 (s.fld ageHead 19 10) ++
    leBytes 1 (b (f 19) 0 + b (f 18) 1 + b (f 15) 2 + b (f 14) 3 + b (f 13) 4 + b (f 12) 5) ++
    leBytes 2 (s.fld ageIout 15 0) ++ leBytes 2 (s.fld devTemp 15 0) ++
    leBytes 2 (countTenants fun t => s.fld (frmTstat t) 39 37 == 4) ++
    leBytes 2 (countTenants fun t => s.flag (frmTstat t) 34) ++ leBytes 2 (s.fld errSum 15 0) ++
    leBytes 1 (b (w 4) 0 + b (w 6) 1 + b (s.flag cfgStat 26) 2 + b (w 1) 3 + b (w 2) 4) ++ leBytes 1 0

/-- A build (R332): SEQ is counted, and the snapshot carries the new SEQ, which MGT_STAT names as the latest (DEDUCED, log
entry 32). None before the time base starts (R364). -/
def State.buildSnap (s : State) : State :=
  if !s.clk.running then s
  else
    let s := s.count mgtStat 31 16 1
    { s with snap := s.snapBytes (s.fld mgtStat 31 16) }

/-- SNAPSHOT_BUILD (R332). -/
def execSnapshotBuild (s : State) : Result := .next s.buildSnap

/-- The 16 bytes of IDENTITY (R331). -/
def State.identity (s : State) : List Byte :=
  leBytes 4 (s.fld devId 31 0) ++ leBytes 4 (s.fld cfgImgid 31 0) ++ leBytes 1 (s.fld cfgImgid 39 32) ++
    leBytes 1 s.pair.ownId.toNat ++ leBytes 5 (s.active.get 0 0).toNat ++ leBytes 1 0

/-- One byte through the CRC-8 of the SMBus packet error code, x^8 + x^2 + x + 1 (PRESUMED, log entry 89). -/
def pecByte (c : Byte) (b : Byte) : Byte :=
  (range 0 8).foldl (fun (x : Byte) _ => if x.msb then (x <<< 1) ^^^ 0x07 else x <<< 1) (c ^^^ b)

/-- The packet error code of a Block Read: the address with the write bit, the command code, the address with the read bit, the
count, the bytes. -/
def blockPec (addr code : Nat) (bytes : List Byte) : Byte :=
  (leBytes 1 (2 * addr) ++ leBytes 1 code ++ leBytes 1 (2 * addr + 1) ++ leBytes 1 bytes.length ++ bytes).foldl pecByte 0

/-- The block that a command code reads (R331): 0x01 SNAPSHOT, 0x02 IDENTITY. -/
def State.blockOf (s : State) (code : Nat) : Option (List Byte) :=
  match code with
  | 1 => some s.snap
  | 2 => some s.identity
  | _ => none

/-- A Block Read at an address (R331): only that of MGT_CTL.ADDR is answered. With PECREQ = 1, a command byte without valid PEC is
NACKed and counted in PECERR; an unknown command code is NACKed. The block carries the PEC that the part supplies when the
controller clocks a byte beyond it. -/
def State.blockRead (s : State) (addr code : Nat) (pec : Pec) : State :=
  if s.inReset || addr != s.fld mgtCtl 6 0 then s
  else if s.flag mgtCtl 7 && pec != .correct then (s.count mgtStat 15 8 1).emit .smbusNack
  else
    match s.blockOf code with
    | none => s.emit .smbusNack
    | some bytes => (s.count mgtStat 7 0 1).emit (.block bytes (blockPec addr code bytes))

/-- SMBUS_SNAPSHOT (R332): at the part's address. -/
def execSmbusSnapshot (pec : Pec) (s : State) : Result := .next (s.blockRead (s.fld mgtCtl 6 0) 1 pec)

/-- SMBUS_IDENTITY (R331): at the part's address. -/
def execSmbusIdentity (pec : Pec) (s : State) : Result := .next (s.blockRead (s.fld mgtCtl 6 0) 2 pec)

end Sys2Proof.Machine
end

