-- ==== Sys2Proof/Machine/Commands.lean ====
section
/-!
DEFINITION. The command slots: NOP, TRESET, QFLUSH, ABORT, FLREAD, FLERASE, FLPROG, SELFTEST, SNAPSHOT and
COMMAND_COMPLETION (R321 to R327, R378).
-/
namespace Sys2Proof.Machine

/-! ### Acceptance -/

/-- ARG word `n` of slot `k` (R321). -/
def State.arg (s : State) (k n : Nat) : Word := s.host.bar4.get (512 * k + 2 + n) 0

/-- A rejected slot write (R321, R322, R327). -/
def State.reject (s : State) : State := s.count hstStat 39 20 1

/-- The words of ARG and DATA as the part reads them at acceptance (R322). -/
def State.acceptedCmd (s : State) (k op : Nat) (tag : Byte) (irq : Bool) : Cmd :=
  { st := .queued, op := op, tag := tag, irq := irq, fail := 0, prog := 0,
    args := (range 0 14).map (s.arg k), data := (range 0 496).map fun n => s.host.bar4.get (512 * k + 16 + n) 0, abort := false }

/-- A CMD write is accepted unless the slot is busy (R322); then the command runs. -/
def State.accepting (s : State) (k op : Nat) (tag : Byte) (irq : Bool) (run : State → State) : State :=
  s.viaBar .bar4 fun s => if (s.cmd k).busy then s.reject else run (s.setCmd k (s.acceptedCmd k op tag irq))

/-- The command fails (R321 FAIL). -/
def State.failCmd (s : State) (k code : Nat) : State := s.endCmd k .failed code 0

/-- The command runs (R324). -/
def State.startCmd (s : State) (k : Nat) : State := s.setCmd k { s.cmd k with st := .running }

/-- The accepted ARG word. -/
def Cmd.arg (c : Cmd) (n : Nat) : Nat := (c.args.getD n 0).toNat

/-! ### Tenant resets and queue flushes (R281, R325, R326) -/

/-- The first frame whose boundary follows now (R325). -/
def State.nextFrame (s : State) : Nat := if s.frm.started then s.frame + 1 else 0

/-- TRESET of tenant `t` from slot `k` (R234, R281, R325): a primary forwards it, and both devices perform it in the next
frame. -/
def State.treset (s : State) (k t : Nat) : State :=
  if s.follows then (s.ignored).failCmd k 6
  else if !s.scheduled t then s.failCmd k 3
  else
    let s := s.startCmd k
    if s.pair.role = .primary then
      (s.requestReset t (some k) s.nextFrame).send (.hostw [(hostReset, word t)]) (BitVec.ofNat 8 s.nextFrame)
    else s.requestReset t (some k) s.frame

/-- QFLUSH of the queue at `h` from slot `k` (R325, R326). -/
def State.qflush (s : State) (k h : Nat) : State :=
  if s.follows then (s.ignored).failCmd k 6
  else if !headerOk h then s.failCmd k 2
  else
    let s := s.startCmd k
    let s := { s with frm := { s.frm with flushes := s.frm.flushes ++ [⟨h, s.nextFrame, some k⟩] } }
    if s.pair.role = .primary then s.send (.hostw [(hostFlush, word h)]) (BitVec.ofNat 8 s.nextFrame) else s

/-! ### Flash commands (R239, R242, R324, R325) -/

/-- The flash device's size in bytes, from its SFDP tables (R240). -/
def State.flashSize (s : State) : Nat :=
  match s.ldr.sfdp with
  | some t => t.densityMbit * 2 ^ 17
  | none => 0

/-- A range of bytes touches the bank that CFG_STAT.BANK names, while the part is sealed (R242, R325). -/
def State.protectedRange (s : State) (a n : Nat) : Bool :=
  let half := s.flashSize / 2
  let lo := if s.flag cfgStat 25 then half else 0
  s.sealed && decide (0 < n) && decide (a < lo + half) && decide (lo < a + n)

/-- The erase and the page size of the SFDP tables. -/
def State.eraseSize (s : State) : Nat := (s.ldr.sfdp.map (·.eraseSize)).getD 0
def State.pageSize (s : State) : Nat := (s.ldr.sfdp.map (·.pageSize)).getD 0

/-- The FAIL code of a flash command on acceptance (R325), 0 where it may run. -/
def State.flashFail (s : State) (op a n : Nat) : Nat :=
  if s.fld cfgStat 31 28 ≤ 6 ∨ s.ldr.sfdp.isNone then 5
  else if s.flashSize < a + n then 2
  else if op = 0x10 then if 1 ≤ n ∧ n ≤ 1984 then 0 else 2
  else if op = 0x11 then
    if a % s.eraseSize ≠ 0 ∨ n % s.eraseSize ≠ 0 then 2 else if s.protectedRange a n then 4 else 0
  else
    if a % s.pageSize ≠ 0 ∨ n = 0 ∨ 1984 < n then 2 else if s.protectedRange a n then 4 else 0

/-- A flash command waits its turn (R324). -/
def State.flashCmd (s : State) (k : Nat) : State :=
  let c := s.cmd k
  let code := s.flashFail c.op (c.arg 0) (c.arg 1)
  if code ≠ 0 then s.failCmd k code
  else
    let free := s.host.flashQ.isEmpty
    let s := { s with host := { s.host with flashQ := s.host.flashQ ++ [k] } }
    if free then s.startCmd k else s

/-- Byte `a` of the flash; an erased byte reads 0xFF (log entry 5). -/
def State.flashByte (s : State) (a : Nat) : Byte := s.flash.get a 0xFF

/-- Bytes written to the flash. -/
def State.flashWrite (s : State) (a : Nat) : List Byte → State
  | [] => s
  | b :: bs => State.flashWrite { s with flash := s.flash.set a 0xFF b } (a + 1) bs

/-- The words of `n` bytes from address `a`, four per word (R325). -/
def State.flashWords (s : State) (a n : Nat) : List Word := packBytes ((range a n).map s.flashByte) (n / 4 + 1)

/-- The bytes of the DATA words in the layout of FLREAD (R325). -/
def dataBytes (ws : List Word) (n : Nat) : List Byte := (ws.flatMap fun w => leBytes 4 (bits w 31 0)).take n

/-- What a flash command has done after `n` bytes of its range. -/
def State.flashEffect (s : State) (k : Nat) (c : Cmd) (n : Nat) : State :=
  let a := c.arg 0
  if c.op = 0x10 then s.setDatas k 0 (s.flashWords a n)
  else if c.op = 0x11 then s.flashWrite a (List.replicate n 0xFF)
  else s.flashWrite a ((dataBytes c.data (c.arg 1)).take n)

/-- What the range of an erase or a program holds after an error of the device: free bytes (log entry 4). -/
def State.flashBroken (s : State) (c : Cmd) : State :=
  if c.op = 0x10 then s
  else
    let n := c.arg 1
    let bs : List Byte := (range 0 n).map fun i => BitVec.ofNat 8 (Config.freeNat (s.free + i))
    { (s.flashWrite (c.arg 0) bs) with free := s.free + n }

/-- The words of DATA that hold results after `n` bytes (R323). -/
def flashProg (c : Cmd) (n : Nat) : Nat := if c.op = 0x10 then ceilDiv n 4 else 0

/-- The bytes of a word, a page or an erase block, between which a command is aborted (R325). -/
def State.flashUnit (s : State) (c : Cmd) : Nat :=
  if c.op = 0x10 then 4 else if c.op = 0x11 then s.eraseSize else s.pageSize

/-- The next flash command begins (R324). -/
def State.nextFlash (s : State) (k : Nat) : State :=
  let q := s.host.flashQ.filter (· ≠ k)
  let s := { s with host := { s.host with flashQ := q } }
  match q with
  | j :: _ => if (s.cmd j).st = .queued then s.startCmd j else s
  | [] => s

/-- A running flash command ends (R323, R325, R327). -/
def State.flashEnd (s : State) (k : Nat) (e : CmdEnd) : State :=
  let c := s.cmd k
  let all := c.arg 1
  match e with
  | .finished => (((s.flashEffect k c all).endCmd k .done 0 (flashProg c all))).nextFlash k
  | .deviceError => ((s.flashBroken c).failCmd k 7).nextFlash k
  | .aborted units =>
    if !c.abort then s
    else
      let n := min (units * s.flashUnit c) all
      ((s.flashEffect k c n).endCmd k .aborted 0 (flashProg c n)).nextFlash k

/-- COMMAND_COMPLETION (R323): of the flash command that runs. -/
def execCommandCompletion (k : SlotId) (e : CmdEnd) (s : State) : Result :=
  .next (if (s.cmd k).st = .running ∧ s.host.flashQ.head? = some k.val then s.flashEnd k e else s)

/-! ### Self-tests (R378) -/

/-- The host requests that wait on a core. -/
def State.hostTests (s : State) (c : Nat) : Nat := ((s.core c).tests).length

/-- SELFTEST from slot `k` (R378): ARG0[6:0] is the core, ARG0[10:8] the test. -/
def State.selfTest (s : State) (k : Nat) : State :=
  let a := (s.cmd k).args.getD 0 0
  let c := bits a 6 0
  let code := bits a 10 8
  if code = 0 ∨ 4 < code ∨ s.fld (frmSlotC c 8) 31 0 < testSteps code ∨ 4 ≤ s.hostTests c then s.failCmd k 2
  else (s.startCmd k).onCore c fun q => { q with tests := q.tests ++ [⟨code, .host k⟩] }

/-- The core's test of slot `k` has not started. -/
def waits (k : Nat) (q : Core) : Bool :=
  q.tests.any (fun t => t.src == .host k) && !q.running.any (fun t => t.src == .host k)

/-- A SELFTEST that has not started is withdrawn (R325, R327). -/
def State.withdrawTest (s : State) (k : Nat) : State :=
  let c := bits ((s.cmd k).args.getD 0 0) 6 0
  if waits k (s.core c) then
    (s.onCore c fun q => { q with tests := q.tests.filter fun t => t.src != .host k }).endCmd k .aborted 0 0
  else s

/-! ### ABORT (R327) -/

/-- ABORT on slot `k`. -/
def State.abortCmd (s : State) (k : Nat) : State :=
  let c := s.cmd k
  match c.st with
  | .queued => (s.endCmd k .aborted 0 0).nextFlash k
  | .running =>
    if c.op = 0x20 then s.withdrawTest k
    else if c.op = 0x10 ∨ c.op = 0x11 ∨ c.op = 0x12 then s.setCmd k { c with abort := true }
    else s
  | _ => s.reject

/-! ### The commands -/

/-- The result words of SNAPSHOT (R325). -/
def State.copySnap (s : State) (k : Nat) : State := (s.setDatas k 0 (packBytes s.snap 8)).endCmd k .done 0 7

/-- An accepted command runs by its OP (R325); an unknown OP fails with code 1. -/
def State.runCmd (s : State) (k : Nat) : State :=
  let c := s.cmd k
  match c.op with
  | 0x01 => s.endCmd k .done 0 0
  | 0x02 => s.treset k (c.arg 0 % 1024)
  | 0x03 => s.qflush k (c.arg 0 % 2 ^ 28)
  | 0x10 => s.flashCmd k
  | 0x11 => s.flashCmd k
  | 0x12 => s.flashCmd k
  | 0x20 => s.selfTest k
  | 0x21 => s.copySnap k
  | _ => s.failCmd k 1

/-- A write of CMD (R322, R327): ABORT acts on the slot, every other OP is accepted or rejected. -/
def State.writeCmd (s : State) (k op : Nat) (tag : Byte) (irq : Bool) : State :=
  if op = 0x0F then s.viaBar .bar4 fun s => s.abortCmd k
  else s.accepting k op tag irq fun s => s.runCmd k

/-- NOP (R325). -/
def execNop (k : SlotId) (tag : Byte) (irq : Bool) (s : State) : Result := .next (s.writeCmd k 0x01 tag irq)

/-- TRESET (R325). -/
def execTreset (k : SlotId) (tag : Byte) (irq : Bool) (s : State) : Result := .next (s.writeCmd k 0x02 tag irq)

/-- QFLUSH (R325, R326). -/
def execQflush (k : SlotId) (tag : Byte) (irq : Bool) (s : State) : Result := .next (s.writeCmd k 0x03 tag irq)

/-- ABORT (R327). -/
def execAbort (k : SlotId) (s : State) : Result := .next (s.writeCmd k 0x0F 0 false)

/-- FLREAD (R325). -/
def execFlread (k : SlotId) (tag : Byte) (irq : Bool) (s : State) : Result := .next (s.writeCmd k 0x10 tag irq)

/-- FLERASE (R325). -/
def execFlerase (k : SlotId) (tag : Byte) (irq : Bool) (s : State) : Result := .next (s.writeCmd k 0x11 tag irq)

/-- FLPROG (R325). -/
def execFlprog (k : SlotId) (tag : Byte) (irq : Bool) (s : State) : Result := .next (s.writeCmd k 0x12 tag irq)

/-- SELFTEST (R378). -/
def execSelftest (k : SlotId) (tag : Byte) (irq : Bool) (s : State) : Result := .next (s.writeCmd k 0x20 tag irq)

/-- SNAPSHOT (R325). -/
def execSnapshot (k : SlotId) (tag : Byte) (irq : Bool) (s : State) : Result := .next (s.writeCmd k 0x21 tag irq)

end Sys2Proof.Machine
end

