-- ==== Sys2Proof/Machine/Completions.lean ====
section
/-!
DEFINITION. The commands that complete what core words began: units, the divide and DSU stalls, gather elements, the
store buffer, and the ends of holds.
-/
namespace Sys2Proof.Machine

/-- ICACHE_REFILL (R158): the line that holds fetch arrives. -/
def execIcacheRefill (x : CoreWait) (s : State) : Result := .next (refill x.core x.wait s)

/-- UNIT_COMPLETION (R34): the oldest operation of a unit completes. -/
def execUnitCompletion (x : CoreWait) (u : FU) (s : State) : Result := .next (completeUnit x.core u x.wait s)

/-- DIVIDE_COMPLETION (R81): a divide's stall ends and its result is written. -/
def execDivideCompletion (c : CoreId) (s : State) : Result := .next (completeDivide c s)

/-- DSU_COMPLETION (R103): a DSU operation ends and issue resumes. -/
def execDsuCompletion (x : CoreCuts) (s : State) : Result := completeDsu x.core x.wait x.cuts s

/-- DSU_MICROSTORE_PARITY (R115): a micro-word fetch meets a parity error. -/
def execDsuMicrostoreParity (x : CoreHeld) (s : State) : Result := .next (microstoreParity x.core x.held s)

/-- GTU_ELEMENT_COMPLETION (R172): the next gather element arrives. -/
def execGtuElementCompletion (x : CoreWait) (s : State) : Result := gatherElement x.core x.wait s

/-- STORE_RETIREMENT (R124): the head of the store buffer retires. -/
def execStoreRetirement (c : CoreId) (s : State) : Result := .next (retireStore c s)

/-- STORE_PERFORMED (R124): a retired store reaches its target. -/
def execStorePerformed (x : CoreWait) (k : Nat) (s : State) : Result := .next (performStore x.core k x.wait s)

/-- PARTIAL_OVERLAP_STALL_END (R125): the stall of a load behind a partial store ends. -/
def execPartialOverlapStallEnd (c : CoreId) (s : State) : Result := .next (endOverlap c s)

/-- FENCE_RELEASE (R127): every store a FENCE waits for is performed. -/
def execFenceRelease (c : CoreId) (s : State) : Result := .next (releaseFence c s)

end Sys2Proof.Machine
end

