-- ==== Sys2Proof/Machine/Ctl.lean ====
section
/-!
DEFINITION. Words that trigger the CTL (R127, R137 to R140, R153, R215, R216).
-/
namespace Sys2Proof.Machine

/-- JMP (R137): a word that triggers a relative jump. -/
def execJmp (c : CoreId) (s : State) : Result := issue (.ctl .jmp) c s

/-- CALL (R137): a word that triggers a relative call. -/
def execCall (c : CoreId) (s : State) : Result := issue (.ctl .call) c s

/-- JMPA (R137): a word that triggers an absolute jump. -/
def execJmpa (c : CoreId) (s : State) : Result := issue (.ctl .jmpa) c s

/-- CALLA (R137): a word that triggers an absolute call. -/
def execCalla (c : CoreId) (s : State) : Result := issue (.ctl .calla) c s

/-- RET (R137): a word that triggers a return. -/
def execRet (c : CoreId) (s : State) : Result := issue (.ctl .ret) c s

/-- FENCE (R137): a word that triggers the wait for the store buffer (R127). -/
def execFence (c : CoreId) (s : State) : Result := issue (.ctl .fence) c s

/-- IFLUSH (R137): a word that triggers the flush of the instruction cache (R153). -/
def execIflush (c : CoreId) (s : State) : Result := issue (.ctl .iflush) c s

/-- ERET (R137): a word that triggers the return from an event or trap (R216). -/
def execEret (c : CoreId) (s : State) : Result := issue (.ctl .eret) c s

/-- SVC (R137): a word that triggers a service call or an inter-core signal (R215). -/
def execSvc (c : CoreId) (s : State) : Result := issue (.ctl .svc) c s

end Sys2Proof.Machine
end

