-- ==== Sys2Proof/Machine/Dsu.lean ====
section
/-!
DEFINITION. Words that trigger the DSU (R101 to R111): decimal strings and blocks.
-/
namespace Sys2Proof.Machine

/-- DMOVS (R103): a word that triggers DMOVS. -/
def execDmovs (c : CoreId) (s : State) : Result := issue (.dsu .dmovs) c s

/-- DADDS (R103): a word that triggers DADDS. -/
def execDadds (c : CoreId) (s : State) : Result := issue (.dsu .dadds) c s

/-- DSUBS (R103): a word that triggers DSUBS. -/
def execDsubs (c : CoreId) (s : State) : Result := issue (.dsu .dsubs) c s

/-- DCMPS (R103): a word that triggers DCMPS. -/
def execDcmps (c : CoreId) (s : State) : Result := issue (.dsu .dcmps) c s

/-- DMULD (R103): a word that triggers DMULD. -/
def execDmuld (c : CoreId) (s : State) : Result := issue (.dsu .dmuld) c s

/-- DSHRS (R103): a word that triggers DSHRS. -/
def execDshrs (c : CoreId) (s : State) : Result := issue (.dsu .dshrs) c s

/-- DSHRT (R103): a word that triggers DSHRT. -/
def execDshrt (c : CoreId) (s : State) : Result := issue (.dsu .dshrt) c s

/-- DSGN (R103): a word that triggers DSGN. -/
def execDsgn (c : CoreId) (s : State) : Result := issue (.dsu .dsgn) c s

/-- DCVTB (R103): a word that triggers DCVTB. -/
def execDcvtb (c : CoreId) (s : State) : Result := issue (.dsu .dcvtb) c s

/-- DCVTD (R103): a word that triggers DCVTD. -/
def execDcvtd (c : CoreId) (s : State) : Result := issue (.dsu .dcvtd) c s

/-- BMOVE (R103): a word that triggers BMOVE. -/
def execBmove (c : CoreId) (s : State) : Result := issue (.dsu .bmove) c s

/-- BFILL (R103): a word that triggers BFILL. -/
def execBfill (c : CoreId) (s : State) : Result := issue (.dsu .bfill) c s

/-- BSCAN (R103): a word that triggers BSCAN. -/
def execBscan (c : CoreId) (s : State) : Result := issue (.dsu .bscan) c s

/-- BSCANN (R103): a word that triggers BSCANN. -/
def execBscann (c : CoreId) (s : State) : Result := issue (.dsu .bscann) c s

end Sys2Proof.Machine
end

