-- ==== Sys2Proof/Machine/Fxu.lean ====
section
/-!
DEFINITION. Words that trigger an FXU (R83 to R87), in every accumulator and rounding mode.
-/
namespace Sys2Proof.Machine

/-- FMAC (R85): a word that triggers FMAC on accumulator n, rounding mode m. -/
def execFmac (c : CoreId) (s : State) : Result := issue (.fxu .fmac) c s

/-- FMSU (R85): a word that triggers FMSU on accumulator n, rounding mode m. -/
def execFmsu (c : CoreId) (s : State) : Result := issue (.fxu .fmsu) c s

/-- FMPY (R85): a word that triggers FMPY on accumulator n, rounding mode m. -/
def execFmpy (c : CoreId) (s : State) : Result := issue (.fxu .fmpy) c s

/-- FADD (R85): a word that triggers FADD on accumulator n, rounding mode m. -/
def execFadd (c : CoreId) (s : State) : Result := issue (.fxu .fadd) c s

/-- FSUB (R85): a word that triggers FSUB on accumulator n, rounding mode m. -/
def execFsub (c : CoreId) (s : State) : Result := issue (.fxu .fsub) c s

/-- FSTS (R85): a word that triggers FSTS on accumulator n, rounding mode m. -/
def execFsts (c : CoreId) (s : State) : Result := issue (.fxu .fsts) c s

/-- FSTW (R85): a word that triggers FSTW on accumulator n, rounding mode m. -/
def execFstw (c : CoreId) (s : State) : Result := issue (.fxu .fstw) c s

/-- FSHR (R85): a word that triggers FSHR on accumulator n, rounding mode m. -/
def execFshr (c : CoreId) (s : State) : Result := issue (.fxu .fshr) c s

end Sys2Proof.Machine
end

