-- ==== Sys2Proof/Machine/HostWrite.lean ====
section
/-!
DEFINITION. REGISTER_WRITE: a host write to a register of BAR0 or a word of BAR4 under the access codes and the seal (R3,
R4, R54, R257, R265, R281, R308, R319, R321, R397).
-/
namespace Sys2Proof.Machine

/-- The write differs from an SL field's value (R397). -/
def slDiffers (m old v : Word) : Bool := (old ^^^ v) &&& m != 0

/-- A seal violation (R369 code 7, R397): SVIOL, one log entry of the host, event 976. -/
def State.sealCheck (s : State) (r : Nat) (v : Word) : State :=
  if s.sealed && slDiffers (accMask .sl (layout r)) (s.reg r) v then (s.count cfgStat 15 0 1).error 7 srcHost 0 r else s

/-- The RW and W1C fields of a register take a write (R3); other bits stay. -/
def State.plainWrite (s : State) (r : Nat) (v : Word) : State :=
  let rw := accMask .rw (layout r)
  let w1c := accMask .w1c (layout r)
  s.setReg r (((s.reg r &&& ~~~rw) ||| (v &&& rw)) &&& ~~~(v &&& w1c))

/-- The LV fields of a register take a write (R3, R281, R308): held to the next boundary, or in a pair held and
forwarded. A write that this device alone performs takes back the writes of the same register that are still held from a role it
had before, so that the last write accepted prevails (R7). MODE 3 of AGE_POLICY is discarded. -/
def State.lvWrite (s : State) (r : Nat) (v : Word) : State :=
  if r = agePolicy ∧ bits v 13 12 = 3 then s
  else if s.follows then s.ignored
  else if s.pair.role = .primary then s.holdWrite r v
  else
    { s with lv := s.lv ++ [(r, v)], pair := { s.pair with held := s.pair.held.filter fun w => w.addr != r } }

/-- A write to the shadow set (R261, R265, R266): ignored and counted while a swap is checked, armed or fresh; a copy that
runs ends first. -/
def State.shadowWrite (s : State) (x : Nat) (v : Word) : State :=
  if s.swapAny [5, 4, 6] then s.count cfgSwstat 31 24 1
  else
    let s := s.copyDone
    let s := { s with check := s.check.set (s.regKey (cfgShadow + x)) none none }
    s.setShadow (s.shadow.set x 0 (v &&& accMask .rw (setFields x)))

/-- The enables of causes 32n to 32n + 31 are written (R330): a cause whose bit and enable both are 1 now sends its
message. -/
def State.enableWrite (s : State) (n : Nat) (v : Word) : State :=
  let old := s.reg (hstIen n)
  let s := s.plainWrite (hstIen n) v
  (range 0 32).foldl
    (fun (s : State) i => if !bit old i && bit v i && s.flag (hstIstat n) i then s.message (32 * n + i) else s) s

/-- Causes 32n to 32n + 31 are cleared by a write (R330): a cause whose bit is cleared may send its message again. -/
def State.causeWrite (s : State) (n : Nat) (v : Word) : State :=
  let s := s.plainWrite (hstIstat n) v
  let done := BitVec.ofNat 64 (bits v 31 0 * 2 ^ (32 * n))
  { s with host := { s.host with sent := s.host.sent &&& ~~~done } }

/-- CFG_SWAPCTL: the action of each bit written as 1, ARM first (log entry 33). -/
def State.swapctlWrite (s : State) (v : Word) : State :=
  let s := if bit v 0 then s.armSwap else s
  let s := if bit v 1 then s.cancelSwap else s
  if bit v 2 then s.startCopy else s

/-- MIR_CMD: the action of each bit written as 1, JOIN first (log entry 33). -/
def State.mirCmdWrite (s : State) (v : Word) : State :=
  let s := if bit v 0 then s.hostJoin else s
  let s := if bit v 1 then s.askHandover else s
  if bit v 2 then s.hostDrop else s

/-- CLK_PTPCMD: LOAD first and STEP second (R357). -/
def State.ptpCmdWrite (s : State) (v : Word) : State :=
  if bit v 0 || bit v 1 then s.ptpCmd (bit v 0) (bit v 1) else s

/-- A host write of the word at index `r` of BAR0. -/
def State.writeReg (s : State) (r : Nat) (v : Word) : State :=
  if layout r = [] then s
  else if 0x20000 ≤ r ∧ r < 0x24000 ∧ (r - 0x20000) % 0x80 < 0x40 then s
  else if r = cfgSwapctl then s.swapctlWrite v
  else if r = mirCmd then s.mirCmdWrite v
  else if r = clkPtpcmd then s.ptpCmdWrite v
  else if r = clkOutsel then s.selectOut v
  else if r = hstIen 0 then s.enableWrite 0 v
  else if r = hstIen 1 then s.enableWrite 1 v
  else if r = hstIstat 0 then s.causeWrite 0 v
  else if r = hstIstat 1 then s.causeWrite 1 v
  else if cfgShadow ≤ r ∧ r < cfgShadow + 0x2000 then s.shadowWrite (r - cfgShadow) v
  else
    let s := (s.sealCheck r v).plainWrite r v
    if accMask .lv (layout r) = 0 then s else s.lvWrite r v

/-- A host write of an ARG or DATA word (R321): ignored and counted while the slot is busy. -/
def State.writeData (s : State) (k n : Nat) (v : Word) : State :=
  if (s.cmd k).busy then s.reject
  else { s with host := { s.host with bar4 := s.host.bar4.set (512 * k + n) 0 v } }

/-- A host write of both dwords, or of the lower one, at an 8-byte index of BAR4 (R321, R328). -/
def State.writeBar4 (s : State) (i : Nat) (v : HostVal) : State :=
  match slot4 i with
  | .cmd k =>
    let x := s.writeValue .bar4 i v
    x.1.writeCmd k (bits x.2 39 32) (BitVec.ofNat 8 (bits x.2 31 24)) (bit x.2 23)
  | .csw _ => (s.writeValue .bar4 i v).1
  | .data k n =>
    let x := s.writeValue .bar4 i v
    x.1.writeData k n x.2
  | .msix j =>
    match v with
    | .low w => s.writeMsix (2 * j) w
    | .whole w => (s.writeMsix (2 * j) (BitVec.ofNat 32 (bits w 31 0))).writeMsix (2 * j + 1) (BitVec.ofNat 32 (bits w 63 32))
  | .pba => s
  | .doorbell n => s.ringDoorbell n
  | .none => s

/-- A host write to offset 0 of a word, or of both its dwords, in BAR0, BAR2 or BAR4. -/
def State.hostWrite (s : State) (b : Bar) (i : Nat) (v : HostVal) : State :=
  match b with
  | .bar0 =>
    if layout i = [] then s
    else
      let x := s.writeValue .bar0 i v
      x.1.writeReg i x.2
  | .bar2 =>
    let x := s.writeValue .bar2 i v
    x.1.commonsWrite (0x1000000 + i) x.2
  | .bar4 => s.writeBar4 i v

/-- REGISTER_WRITE (R397). -/
def execRegisterWrite (b : Bar) (off : Nat) (v : HostVal) (q : Quality) (s : State) : Result :=
  .next (if off / 8 < barWords b then s.viaBar b fun s => s.whenGood q fun s => s.hostWrite b (off / 8) v else s)

end Sys2Proof.Machine
end

