-- ==== Sys2Proof/Machine/Ecdsa.lean ====
section
/-!
DEFINITION. ECDSA P-384 verification (R246, R249 code 8): the standard that the spec names, on natural numbers (PRESUMED, log
entry 35).
-/
namespace Sys2Proof.Machine

/-- The prime of P-384. -/
def p384 : Nat := 2 ^ 384 - 2 ^ 128 - 2 ^ 96 + 2 ^ 32 - 1

/-- The order of the base point. -/
def n384 : Nat := 0xffffffffffffffffffffffffffffffffffffffffffffffffc7634d81f4372ddf581a0db248b0a77aecec196accc52973

/-- The coefficient b; the coefficient a is −3. -/
def b384 : Nat := 0xb3312fa7e23ee7e4988e056be3f82d19181d9c6efe8141120314088f5013875ac656398d8a2ed19d2a85c8edd3ec2aef

/-- The base point. -/
def g384 : Option (Nat × Nat) :=
  some (0xaa87ca22be8b05378eb1c71ef320ad746e1d3b628ba79b9859f741e082542a385502f25dbf55296c3a545e3872760ab7,
    0x3617de4a96262c6f5d9e98bf9292dc29f8f41dbd289a147ce9da3113b5f0b8c00a60b1ce1d7e819d7a431d7c90ea0e5f)

/-- x^e modulo m, over the `n` lowest bits of e. -/
def powMod (m x e : Nat) : Nat → Nat
  | 0 => 1 % m
  | n + 1 =>
    let r := powMod m (x * x % m) (e / 2) n
    if e % 2 = 1 then r * x % m else r

/-- The inverse modulo a prime. -/
def invMod (m x : Nat) : Nat := powMod m (x % m) (m - 2) 384

/-- The point through two points with slope `l` on the curve. -/
def curveThrough (l x1 y1 x2 : Nat) : Nat × Nat :=
  let x := (l * l + 2 * p384 - x1 - x2) % p384
  (x, (l * (x1 + p384 - x) + p384 - y1) % p384)

/-- The sum of two points; none is the point at infinity. -/
def curveAdd (a b : Option (Nat × Nat)) : Option (Nat × Nat) :=
  match a, b with
  | none, q => q
  | p, none => p
  | some (x1, y1), some (x2, y2) =>
    if x1 = x2 then
      if (y1 + y2) % p384 = 0 then none
      else some (curveThrough ((3 * x1 * x1 + p384 * p384 - 3) * invMod p384 (2 * y1) % p384) x1 y1 x2)
    else some (curveThrough ((y2 + p384 - y1) * invMod p384 (x2 + p384 - x1) % p384) x1 y1 x2)

/-- k times a point, over the `n` lowest bits of k. -/
def curveMul (k : Nat) (q : Option (Nat × Nat)) : Nat → Option (Nat × Nat)
  | 0 => none
  | n + 1 =>
    let r := curveMul (k / 2) (curveAdd q q) n
    if k % 2 = 1 then curveAdd q r else r

/-- A public key is a point of the curve. -/
def onCurve (x y : Nat) : Bool :=
  decide (x < p384) && decide (y < p384) && y * y % p384 == (x * x * x + (p384 - 3) * x + b384) % p384

/-- A signature (r, s) of a digest verifies under the public key (x, y). -/
def ecdsaP384 (x y digest r s : Nat) : Bool :=
  if !onCurve x y || r == 0 || s == 0 || decide (n384 ≤ r) || decide (n384 ≤ s) then false
  else
    let w := invMod n384 s
    match curveAdd (curveMul (digest * w % n384) g384 384) (curveMul (r * w % n384) (some (x, y)) 384) with
    | none => false
    | some (v, _) => v % n384 == r

end Sys2Proof.Machine
end

