-- ==== Sys2Proof/Machine/Readable.lean ====
section
/-!
DEFINITION. The settings a rule lets the loader refuse under code 12 (R249): the cross-checks of set-up, one definition for
each rule. Each answers the first register concerned, as a word index of BAR0, or none where the rule holds. They run in
the order of R252, and the lowest register of a rule stands first (DEDUCED, log entry 34).
-/
namespace Sys2Proof.Machine

/-- A physical region (R154, R161, R250): kind 0 a scratchpad, 1 a bank group, 2 the dual-port region, 3 the single-port
region; `index` is the core, or 4 × quire + group. -/
structure Area where
  kind  : Nat
  index : Nat
  base  : Nat
  size  : Nat
  deriving DecidableEq, Repr

/-- The region of a physical address (R154). -/
def areaOf (a : Nat) : Option Area :=
  if a < 0x1000000 then some ⟨1, a / 0x20000, a / 0x20000 * 0x20000, 0x20000⟩
  else if a < 0x1010000 then some ⟨2, 0, 0x1000000, 0x10000⟩
  else if a < 0x1200000 then some ⟨3, 0, 0x1010000, 0x1F0000⟩
  else if a < 0x1300000 then
    some ⟨0, (a - 0x1200000) / 0x2000, 0x1200000 + (a - 0x1200000) / 0x2000 * 0x2000, 0x2000⟩
  else none

/-- The region that KIND and INDEX name (R250). -/
def areaNamed (kind index : Nat) : Option Area :=
  match kind with
  | 0 => if index < 128 then areaOf (0x1200000 + 0x2000 * index) else none
  | 1 => if index < 128 then areaOf (0x20000 * index) else none
  | 2 => if index = 0 then areaOf 0x1000000 else none
  | 3 => if index = 0 then areaOf 0x1010000 else none
  | _ => none

/-- `lo` to `lo + len` lies in the region. -/
def Area.holds (a : Area) (lo len : Nat) : Bool := decide (a.base ≤ lo) && decide (lo + len ≤ a.base + a.size)

/-- Two spans of words share a word. -/
def overlap (a n b m : Nat) : Bool := decide (a < b + m) && decide (b < a + n) && n != 0 && m != 0

/-- The words a segment covers (R163). -/
def Seg.len (g : Seg) : Nat := if g.cls = 5 then g.span else g.limit

/-- The first register that a list of checks names. -/
def firstBreach : List (Option Nat) → Option Nat
  | [] => none
  | some r :: _ => some r
  | none :: l => firstBreach l

/-- None where a condition is kept, else the register concerned. -/
def keeps (ok : Bool) (r : Nat) : Option Nat := if ok then none else some r

/-! ### Segments (R161, R162) -/

/-- World of tenant `t`: true for the F-world (R199). -/
def State.fWorld (s : State) (t : Nat) : Bool := s.flag (evtTctx t) 39

/-- A performance-only tenant (R161). -/
def State.perfOnly (s : State) (t : Nat) : Bool :=
  s.scheduled t && s.fWorld t &&
    (range 0 8).all fun k =>
      !(s.flag (frmSlotA (t / 8) k) 39 && s.fld (frmSlotA (t / 8) k) 36 34 == t % 8) || !s.flag (frmSlotA (t / 8) k) 38

/-- A class may lie in a region (R161). -/
def State.mayLie (s : State) (t : Nat) (g : Seg) (a : Area) : Bool :=
  let c := t / 8
  let ownSp := a.kind == 0 && a.index == c
  let own := a.kind == 1 && a.index == c
  let quire := a.kind == 1 && a.index / 4 == c / 4
  let commons := a.kind == 2 || a.kind == 3
  match g.cls with
  | 1 => ownSp || own || (s.perfOnly t && (quire || commons))
  | 5 => commons
  | 6 => ownSp || quire
  | 7 => commons
  | _ => ownSp || quire || commons

/-- The rights of a class (R161). -/
def Seg.rightsOk (g : Seg) : Bool :=
  match g.cls with
  | 1 => g.ex && !g.wr
  | 5 => !g.ex && (g.idir || !g.wr)
  | _ => !g.ex

/-- A descriptor keeps R159 and R161. -/
def State.segOk (s : State) (t : Nat) (g : Seg) : Bool :=
  g.cls == 0 ||
    match areaOf g.base with
    | none => false
    | some a =>
      (!g.idir || g.cls == 5) && a.holds g.base g.len && g.rightsOk && s.mayLie t g a &&
        !(a.kind == 0 && overlap g.base g.len (a.base + 0x1F80) 0x80)

/-- R161 over every descriptor. -/
def State.badSegment (s : State) : Option Nat :=
  firstBreach (allSegs.map fun x => keeps (s.segOk x.1 (s.seg x.1 x.2)) (segDescA x.1 x.2))

/-- The descriptors in use: tenant, number, segment. -/
def State.segsInUse (s : State) : List (Nat × Nat × Seg) :=
  (allSegs.map fun x => (x.1, x.2, s.seg x.1 x.2)).filter fun x => x.2.2.cls != 0

/-- Two segments of different tenants keep R162: apart, or both SHARED and read-only to the F-world across worlds. -/
def State.pairOk (s : State) (x y : Nat × Nat × Seg) : Option Nat :=
  if x.1 = y.1 ∨ !overlap x.2.2.base x.2.2.len y.2.2.base y.2.2.len then none
  else if x.2.2.cls ≠ 7 ∨ y.2.2.cls ≠ 7 then some (segDescA x.1 x.2.1)
  else if s.fWorld x.1 = s.fWorld y.1 then none
  else
    let f := if s.fWorld x.1 then x else y
    keeps (!f.2.2.wr) (segDescA f.1 f.2.1)

/-- R162 over every pair of a list. -/
def State.badOverlap (s : State) : List (Nat × Nat × Seg) → Option Nat
  | [] => none
  | x :: l => firstBreach (l.map (s.pairOk x) ++ [State.badOverlap s l])

/-! ### Windows, tenants, events (R167, R236, R206, R204, R201) -/

/-- R167 for one window. -/
def State.windowOk (s : State) (t w : Nat) : Bool :=
  let v := s.reg (coreWin t w)
  let g := s.seg t (bits v 39 36)
  bits v 22 11 == 0 ||
    ((g.cls == 2 || g.cls == 6) && (areaOf g.base).any (fun a => a.kind == 0 && a.index == t / 8) &&
      decide (bits v 35 23 + bits v 22 11 ≤ g.limit))

/-- R167 over every window. -/
def State.badWindow (s : State) : Option Nat :=
  firstBreach ((range 0 4096).map fun x => keeps (s.windowOk (x / 4) (x % 4)) (coreWin (x / 4) (x % 4)))

/-- The queues listed by tenants: tenant, number, header. -/
def State.listedQueues (s : State) : List (Nat × Nat × Nat) :=
  ((range 0 4096).filter fun x => s.flag (frmTq (x / 4) (x % 4)) 39).map fun x =>
    (x / 4, x % 4, s.fld (frmTq (x / 4) (x % 4)) 27 0)

/-- R236 over every listed queue. -/
def State.badQueue (s : State) : Option Nat :=
  let l := s.listedQueues
  firstBreach (l.map fun x =>
    keeps (headerOk x.2.2 && l.all fun y => y.1 == x.1 || y.2.2 != x.2.2) (frmTq x.1 x.2.1))

/-- The tenants of a core and world that are scheduled. -/
def State.scheduledIn (s : State) (c w : Nat) : List Nat :=
  (range (8 * c) 8).filter fun t => s.scheduled t && s.fWorld t == (w == 1)

/-- The scheduled tenants that can reach entry `e` (R206). -/
def State.reachers (s : State) (c w e : Nat) : List Nat :=
  if e < 32 then s.scheduledIn c w
  else
    (range (8 * c) 8).filter fun t =>
      s.scheduled t &&
        (range 0 1024).any fun n =>
          let r := s.reg (evtRoute n)
          bit r 24 && bits r 23 17 == c && bits r 16 16 == w && bits r 4 0 + 32 == e && bit r (32 + t % 8)

/-- HANDLER and SSEG of a valid entry serve a tenant (R206). -/
def State.entryServes (s : State) (v : Word) (t : Nat) : Bool :=
  let h := s.seg t (bits v 23 20)
  let k := s.seg t (bits v 37 34)
  h.cls == 1 && h.ex && k.cls == 2 && (areaOf k.base).any (fun a => a.kind == 0 && a.index == t / 8) && k.rd && k.wr &&
    decide (64 ≤ k.limit) && k.sup == bit v 38

/-- The trap codes that enter an entry (R206). -/
def trapNeeded (e : Nat) : Bool := (decide (1 ≤ e) && decide (e ≤ 15)) || e == 17

/-- R206 for one entry. -/
def State.entryOk (s : State) (c w e : Nat) : Bool :=
  let v := s.reg (evtDesc c w e)
  if bit v 39 then (decide (32 ≤ e) || bit v 38) && (s.reachers c w e).all (s.entryServes v)
  else !(trapNeeded e && !(s.scheduledIn c w).isEmpty)

/-- R206 over every descriptor entry. -/
def State.badEntry (s : State) : Option Nat :=
  firstBreach ((range 0 16384).map fun x =>
    keeps (s.entryOk (x / 128) (x / 64 % 2) (x % 64)) (evtDesc (x / 128) (x / 64 % 2) (x % 64)))

/-- R204, R201, R206 and R269 for one route. -/
def State.routeOk (s : State) (n : Nat) : Bool :=
  let r := s.reg (evtRoute n)
  let c := bits r 23 17
  !bit r 24 ||
    (bits r 39 32 != 0 && ((range 0 8).all fun i => !bit r (32 + i) || s.fWorld (8 * c + i) == bit r 16) &&
      (bit r 16 || !(decide (512 ≤ n) && decide (n ≤ 639))) && bit (s.reg (evtDesc c (bits r 16 16) (32 + bits r 4 0))) 39 &&
      !(s.pairMode && decide (896 ≤ n) && decide (n ≤ 1007)))

/-- Every route. -/
def State.badRoute (s : State) : Option Nat := firstBreach ((range 0 1024).map fun n => keeps (s.routeOk n) (evtRoute n))

/-! ### Schedule (R13, R22, R23, R223, R135, R232, R269) -/

/-- The words of the output set. -/
def State.outputSize (s : State) : Nat := (s.outputSegs.map (·.limit)).foldl (· + ·) 0
def State.inputSize (s : State) : Nat := (s.inputSegs.map (·.limit)).foldl (· + ·) 0

/-- The period and the order of the phase points, and R22 and R23. -/
def State.badPhase (s : State) : Option Nat :=
  let p := s.fld frmCtl 19 0
  let d := s.fld frmPhase0 39 20
  let v := s.fld frmPhase0 19 0
  let x := s.fld frmPhase1 39 20
  let i := s.fld frmPhase1 19 0
  firstBreach
    [keeps (decide (20 ≤ p) && decide (p ≤ 1000000)) frmCtl, keeps (decide (i < p)) frmCtl,
      keeps (decide (0 < d) && decide (d < v) && decide (v ≤ x)) frmPhase0, keeps (decide (x < i)) frmPhase1,
      keeps (decide (ceilDiv (s.outputSize + s.mirrorSize) 4000 + 2 ≤ d)) frmPhase0,
      keeps (!s.pairMode || decide (d + 4 ≤ v)) frmPhase0]

/-- The enabled entries of core `c`. -/
def State.enabled (s : State) (c : Nat) : List Nat := (range 0 10).filter fun k => s.flag (frmSlotA c k) 39

/-- OPEN, CLOSE and BUDGET of an entry (R238). -/
def State.openOf (s : State) (c k : Nat) : Nat := s.fld (frmSlotA c k) 29 0
def State.closeOf (s : State) (c k : Nat) : Nat := s.fld (frmSlotB c k) 29 0
def State.budgetOf (s : State) (c k : Nat) : Nat := s.fld (frmSlotC c k) 31 0

/-- What R223, R135 and R269 ask of one enabled entry beside the others. -/
def State.slotOk (s : State) (c k : Nat) : Bool :=
  let o := s.openOf c k
  let e := s.closeOf c k
  decide (1000 ≤ o) && decide (o < e) && decide (e ≤ s.periodNs) &&
    decide (ceilDiv ((12 + s.budgetOf c k) * s.fld ageCtl 39 28) 1000 ≤ e - o) &&
    ((s.enabled c).all fun j =>
      j == k || ((decide (e ≤ s.openOf c j) || decide (s.closeOf c j ≤ o)) &&
        (k != 9 || decide (s.openOf c j < o)))) &&
    (decide (8 ≤ k) ||
      (((s.enabled c).all fun j => j == k || decide (8 ≤ j) || s.slotTenant c j != s.slotTenant c k) &&
        (s.fWorld (s.slotTenant c k) || s.flag (frmSlotA c k) 38) &&
        (!s.pairMode || (s.flag (frmSlotA c k) 38 && s.flag (frmSlotA c k) 37))))

/-- The schedule of one core. -/
def State.badCore (s : State) (c : Nat) : Option Nat :=
  firstBreach
    ((s.enabled c).map (fun k => keeps (s.slotOk c k) (frmSlotA c k)) ++
      [keeps (s.flag (frmSlotA c 8) 39) (frmSlotA c 8), keeps (s.flag (frmSlotA c 9) 39) (frmSlotA c 9),
        keeps (decide (s.housekeepingCount c ≤ s.budgetOf c 9)) (frmSlotA c 9)])

/-- Every schedule. -/
def State.badSchedule (s : State) : Option Nat := firstBreach (s.badPhase :: (range 0 128).map s.badCore)

/-! ### Devices (R302, R335, R350, R284, R269, R27) -/

/-- R302. -/
def State.badAge (s : State) : Option Nat :=
  let ceil := s.fld ageCtl 39 28
  firstBreach
    [keeps (decide (1000 ≤ ceil) && decide (ceil ≤ 2000)) ageCtl,
      keeps (decide (12 + ceilDiv (s.fld frmCtl 19 0) 50000 ≤ s.fld ageCtl 27 20)) ageCtl,
      keeps (decide (650 ≤ s.fld ageVlim 19 10) && decide (s.fld ageVlim 29 20 ≤ 900) &&
        decide (s.fld ageVlim 19 10 ≤ s.fld ageVlim 29 20)) ageVlim]

/-- A host write window that extends past the end of the commons (R335). -/
def State.badBwin (s : State) : Option Nat :=
  firstBreach ((range 0 4).map fun n =>
    keeps (decide (8 * (s.fld (hstBwin n) 17 0 + s.fld (hstBwin n) 35 18) ≤ 0x200000) || s.fld (hstBwin n) 35 18 == 0)
      (hstBwin n))

/-- The queue registers of the ports. -/
def portQueues : List Nat := (range 0 4).flatMap fun p => [xePrxq p, xePtxq p]

/-- A port's MODE and queue headers (R350). -/
def State.badPort (s : State) : Option Nat :=
  firstBreach
    ((range 0 4).map (fun p => keeps (decide (s.fld (xePcfg p) 2 0 ≤ 3)) (xePcfg p)) ++
      portQueues.map fun r => keeps (!s.flag r 39 || headerOk (s.fld r 27 0)) r)

/-- The words of a commons queue (R195, R284). -/
def State.queueWords (s : State) (h : Nat) : Nat := 8 + ringLen (s.peek h) * itemWords (s.peek h)

/-- The queue headers named with EN = 1. -/
def State.queuesNamed (s : State) : List Nat :=
  s.listedQueues.map (·.2.2) ++ (portQueues.filter fun r => s.flag r 39).map fun r => s.fld r 27 0

/-- R284. -/
def State.badStage (s : State) : Option Nat :=
  let lo := s.staging 0
  let n := 16 * s.fld mirStage 35 18
  keeps
    (decide (s.mirrorSize ≤ 8 * s.fld mirStage 35 18) &&
      (areaOf lo).any (fun a => (a.kind == 2 || a.kind == 3) && a.holds lo n) &&
      (s.segsInUse.all fun x => !overlap lo n x.2.2.base x.2.2.len) &&
      (s.queuesNamed.all fun h => !overlap lo n h (s.queueWords h)) &&
      (range 0 4).all fun i => !overlap lo n (0x1000000 + 8 * s.fld (hstBwin i) 17 0) (8 * s.fld (hstBwin i) 35 18))
    mirStage

/-- R269 and R27, in pair mode; 2 MiW × T with T in µs / 1000. -/
def State.badPair (s : State) : Option Nat :=
  let t := s.fld frmCtl 19 0
  let ins := s.inputSize
  let m := s.mirrorSize
  let per := 0x200000 * t
  keeps
    (!s.pairMode ||
      (decide (2 ≤ s.fld mirCtl 23 16) && decide (s.fld mirCtl 23 16 ≤ 50) &&
        decide (1000 * (ins + m + s.sharedSet.length) ≤ per) &&
        decide (1000 * ins ≤ 0x200000 * (t - s.fld frmPhase1 19 0)) && decide (m ≤ 0x100000) && decide (1000 * m ≤ per) &&
        decide (1000 * (ins + m) ≤ per)))
    mirCtl

/-! ### The exchange table (R340) -/

/-- The register of word 0 of entry `e`, at its shadow offset. -/
def exchReg (e : Nat) : Nat := cfgShadow + 0x200 + 8 * e

/-- An entry clashes with a later one. -/
def clashes (m : Map Word) (e : Nat) : Bool :=
  let x := exch m e
  x.valid && !x.tx && (range (e + 1) (511 - e)).any fun f =>
    let y := exch m f
    y.valid && !y.tx && x.clash y

/-- R340 over a set. -/
def State.badTable (s : State) (m : Map Word) : Option Nat :=
  firstBreach
    ((range 0 512).map (fun e => keeps (!(exch m e).valid || s.exchOk (exch m e)) (exchReg e)) ++
      (range 0 512).map (fun e => keeps (!clashes m e) (exchReg e)) ++
      (range 0 4).map fun p => keeps (s.transmitFits m p) (exchReg ((entries m p true).getD 0 0)))

/-- Every cross-check of code 12, in the order of R252. -/
def State.unreadable (s : State) : Option Nat :=
  firstBreach
    [s.badSegment, s.badOverlap s.segsInUse, s.badWindow, s.badQueue, s.badEntry, s.badRoute, s.badSchedule, s.badAge,
      s.badBwin, s.badPort, s.badStage, s.badPair, s.badTable s.recto]

end Sys2Proof.Machine
end

