-- ==== Sys2Proof/Machine/Loader.lean ====
section
/-!
DEFINITION. The binding loader (file 12): DISCOVERY, HEADER, READ, VERIFY, RELOCATE, SET_UP, SEAL, BANK_REJECT,
FLASH_READ_RETRY and FIRST_PLAN_TIMEOUT. CFG_STAT.PHASE names the phase whose command comes next; a phase that finds a
failure leaves it in the loader's `fail`, and BANK_REJECT answers it (R254).
-/
namespace Sys2Proof.Machine

/-! ### The loader's own state -/

/-- The loader's state changed by a function. -/
def State.onLdr (s : State) (f : Loader → Loader) : State := { s with ldr := f s.ldr }

/-- CFG_STAT.PHASE. -/
def State.phase (s : State) : Nat := s.fld cfgStat 31 28

/-- The loader works in phase `n`, with no failure found. -/
def State.loading (s : State) (n : Nat) : Bool := !s.inReset && s.phase == n && s.ldr.fail.isNone

/-- The next phase begins; reads that failed before no longer count. -/
def State.toPhase (s : State) (n : Nat) : State := (s.setFld cfgStat 31 28 n).onLdr fun l => { l with retries := 0 }

/-- A failure is found (R249). -/
def State.failLoad (s : State) (w : Why) : State := s.onLdr fun l => { l with fail := some w }

/-- The reason is recorded in CFG_WHY of the bank, which is rejected (R249). -/
def State.rejectBank (s : State) (b : Bool) (w : Why) : State :=
  (s.setReg (cfgWhy b.toNat) (putBits (putBits (word (w.detail % 2 ^ 24)) 31 24 w.sect) 39 32 w.code)).onLdr fun l =>
    { l with rejected := b :: l.rejected }

/-- Once both banks are rejected, the loader stops in phase FAILED (R255, R329). -/
def State.giveUp (s : State) : State :=
  if s.ldr.rejected.contains false && s.ldr.rejected.contains true then (s.toPhase 8).cause 29 else s

/-- Both banks are rejected under one code (R249 code 1, R384). -/
def State.rejectBoth (s : State) (code : Nat) : State :=
  ((s.rejectBank false ⟨code, 0xFF, 0⟩).rejectBank true ⟨code, 0xFF, 0⟩).giveUp

/-! ### Discovery (R240, R241, R384) -/

/-- The highest flash clock in MHz that the tables, CFG_FUSE.FMAX and FLV allow. -/
def State.flashLimit (s : State) (t : Sfdp) : Nat :=
  let f := s.fld cfgFuse 23 16
  min (min t.maxMHz 200) (min (if f = 0 then 200 else 4 * f) (if s.fld devPkg 1 0 = 1 then 125 else 200))

/-- 8D-8D-8D mode is entered. -/
def State.useOctal (s : State) (t : Sfdp) : Bool := t.octal && decide (50 ≤ s.flashLimit t)

/-- DISCOVERY. -/
def State.discover (s : State) : Option Sfdp → State
  | none => s.rejectBoth 1
  | some t =>
    if t.densityMbit < 256 then s.rejectBoth 1
    else
      let fast := s.useOctal t
      let s := s.onLdr fun l =>
        { l with sfdp := some t, octal := fast, divider := if fast then max 5 (ceilDiv 1000 (s.flashLimit t)) else 20 }
      (s.setFlag cfgStat 23 (!fast)).toPhase 2

/-- DISCOVERY (R240, R241). -/
def execDiscovery (tables : Option Sfdp) (s : State) : Result := .next (if s.loading 1 then s.discover tables else s)

/-! ### The image in the flash (R242 to R246) -/

/-- The first byte of a bank (R242). -/
def State.bankStart (s : State) (b : Bool) : Nat := if b then s.flashSize / 2 else 0

/-- Bytes of the flash. -/
def State.flashBytes (s : State) (a n : Nat) : List Byte := (range a n).map s.flashByte

/-- A little-endian field of `n` bytes (R243). -/
def fieldAt (bs : List Byte) (off n : Nat) : Nat := leNat ((bs.drop off).take n)

/-- The first 4 KiB of a bank. -/
def State.header (s : State) (b : Bool) : List Byte := s.flashBytes (s.bankStart b) 0x1000

/-- A bank is a candidate (R247). -/
def State.isCandidate (s : State) (b : Bool) : Bool :=
  let h := s.header b
  fieldAt h 0 4 == 0x5A544249 && fieldAt h 0x18 4 == (crc32c (h.take 0x18)).toNat && fieldAt h 0x1C 4 == 0x1024

/-- A bank that is not a candidate is rejected with reason 2 (R247). -/
def State.sift (s : State) (b : Bool) : State :=
  if s.ldr.rejected.contains b || s.isCandidate b then s else s.rejectBank b ⟨2, 0xFF, 0⟩

/-- The bank to load first (R247): the greater SEQ, Recto when equal, the only candidate where there is one. -/
def State.firstBank (s : State) : Bool :=
  s.ldr.rejected.contains false ||
    (!s.ldr.rejected.contains true && decide (fieldAt (s.header false) 8 4 < fieldAt (s.header true) 8 4))

/-- Both headers are read and the bank is chosen (R247). -/
def State.choose (s : State) : State :=
  let s := ((s.sift false).sift true).giveUp
  if s.phase = 8 then s else (s.onLdr fun l => { l with bank := s.firstBank }).toPhase 3

/-- HEADER (R247). -/
def execHeader (s : State) : Result := .next (if s.loading 2 then s.choose else s)

/-- The largest image (R242). -/
def State.largestImage (s : State) : Nat := min (s.flashSize / 2) 0x3000000

/-- The section table (R244). -/
def sectsOf (h : List Byte) (n : Nat) : List Sect :=
  (range 0 n).map fun i =>
    let o := 0x40 + 16 * i
    { ty := fieldAt h o 2, crit := fieldAt h (o + 2) 2 % 2 == 1, off := fieldAt h (o + 4) 4, len := fieldAt h (o + 8) 4,
      crc := fieldAt h (o + 12) 4 }

/-- The section types that must appear exactly once, and those that may appear at most once (R245). -/
def onceTypes : List Nat := [1, 4, 5, 6, 7, 8, 0xA, 0xC, 0xD]
def singleTypes : List Nat := onceTypes ++ [3, 9, 0xB]

/-- The register-record sections in the order of set-up (R252): SPINE, SEGMENT, WINDOW, TENANT, EVDESC, ROUTE, SCHEDULE,
DEVICE, CFGSET. -/
def setUpOrder : List Nat := [0xA, 4, 9, 5, 8, 7, 6, 0xD, 0xC]

/-- The types of R245. -/
def knownType (ty : Nat) : Bool := (decide (1 ≤ ty) && decide (ty ≤ 0xD)) || ty == 0x10

/-- LENGTH suits the entries of the type (R245, R250, R251). -/
def lengthOk (x : Sect) : Bool :=
  if x.ty = 1 ∨ setUpOrder.contains x.ty then x.len % 8 == 0 else if x.ty = 3 then x.len % 12 == 0 else true

/-- Section `i` of a table keeps R244. -/
def placed (imgLen : Nat) (l : List Sect) (i : Nat) (x : Sect) : Bool :=
  x.off % 8 == 0 && decide (0x1000 ≤ x.off) && decide (x.off + x.len ≤ imgLen - 256) && lengthOk x &&
    (l.take i).all fun y => !overlap y.off y.len x.off x.len

/-- The first index at which a list of flags is false. -/
def firstFalse (n : Nat) : List Bool → Option Nat
  | [] => none
  | b :: l => if b then firstFalse (n + 1) l else some n

/-- The header and the section table (R243 to R245): the first failure, under codes 2, 3, 4 and 9. An IMGLEN out of rule is
answered under code 4 (DEDUCED, log entry 36). -/
def State.headerWhy (s : State) (h : List Byte) : Option Why :=
  let len := fieldAt h 0x10 4
  let n := fieldAt h 0x14 4
  let l := sectsOf h n
  if fieldAt h 4 2 ≠ s.fld cfgFuse 15 8 then some ⟨2, 0xFF, 0⟩
  else if s.fld cfgFuse 7 0 < fieldAt h 6 2 then some ⟨3, 0xFF, 6⟩
  else if fieldAt h 0xC 1 < s.fld cfgFuse 31 24 then some ⟨3, 0xFF, 0xC⟩
  else if len % 8 ≠ 0 ∨ s.largestImage < len ∨ len < 0x1100 ∨ n = 0 ∨ 240 < n then some ⟨4, 0xFF, 0⟩
  else
    match firstFalse 0 (l.mapIdx (placed len l)) with
    | some i => some ⟨4, i, i⟩
    | none =>
      match firstFalse 0 (l.mapIdx fun i x =>
        (knownType x.ty || !x.crit) && !(singleTypes.contains x.ty && (l.take i).any (·.ty == x.ty))) with
      | some i => some ⟨9, i, i⟩
      | none => if onceTypes.all fun ty => l.any (·.ty == ty) then none else some ⟨9, 0xFF, 0⟩

/-! ### Reading (R252 phase 3) -/

/-- The region table (R250). -/
def regionsOf (bs : List Byte) : List Region :=
  (range 0 (bs.length / 8)).map fun i => ⟨fieldAt bs (8 * i) 1, fieldAt bs (8 * i + 2) 2, fieldAt bs (8 * i + 4) 4⟩

/-- The first address of a region and the end of its physical region (R250). -/
def Region.ends (r : Region) : Option (Nat × Nat) :=
  match areaNamed r.kind r.index with
  | some a => if r.start < a.size then some (a.base + r.start, a.base + a.size) else none
  | none => none

/-- The records of a section (R245). -/
def recsOf (i ty : Nat) (bs : List Byte) : List Rec :=
  (range 0 (bs.length / 8)).map fun j =>
    let v := fieldAt bs (8 * j) 8
    ⟨i, ty, v / 2 ^ 40, word v⟩

/-- The relocation entries (R251). -/
def relocsOf (i : Nat) (bs : List Byte) : List (Nat × Reloc) :=
  (range 0 (bs.length / 12)).map fun j =>
    let o := 12 * j
    (i, ⟨fieldAt bs o 1, fieldAt bs (o + 1) 1, fieldAt bs (o + 2) 2, fieldAt bs (o + 4) 4, fieldAt bs (o + 8) 4⟩)

/-- A region of the table. -/
def State.region (s : State) (i : Nat) : Option (Nat × Nat) := (s.ldr.regions[i]?).bind Region.ends

/-- A LOAD payload is written as it arrives (R245, R249 code 11). -/
def State.loadWords (s : State) (i : Nat) (bs : List Byte) : State :=
  let r := fieldAt bs 0 2
  let off := fieldAt bs 2 4
  let n := fieldAt bs 6 4
  if bs.length ≠ 10 + 5 * n then s.failLoad ⟨4, i, i⟩
  else
    match s.region r with
    | none => s.failLoad ⟨11, i, r⟩
    | some e =>
      if e.1 + off + n ≤ e.2 then s.pokes (e.1 + off) ((range 0 n).map fun j => word (fieldAt bs (10 + 5 * j) 5))
      else s.failLoad ⟨11, i, r⟩

/-- What the loader takes from section `i` once its CRC is right. -/
def State.takeSection (s : State) (i : Nat) (x : Sect) (bs : List Byte) : State :=
  if x.ty = 1 then
    match firstFalse 0 (s.ldr.regions.map fun r => r.ends.isSome) with
    | some j => s.failLoad ⟨11, i, j⟩
    | none => s
  else if x.ty = 3 then s.onLdr fun l => { l with relocs := relocsOf i bs }
  else if x.ty = 0xB then s.onLdr fun l => { l with patch := some (i, bs) }
  else if setUpOrder.contains x.ty then s.onLdr fun l => { l with recs := l.recs ++ recsOf i x.ty bs }
  else s

/-- Section `i` passes (R252): LOAD words as they arrive, then the CRC, then the rest. -/
def State.readSection (s : State) (start i : Nat) (x : Sect) : State :=
  let bs := s.flashBytes (start + x.off) x.len
  let s := if x.ty = 2 then s.loadWords i bs else s
  if s.ldr.fail.isSome then s
  else if (crc32c bs).toNat ≠ x.crc then s.failLoad ⟨5, i, i⟩
  else s.takeSection i x bs

/-- Sections in the order in which they pass, until one fails. -/
def State.readSections (s : State) (start : Nat) : List (Nat × Sect) → State
  | [] => s
  | x :: l => if s.ldr.fail.isSome then s else State.readSections (s.readSection start x.1 x.2) start l

/-- A section placed by its offset. -/
def insertSect (x : Nat × Sect) : List (Nat × Sect) → List (Nat × Sect)
  | [] => [x]
  | y :: l => if x.2.off ≤ y.2.off then x :: y :: l else y :: insertSect x l

/-- Sections by offset. -/
def sortSects : List (Nat × Sect) → List (Nat × Sect)
  | [] => []
  | x :: l => insertSect x (sortSects l)

/-- The region table, wherever it stands (log entry 36). -/
def State.regionTable (s : State) (start : Nat) (l : List Sect) : List Region :=
  match l.find? (·.ty == 1) with
  | some x => regionsOf (s.flashBytes (start + x.off) x.len)
  | none => []

/-- The one pass over the image (R252 phase 3). -/
def State.readImage (s : State) : State :=
  let h := s.header s.ldr.bank
  match s.headerWhy h with
  | some w => s.failLoad w
  | none =>
    let start := s.bankStart s.ldr.bank
    let len := fieldAt h 0x10 4
    let l := sectsOf h (fieldAt h 0x14 4)
    let s := s.onLdr fun r =>
      { r with
        imgLen := len, signed := fieldAt h 0xE 2 % 2 == 1, svn := fieldAt h 0xC 1, seqNo := fieldAt h 8 4, sects := l,
        regions := s.regionTable start l, recs := [], relocs := [], patch := none,
        digest := sha256 (s.flashBytes start (len - 256)) }
    let s := s.readSections start (sortSects (l.mapIdx fun i x => (i, x)))
    if s.ldr.fail.isSome then s else s.toPhase 4

/-- READ (R252 phase 3). -/
def execRead (s : State) : Result := .next (if s.loading 3 then s.readImage else s)

/-! ### Verifying (R246, R252 phase 4) -/

/-- The trailer of the image (R246). -/
def State.trailer (s : State) : List Byte := s.flashBytes (s.bankStart s.ldr.bank + s.ldr.imgLen - 256) 256

/-- The checks of phase 4: codes 6, 7 and 8. Without key-hash fuses there is nothing to compare the key with (DEDUCED, log
entry 37). -/
def State.verifyWhy (s : State) : Option Why :=
  let t := s.trailer
  let part (o n : Nat) : Nat := beNat ((t.drop o).take n)
  let key := (t.drop 32).take 96
  if part 0 32 ≠ s.ldr.digest.toNat then some ⟨6, 0xFF, 0⟩
  else if !s.ldr.signed then if s.flag cfgFuse 32 then some ⟨7, 0xFF, 0⟩ else none
  else if s.flag cfgFuse 33 && sha256 key != Config.fuseKeyHash then some ⟨7, 0xFF, 0⟩
  else if ecdsaP384 (part 32 48) (part 80 48) s.ldr.digest.toNat (part 128 48) (part 176 48) then none
  else some ⟨8, 0xFF, 0⟩

/-- Phase 4. -/
def State.verifyImage (s : State) : State :=
  match s.verifyWhy with
  | some w => s.failLoad w
  | none => (s.setFlag cfgStat 22 s.ldr.signed).toPhase 5

/-- VERIFY (R252 phase 4). -/
def execVerify (s : State) : Result := .next (if s.loading 4 then s.verifyImage else s)

/-! ### Relocating (R251) -/

/-- Record `j` of section `i`, counted in the order of the section. -/
def recAt (i j : Nat) (l : List Rec) : Option Rec := (l.filter (·.sect == i))[j]?

/-- The value of record `j` of section `i` replaced. -/
def putRec (i : Nat) (v : Word) : Nat → List Rec → List Rec
  | _, [] => []
  | j, r :: l =>
    if r.sect ≠ i then r :: putRec i v j l
    else
      match j with
      | 0 => { r with val := v } :: l
      | j + 1 => r :: putRec i v j l

/-- The word or record that an entry names, if its place exists. -/
def State.relocTarget (s : State) (e : Reloc) : Option Word :=
  match e.tkind with
  | 0 =>
    match s.region e.tsel with
    | some r => if r.1 + e.tidx < r.2 then some (s.peek (r.1 + e.tidx)) else none
    | none => none
  | 1 => (recAt e.tsel e.tidx s.ldr.recs).map (·.val)
  | _ => none

/-- The word or record that an entry names is replaced. -/
def State.relocWrite (s : State) (e : Reloc) (v : Word) : State :=
  if e.tkind = 0 then
    match s.region e.tsel with
    | some r => s.poke (r.1 + e.tidx) v
    | none => s
  else s.onLdr fun l => { l with recs := putRec e.tsel v e.tidx l.recs }

/-- The relocated word (R251): the base of AREG added to the field; none where the sum does not fit or leaves AREG. -/
def State.relocated (s : State) (e : Reloc) (w : Word) : Option Word :=
  let hi := if e.field = 0 then 27 else 19
  match s.region e.areg with
  | none => none
  | some a =>
    let sum := bits w hi 0 + a.1
    if e.field ≤ 1 ∧ sum < 2 ^ (hi + 1) ∧ a.1 ≤ sum ∧ sum < a.2 then some (putBits w hi 0 sum) else none

/-- Entries in table order, from entry `j`. -/
def State.relocateAll (s : State) (j : Nat) : List (Nat × Reloc) → State
  | [] => s.toPhase 6
  | e :: l =>
    match (s.relocTarget e.2).bind (s.relocated e.2) with
    | none => s.failLoad ⟨11, e.1, j⟩
    | some v => State.relocateAll (s.relocWrite e.2 v) (j + 1) l

/-- RELOCATE (R251). -/
def execRelocate (s : State) : Result := .next (if s.loading 5 then s.relocateAll 0 s.ldr.relocs else s)

/-! ### Set-up (R252 phase 6) -/

/-- The registers of a section (R245). -/
def sectionOwns (ty r : Nat) : Bool :=
  match ty with
  | 4 => decide (0x40000 ≤ r) && decide (r < 0x48000)
  | 5 => (decide (0xA4000 ≤ r) && decide (r < 0xA6000) && r % 8 != 2 && r % 8 != 3) ||
      (decide (0x86000 ≤ r) && decide (r < 0x86400))
  | 6 => (decide (0xA0000 ≤ r) && decide (r ≤ 0xA0002)) ||
      (decide (0xA2000 ≤ r) && decide (r < 0xA3000) && decide ((r - 0xA2000) % 0x20 < 30))
  | 7 => decide (0x80000 ≤ r) && decide (r < 0x80400)
  | 8 => decide (0x80800 ≤ r) && decide (r < 0x84800)
  | 9 => decide (0x20000 ≤ r) && decide (r < 0x24000) && decide (0x40 ≤ (r - 0x20000) % 0x80) &&
      decide ((r - 0x20000) % 0x80 < 0x60)
  | 0xA => decide (0x60000 ≤ r) && decide (r ≤ 0x60002)
  | 0xC => decide (cfgShadow ≤ r) && setOffsets.contains (r - cfgShadow)
  | 0xD =>
    [mirCtl, mirDly, mirLayout, mirStage, clkOutsel, clkPpsctl, ageCtl, ageVlim, agePmb, agePolicy, hstSubsys, mgtCtl,
      errCtl, errStctl].contains r ||
      (range 0 4).any fun n => r == hstBwin n || (decide (xePcfg n ≤ r) && decide (r ≤ xePtxq n))
  | _ => false

/-- The fields of a record lie in the ranges their own descriptions state (R249 code 10). MIR_CTL.EVDLY and AGE_CTL.CEIL are not
among them: R269 and R302 give code 12 for a value outside their ranges (State.badPair, State.badAge; log entry 34). -/
def inRange (r : Nat) (v : Word) : Bool :=
  let within (hi lo a b : Nat) : Bool := decide (a ≤ bits v hi lo) && decide (bits v hi lo ≤ b)
  if r = spnCtl then within 4 0 1 16
  else if r = frmCtl then within 19 0 20 1000000
  else if r = agePolicy then within 13 12 0 2
  else if sectionOwns 4 r ∧ r % 2 = 1 then within 20 0 0 0x100000
  else if sectionOwns 9 r then within 22 11 0 2048
  else if (range 0 4).any (fun p => r == xePcfg p) then within 2 0 0 3
  else true

/-- A record may be written (R249 code 10). -/
def recOk (x : Rec) : Bool := sectionOwns x.ty x.idx && x.val &&& ~~~fieldMask (layout x.idx) == 0 && inRange x.idx x.val

/-- The bits that a record writes: SL, RW and LV fields (R245). -/
def recMask (r : Nat) : Word := accMask .sl (layout r) ||| accMask .rw (layout r) ||| accMask .lv (layout r)

/-- A record is written (R245, R252, R262): CFGSET records into Recto, CLK_OUTSEL as R361 has it. -/
def State.putRecord (s : State) (x : Rec) : State :=
  if x.ty = 0xC then { s with recto := s.recto.set (x.idx - cfgShadow) 0 x.val }
  else if x.idx = clkOutsel then s.selectOut x.val
  else
    let m := recMask x.idx
    s.setReg x.idx ((s.reg x.idx &&& ~~~m) ||| (x.val &&& m))

/-- Records in order, each checked as it is written. -/
def State.putRecords (s : State) : List Rec → State
  | [] => s
  | x :: l => if recOk x then State.putRecords (s.putRecord x) l else s.failLoad ⟨10, x.sect, 8 * x.idx⟩

/-- The records in the order of set-up (R252). -/
def State.ordered (s : State) : List Rec := setUpOrder.flatMap fun ty => s.ldr.recs.filter (·.ty == ty)

/-- The section that holds a register, or 0xFF where no record names it (R249 code 12). -/
def State.sectOf (s : State) (r : Nat) : Nat := ((s.ldr.recs.find? (·.idx == r)).map (·.sect)).getD 0xFF

/-- The match entries of a patch file (R399). -/
def patchEntries (bs : List Byte) : List (Nat × Nat) :=
  (range 0 (fieldAt bs 2 1)).map fun i => (fieldAt bs (8 + 4 * i) 2, fieldAt bs (10 + 4 * i) 2)

/-- A patch file keeps R399. -/
def patchOk (bs : List Byte) : Bool :=
  let n := fieldAt bs 2 1
  let w := fieldAt bs 4 2
  let es := patchEntries bs
  decide (n ≤ 16) && decide (w ≤ 512) && fieldAt bs 1 1 != 0 && fieldAt bs 3 1 == 0 && fieldAt bs 6 2 == 0 &&
    bs.length == 8 + 4 * n + 9 * w && (es.all fun e => decide (e.1 ≤ 0xDFF) && decide (0xE00 ≤ e.2) && decide (e.2 ≤ 0xFFF)) &&
    (range 0 n).all fun i => (es.drop (i + 1)).all fun e => e.1 != (es.getD i (0, 0)).1

/-- The patch RAM and match table of a patch file, one image for every core (R116, R399). -/
def patchOf (bs : List Byte) : Patch :=
  let o := 8 + 4 * fieldAt bs 2 1
  { ram := (range 0 (fieldAt bs 4 2)).foldl
      (fun (m : Map MicroWord) i => m.set (0xE00 + i) 0 (BitVec.ofNat 72 (fieldAt bs (o + 9 * i) 9))) []
    entries := patchEntries bs }

/-- The PATCH section is checked and written (R116, R117, R399). -/
def State.putPatch (s : State) : State :=
  match s.ldr.patch with
  | none => s
  | some (i, bs) =>
    if fieldAt bs 0 1 ≠ s.fld devUcode 7 0 then s.failLoad ⟨13, i, 0⟩
    else if !patchOk bs then s.failLoad ⟨10, i, 8⟩
    else { ((s.setFld devUcode 21 16 (fieldAt bs 2 1)).setFld devUcode 15 8 (fieldAt bs 1 1)) with patch := patchOf bs }

/-- Each tenant at the user level of its world, and READY when it is scheduled (R199, R234, R238). -/
def State.startTenants (s : State) : State :=
  (range 0 1024).foldl
    (fun (s : State) t =>
      let s := if s.fWorld t then s.setFld (evtTctx t) 38 37 2 else s
      if s.scheduled t then s.setFld (frmTstat t) 39 37 1 else s)
    s

/-- What follows when every setting can be read: the shadow set is copied into the active set (R262), the tenants are set
up, and the planner's first plan is due (R311). -/
def State.endSetUp (s : State) : State :=
  let s := ({ s with verso := s.recto }).startTenants
  (s.onLdr fun l => { l with setUp := true }).onAge fun a => { a with setUpAt := some s.clk.tb.toNat }

/-- Phase 6. -/
def State.doSetUp (s : State) : State :=
  let s := s.putRecords s.ordered
  if s.ldr.fail.isSome then s
  else
    match s.unreadable with
    | some r => s.failLoad ⟨12, s.sectOf r, 8 * r⟩
    | none =>
      let s := s.putPatch
      if s.ldr.fail.isSome then s else s.endSetUp

/-- SET_UP (R252 phase 6). -/
def execSetUp (s : State) : Result := .next (if s.loading 6 ∧ !s.ldr.setUp then s.doSetUp else s)

/-! ### Seal and rejection (R254 to R256, R311) -/

/-- CFG_DIG0 to CFG_DIG6 (R267). -/
def State.recordDigest (s : State) : State :=
  (range 0 7).foldl (fun (s : State) n => s.setReg (cfgDig n) (word (s.ldr.digest.toNat >>> (40 * n)))) s

/-- What the seal changes in the CFG_ registers (R256, R267, R329). -/
def State.sealRegs (s : State) : State :=
  let s := ((s.toPhase 7).setFlag cfgStat 27 true).setFlag cfgStat 25 s.ldr.bank
  ((s.setReg cfgImgid (putBits (word s.ldr.seqNo) 39 32 s.ldr.svn)).recordDigest).cause 29

/-- The seal (R256). A device in pair mode then waits for its partner (R271): a link that is trained carries its IDENT from now
on. -/
def State.sealPart (s : State) : State :=
  let s := s.sealRegs
  if !s.pairMode then s else (s.onPair fun p => { p with waiting := true }).sendIdent

/-- The set-up is complete and not yet sealed. -/
def State.sealable (s : State) : Bool := s.loading 6 && s.ldr.setUp

/-- SEAL (R256): once the first plan is ready. -/
def execSealSetUp (s : State) : Result := .next (if s.sealable ∧ s.flag ageStat 12 then s.sealPart else s)

/-- HOLDFAIL = 1 without a first plan (R310, R311). -/
def State.planFailed (s : State) : State :=
  let s := s.ageFlag 19 970
  let s := match s.age.cand with
    | some p => s.setFld ageStat 39 28 p.need
    | none => s
  s.onPair fun p => { p with health := putBit p.health 3 true }

/-- FIRST_PLAN_TIMEOUT (R311): 10 ms after set-up. -/
def execFirstPlanTimeout (s : State) : Result :=
  .next (if s.sealable ∧ !s.flag ageStat 12 then
    ((s.reach (s.age.setUpAt.getD 0 + 10000000)).planFailed).sealPart
  else s)

/-- The bits of a mask of a register return to their Reset column. -/
def State.unsetReg (s : State) (r : Nat) (m : Word) : State := s.setReg r ((s.reg r &&& ~~~m) ||| (resetVal r &&& m))

/-- What a CLK_OUTSEL record of the rejected image began or caused: a switch, a value that waits for its end, OUTREF (R254,
R361). -/
def State.clearOut (s : State) : State :=
  if s.ldr.recs.any fun x => x.idx == clkOutsel then
    (s.setFlag clkStat 7 false).onClk fun k => { k with switching := false, nextSel := none }
  else s

/-- Every memory and every SL field as at the start of the load, and nothing that a record wrote (R254 step 3). With PAIR cleared,
the lanes of the link are powered down (R268). -/
def State.clearLoad (s : State) : State :=
  let s := (s.clearOut).linkToDown
  let s := (s.regs.map fun x => x.1).foldl (fun (s : State) r => s.unsetReg r (accMask .sl (layout r))) s
  let s := (s.ldr.recs.filter fun x => x.ty != 0xC).foldl (fun (s : State) x => s.unsetReg x.idx (recMask x.idx)) s
  { (s.setFlag cfgStat 22 false) with mem := [], check := [], recto := [], verso := [], patch := ⟨[], []⟩ }

/-- The loader after a rejection: discovery and the headers are kept, nothing of the image (R254). -/
def Loader.again (l : Loader) : Loader :=
  { Loader.reset with sfdp := l.sfdp, octal := l.octal, divider := l.divider, rejected := l.rejected, bank := !l.bank }

/-- A bank is rejected before the seal (R254, R255). -/
def State.fallBack (s : State) (w : Why) : State :=
  let s := (((s.rejectBank s.ldr.bank w).setFlag cfgStat 24 true).clearLoad).onLdr Loader.again
  if s.ldr.rejected.contains s.ldr.bank then s.giveUp else s.toPhase 3

/-- BANK_REJECT (R254). -/
def execBankReject (s : State) : Result :=
  .next (match s.ldr.fail with
    | some w => if s.inReset then s else s.fallBack w
    | none => s)

/-- A read that returned no data strobe (R241): the fourth failure of one read rejects the bank being read, with code 14. -/
def State.noStrobe (s : State) (a : Nat) : State :=
  let n := if a = s.ldr.retryAt then s.ldr.retries + 1 else 1
  let s := s.onLdr fun l => { l with retryAt := a, retries := n }
  if n < 4 then s
  else if s.phase = 2 then (s.rejectBank (decide (s.flashSize / 2 ≤ a)) ⟨14, 0xFF, a / 8⟩).giveUp
  else s.failLoad ⟨14, 0xFF, a / 8⟩

/-- FLASH_READ_RETRY (R241): only reads in 8D-8D-8D mode have a data strobe. -/
def execFlashReadRetry (addr : Nat) (s : State) : Result :=
  .next (if (s.loading 2 ∨ s.loading 3) ∧ s.ldr.octal then s.noStrobe addr else s)

end Sys2Proof.Machine
end

