-- ==== Sys2Proof/Machine/Lsu.lean ====
section
/-!
DEFINITION. Words that trigger an LSU or the GTU (R165, R166, R171 to R173).
-/
namespace Sys2Proof.Machine

/-- LD (R166): a word that triggers a load. -/
def execLd (c : CoreId) (s : State) : Result := issue (.lsu .ld) c s

/-- ST (R166): a word that triggers a store. -/
def execSt (c : CoreId) (s : State) : Result := issue (.lsu .st) c s

/-- CAX (R166, R192): a word that triggers a compare-exchange. -/
def execCax (c : CoreId) (s : State) : Result := issue (.lsu .cax) c s

/-- FAA (R166, R192): a word that triggers a fetch-add. -/
def execFaa (c : CoreId) (s : State) : Result := issue (.lsu .faa) c s

/-- GATH (R171): a word that begins or resumes a gather. -/
def execGath (c : CoreId) (s : State) : Result := issue (.gtu .gath) c s

/-- GCAN (R174): a word that cancels the record of a gather. -/
def execGcan (c : CoreId) (s : State) : Result := issue (.gtu .gcan) c s

end Sys2Proof.Machine
end

