-- ==== Sys2Proof/Machine/Moves.lean ====
section
/-!
DEFINITION. Words that copy sockets: plain moves, window accesses, IMMH and CORE_MODE writes.
-/
namespace Sys2Proof.Machine

/-- MOVE (R28): a word whose moves copy source sockets to destinations that start nothing. -/
def execMove (c : CoreId) (s : State) : Result := issue .move c s

/-- WINDOW_ACCESS (R168): a word that names a circular-window socket. -/
def execWindowAccess (c : CoreId) (s : State) : Result := issue .window c s

/-- IMMH_WRITE (R50): a word that writes IMM[39:23]. -/
def execImmhWrite (c : CoreId) (s : State) : Result := issue .immh c s

/-- CORE_MODE_WRITE (R45): a word that writes CORE_MODE; MODE changes at the sixth move after it. -/
def execCoreModeWrite (c : CoreId) (s : State) : Result := issue .coreMode c s

end Sys2Proof.Machine
end

