-- ==== Sys2Proof/Machine/Mul.lean ====
section
/-!
DEFINITION. Words that trigger the MUL (R78 to R81).
-/
namespace Sys2Proof.Machine

/-- MUL (R79): a word that triggers signed multiplication. -/
def execMul (c : CoreId) (s : State) : Result := issue (.mul .mul) c s

/-- MULU (R79): a word that triggers unsigned multiplication. -/
def execMulu (c : CoreId) (s : State) : Result := issue (.mul .mulu) c s

/-- DIV (R79): a word that triggers signed division. -/
def execDiv (c : CoreId) (s : State) : Result := issue (.mul .div) c s

/-- DIVU (R79): a word that triggers unsigned division. -/
def execDivu (c : CoreId) (s : State) : Result := issue (.mul .divu) c s

/-- REM (R79): a word that triggers the signed remainder. -/
def execRem (c : CoreId) (s : State) : Result := issue (.mul .rem) c s

/-- REMU (R79): a word that triggers the unsigned remainder. -/
def execRemu (c : CoreId) (s : State) : Result := issue (.mul .remu) c s

end Sys2Proof.Machine
end

