-- ==== Sys2Proof/Machine/Reset.lean ====
section
/-!
DEFINITION. Reset, start-up and the references (R352, R353, R355, R362 to R365, R383, R384): PORST_ASSERT, BROWN_OUT,
PORST_RELEASE, BROWN_OUT_END, TAP_RESET, PLL_T_LOCK, REFRDY_TIMEOUT, REFERENCE_LOSS, REFERENCE_RELOCK and
VIO33_RETENTION_LOSS.
-/
namespace Sys2Proof.Machine

/-- A reset of the part (R363): every register at its Reset column but CLK_RSTWHY, everything else as after power-up. The
flash, the levels at the balls and the commands that wait are not the part's; memory keeps its words until the loader
clears it (R252). -/
def State.resetPart (s : State) : State :=
  { State.reset with
    pending := s.pending, free := s.free, out := s.out, pins := s.pins, mem := s.mem, check := s.check, flash := s.flash
    regs := (Map.set [] clkRstwhy 0 (s.reg clkRstwhy)) }

/-- PORST_ASSERT (R362, R363). -/
def execPorstAssert (s : State) : Result :=
  .next { (s.resetPart.setFlag clkRstwhy 0 true) with pins := { s.pins with porstLow := true } }

/-- The bit of a rail in CLK_RSTWHY (R362, R368): BROWN[6:1] in the order of the table. -/
def railBit : Rail → Nat
  | .vcore => 1
  | .vmem => 2
  | .vio18 => 3
  | .vio33 => 4
  | .vsd => 5
  | .vsdh => 6

/-- BROWN_OUT (R362, R363, R367): recorded when PORST_N is high. -/
def State.brownOut (s : State) (r : Rail) : State :=
  let t := if s.pins.porstLow then s.resetPart else s.resetPart.setFlag clkRstwhy (railBit r) true
  { t with pins := { t.pins with brown := if t.pins.brown.contains r then t.pins.brown else r :: t.pins.brown } }

/-- BROWN_OUT (R362). -/
def execBrownOut (r : Rail) (s : State) : Result := .next (s.brownOut r)

/-- DEV_PKG.FLV (R384, R390). -/
def flvCode : Viofl → Nat
  | .v18 => 0
  | .v33 => 1
  | .outOfRange => 3

/-- What start-up samples (R364, R383, R384, R311): PAIR_ID, of which an undefined level is a free value, VIOFL, and
READ_VOUT, which gives V0 (read with the reset values of AGE_PMB). -/
def State.sample (s : State) (pairId : Option Bool) (viofl : Viofl) (vout : BitVec 16) : State :=
  let id := pairId.getD (Config.freeBool s.free)
  let s := if pairId.isNone then s.spend else s
  let s := ((s.onPair fun p => { p with ownId := id }).setFld devPkg 1 0 (flvCode viofl)).setFld agePlan 17 8 (ulinear16 0x17 vout)
  let s := { s with pins := { s.pins with viofl := viofl } }
  (s.emit (.pmbus 0x40 true .readVout)).onAge fun a => { a with v0 := ulinear16 0x17 vout, unconfirmed := false }

/-- PORST_RELEASE (R364): start-up begins unless a rail is out of its range. -/
def State.release (s : State) (pairId : Option Bool) (viofl : Viofl) (vout : BitVec 16) : State :=
  let s := { (s.setFlag clkRstwhy 0 true) with pins := { s.pins with porstLow := false } }
  if s.pins.brown = [] then s.sample pairId viofl vout else s

/-- PORST_RELEASE (R364). -/
def execPorstRelease (pairId : Option Bool) (viofl : Viofl) (vout : BitVec 16) (s : State) : Result :=
  .next (if s.pins.porstLow then s.release pairId viofl vout else s)

/-- BROWN_OUT_END (R362, R364): every rail is in range, and with PORST_N high start-up begins. Where the record was lost while VIO33
was below 1.5 V, CLK_RSTWHY shows the cause of this reset again: the rails that are now back in range (R363; DEDUCED, log
entry 93). -/
def State.brownEnd (s : State) (pairId : Option Bool) (viofl : Viofl) (vout : BitVec 16) : State :=
  let s := if s.reg clkRstwhy = 0 then s.pins.brown.foldl (fun (s : State) r => s.setFlag clkRstwhy (railBit r) true) s else s
  ({ s with pins := { s.pins with brown := [] } }).sample pairId viofl vout

/-- BROWN_OUT_END (R362). -/
def execBrownOutEnd (pairId : Option Bool) (viofl : Viofl) (vout : BitVec 16) (s : State) : Result :=
  .next (if s.pins.porstLow ∨ s.pins.brown = [] then s else s.brownEnd pairId viofl vout)

/-- TAP_RESET (R362): only the test logic. -/
def execTapReset (s : State) : Result := .next { s with pins := { s.pins with testReset := true } }

/-- VIO33_RETENTION_LOSS (R363). -/
def execVio33RetentionLoss (s : State) : Result := .next (s.setReg clkRstwhy 0)

/-- The loader starts (R252, R364, R384): memory is cleared; with VIOFL out of range there is no discovery. -/
def State.startLoader (s : State) : State :=
  let s := { s with mem := [], check := [] }
  if s.pins.viofl = .outOfRange then s.rejectBoth 1 else s.toPhase 1

/-- PLL_T_LOCK (R355, R364): the time base starts at 0, and the loader starts unless REFRDY came too late. The planner's rounds
start 1 ms after PORST_N was released, which is at most 50 µs before this lock: how much is a free value (R311; log
entry 91). -/
def State.lock (s : State) : State :=
  let s := (s.setFlag clkStat 0 true).onClk fun k => { k with running := true, tb := 0 }
  let s := (s.onAge fun a => { a with roundAt := 1000000 - Config.freeNat s.free % 50001 }).spend
  if s.ldr.barred then s else s.startLoader

/-- PLL_T_LOCK (R355). -/
def execPllTLock (s : State) : Result := .next (if s.inReset ∨ s.clk.running then s else s.lock)

/-- REFRDY_TIMEOUT (R364). -/
def execRefrdyTimeout (s : State) : Result :=
  .next (if s.inReset ∨ s.clk.running then s else s.onLdr fun l => { l with barred := true })

/-- The place of a reference's READY bit in CLK_STAT; its LOST flag stands four bits higher (R368). -/
def refBit : RefClk → Nat
  | .ref => 0
  | .eth => 1
  | .mir => 2

/-- The READY bit falls (R352, R370): LOST, and event 964 when LOST was 0. -/
def State.loseReady (s : State) (r : RefClk) : State :=
  let was := s.flag clkStat (refBit r + 4)
  let s := (s.setFlag clkStat (refBit r) false).setFlag clkStat (refBit r + 4) true
  if was then s else s.occur 964

/-- What follows a loss (R353): holdover and the host link down; every port down; the sympathy link DOWN. -/
def State.lossOf (s : State) : RefClk → State
  | .ref => (faultEdge s (s.setFlag clkStat 3 true)).resetHost .linkDown
  | .eth => (range 0 4).foldl (fun (s : State) p => s.portDown p) s
  | .mir => if s.pairMode then s.lostLink else s

/-- REFERENCE_LOSS (R352, R353). -/
def execReferenceLoss (r : RefClk) (s : State) : Result :=
  .next (if s.flag clkStat (refBit r) then (s.loseReady r).lossOf r else s)

/-- A reference is ready (R352, R353): HOLDOVER is cleared with REFRDY. -/
def State.relock (s : State) (r : RefClk) : State :=
  let s := s.setFlag clkStat (refBit r) true
  if r = .ref then s.setFlag clkStat 3 false else s

/-- REFERENCE_RELOCK (R353); the first lock of PLL_T is PLL_T_LOCK. -/
def execReferenceRelock (r : RefClk) (s : State) : Result :=
  .next (if s.inReset ∨ (r = .ref ∧ !s.clk.running) then s else s.relock r)

end Sys2Proof.Machine
end

