-- ==== Sys2Proof/Machine/Dispatch.lean ====
section
/-!
DEFINITION. The meaning of each command: one arm for each row of spec/opcode_table.json.
-/
namespace Sys2Proof.Machine

/-- The effect of a command on everything but the queue. -/
def exec (i : Instr) (s : State) : Host.Outcome State Fault Refusal :=
  match i with
  | .move c => Sys2Proof.Machine.execMove c s
  | .windowAccess c => Sys2Proof.Machine.execWindowAccess c s
  | .immhWrite c => Sys2Proof.Machine.execImmhWrite c s
  | .coreModeWrite c => Sys2Proof.Machine.execCoreModeWrite c s
  | .add c => Sys2Proof.Machine.execAdd c s
  | .addc c => Sys2Proof.Machine.execAddc c s
  | .sub c => Sys2Proof.Machine.execSub c s
  | .subc c => Sys2Proof.Machine.execSubc c s
  | .and c => Sys2Proof.Machine.execAnd c s
  | .or c => Sys2Proof.Machine.execOr c s
  | .xor c => Sys2Proof.Machine.execXor c s
  | .andn c => Sys2Proof.Machine.execAndn c s
  | .shl c => Sys2Proof.Machine.execShl c s
  | .shr c => Sys2Proof.Machine.execShr c s
  | .sar c => Sys2Proof.Machine.execSar c s
  | .rol c => Sys2Proof.Machine.execRol c s
  | .min c => Sys2Proof.Machine.execMin c s
  | .max c => Sys2Proof.Machine.execMax c s
  | .minu c => Sys2Proof.Machine.execMinu c s
  | .maxu c => Sys2Proof.Machine.execMaxu c s
  | .neg c => Sys2Proof.Machine.execNeg c s
  | .abs c => Sys2Proof.Machine.execAbs c s
  | .pass c => Sys2Proof.Machine.execPass c s
  | .sext c => Sys2Proof.Machine.execSext c s
  | .dadj c => Sys2Proof.Machine.execDadj c s
  | .dadjl c => Sys2Proof.Machine.execDadjl c s
  | .dsbj c => Sys2Proof.Machine.execDsbj c s
  | .dsbjl c => Sys2Proof.Machine.execDsbjl c s
  | .mul c => Sys2Proof.Machine.execMul c s
  | .mulu c => Sys2Proof.Machine.execMulu c s
  | .div c => Sys2Proof.Machine.execDiv c s
  | .divu c => Sys2Proof.Machine.execDivu c s
  | .rem c => Sys2Proof.Machine.execRem c s
  | .remu c => Sys2Proof.Machine.execRemu c s
  | .fmac c => Sys2Proof.Machine.execFmac c s
  | .fmsu c => Sys2Proof.Machine.execFmsu c s
  | .fmpy c => Sys2Proof.Machine.execFmpy c s
  | .fadd c => Sys2Proof.Machine.execFadd c s
  | .fsub c => Sys2Proof.Machine.execFsub c s
  | .fsts c => Sys2Proof.Machine.execFsts c s
  | .fstw c => Sys2Proof.Machine.execFstw c s
  | .fshr c => Sys2Proof.Machine.execFshr c s
  | .btst c => Sys2Proof.Machine.execBtst c s
  | .bset c => Sys2Proof.Machine.execBset c s
  | .bclr c => Sys2Proof.Machine.execBclr c s
  | .binv c => Sys2Proof.Machine.execBinv c s
  | .bcnt c => Sys2Proof.Machine.execBcnt c s
  | .bffs c => Sys2Proof.Machine.execBffs c s
  | .bext c => Sys2Proof.Machine.execBext c s
  | .bswap c => Sys2Proof.Machine.execBswap c s
  | .bld c => Sys2Proof.Machine.execBld c s
  | .bldn c => Sys2Proof.Machine.execBldn c s
  | .band c => Sys2Proof.Machine.execBand c s
  | .bandn c => Sys2Proof.Machine.execBandn c s
  | .bor c => Sys2Proof.Machine.execBor c s
  | .born c => Sys2Proof.Machine.execBorn c s
  | .bxor c => Sys2Proof.Machine.execBxor c s
  | .bout c => Sys2Proof.Machine.execBout c s
  | .boutn c => Sys2Proof.Machine.execBoutn c s
  | .bsetm c => Sys2Proof.Machine.execBsetm c s
  | .bclrm c => Sys2Proof.Machine.execBclrm c s
  | .btas c => Sys2Proof.Machine.execBtas c s
  | .btac c => Sys2Proof.Machine.execBtac c s
  | .bget c => Sys2Proof.Machine.execBget c s
  | .bput c => Sys2Proof.Machine.execBput c s
  | .ld c => Sys2Proof.Machine.execLd c s
  | .st c => Sys2Proof.Machine.execSt c s
  | .cax c => Sys2Proof.Machine.execCax c s
  | .faa c => Sys2Proof.Machine.execFaa c s
  | .gath c => Sys2Proof.Machine.execGath c s
  | .gcan c => Sys2Proof.Machine.execGcan c s
  | .dmovs c => Sys2Proof.Machine.execDmovs c s
  | .dadds c => Sys2Proof.Machine.execDadds c s
  | .dsubs c => Sys2Proof.Machine.execDsubs c s
  | .dcmps c => Sys2Proof.Machine.execDcmps c s
  | .dmuld c => Sys2Proof.Machine.execDmuld c s
  | .dshrs c => Sys2Proof.Machine.execDshrs c s
  | .dshrt c => Sys2Proof.Machine.execDshrt c s
  | .dsgn c => Sys2Proof.Machine.execDsgn c s
  | .dcvtb c => Sys2Proof.Machine.execDcvtb c s
  | .dcvtd c => Sys2Proof.Machine.execDcvtd c s
  | .bmove c => Sys2Proof.Machine.execBmove c s
  | .bfill c => Sys2Proof.Machine.execBfill c s
  | .bscan c => Sys2Proof.Machine.execBscan c s
  | .bscann c => Sys2Proof.Machine.execBscann c s
  | .jmp c => Sys2Proof.Machine.execJmp c s
  | .call c => Sys2Proof.Machine.execCall c s
  | .jmpa c => Sys2Proof.Machine.execJmpa c s
  | .calla c => Sys2Proof.Machine.execCalla c s
  | .ret c => Sys2Proof.Machine.execRet c s
  | .fence c => Sys2Proof.Machine.execFence c s
  | .fenceRelease c => Sys2Proof.Machine.execFenceRelease c s
  | .iflush c => Sys2Proof.Machine.execIflush c s
  | .eret c => Sys2Proof.Machine.execEret c s
  | .svc c => Sys2Proof.Machine.execSvc c s
  | .icacheRefill c => Sys2Proof.Machine.execIcacheRefill c s
  | .unitCompletion c u => Sys2Proof.Machine.execUnitCompletion c u s
  | .divideCompletion c => Sys2Proof.Machine.execDivideCompletion c s
  | .dsuCompletion c => Sys2Proof.Machine.execDsuCompletion c s
  | .dsuMicrostoreParity c => Sys2Proof.Machine.execDsuMicrostoreParity c s
  | .gtuElementCompletion c => Sys2Proof.Machine.execGtuElementCompletion c s
  | .storeRetirement c => Sys2Proof.Machine.execStoreRetirement c s
  | .storePerformed c k => Sys2Proof.Machine.execStorePerformed c k s
  | .partialOverlapStallEnd c => Sys2Proof.Machine.execPartialOverlapStallEnd c s
  | .eventOccurrence n => Sys2Proof.Machine.execEventOccurrence n s
  | .evinOccurrence n => Sys2Proof.Machine.execEvinOccurrence n s
  | .tenantTimer c => Sys2Proof.Machine.execTenantTimer c s
  | .eventAcceptance c held => Sys2Proof.Machine.execEventAcceptance c held s
  | .trapAcceptance c held => Sys2Proof.Machine.execTrapAcceptance c held s
  | .frameBoundary => Sys2Proof.Machine.execFrameBoundary s
  | .slotOpen c k => Sys2Proof.Machine.execSlotOpen c k s
  | .tenantEnd c slack => Sys2Proof.Machine.execTenantEnd c slack s
  | .budgetFault c held => Sys2Proof.Machine.execBudgetFault c held s
  | .paceFault c held => Sys2Proof.Machine.execPaceFault c held s
  | .slotClose c => Sys2Proof.Machine.execSlotClose c s
  | .sentrySlot c => Sys2Proof.Machine.execSentrySlot c s
  | .selfTestComplete c firstFailing => Sys2Proof.Machine.execSelfTestComplete c firstFailing s
  | .housekeepingSlot c => Sys2Proof.Machine.execHousekeepingSlot c s
  | .housekeepingOverrun c steps => Sys2Proof.Machine.execHousekeepingOverrun c steps s
  | .digestCompletion => Sys2Proof.Machine.execDigestCompletion s
  | .verdictPoint => Sys2Proof.Machine.execVerdictPoint s
  | .transmitPoint p => Sys2Proof.Machine.execTransmitPoint p s
  | .outputFrameSent p => Sys2Proof.Machine.execOutputFrameSent p s
  | .inputCutoff => Sys2Proof.Machine.execInputCutoff s
  | .frameReceived p bytes fcsOk => Sys2Proof.Machine.execFrameReceived p bytes fcsOk s
  | .parseWritePerformed p => Sys2Proof.Machine.execParseWritePerformed p s
  | .receiveTimeout e => Sys2Proof.Machine.execReceiveTimeout e s
  | .txQueueItemSend p => Sys2Proof.Machine.execTxQueueItemSend p s
  | .portLinkDown p => Sys2Proof.Machine.execPortLinkDown p s
  | .portLinkUp p speed => Sys2Proof.Machine.execPortLinkUp p speed s
  | .ident m h => Sys2Proof.Machine.execIdent m h s
  | .join frame h => Sys2Proof.Machine.execJoin frame h s
  | .pending bits h => Sys2Proof.Machine.execPending bits h s
  | .actset set h => Sys2Proof.Machine.execActset set h s
  | .swap target crc h => Sys2Proof.Machine.execSwap target crc h s
  | .swapack target equal h => Sys2Proof.Machine.execSwapack target equal h s
  | .handover frame h => Sys2Proof.Machine.execHandover frame h s
  | .yield h => Sys2Proof.Machine.execYield h s
  | .drop h => Sys2Proof.Machine.execDrop h s
  | .frame0 instant h => Sys2Proof.Machine.execFrame0 instant h s
  | .leave reason h => Sys2Proof.Machine.execLeave reason h s
  | .digest m h => Sys2Proof.Machine.execDigest m h s
  | .input off ws h => Sys2Proof.Machine.execInput off ws h s
  | .mirror off ws h => Sys2Proof.Machine.execMirror off ws h s
  | .shared off ws h => Sys2Proof.Machine.execShared off ws h s
  | .event ws h => Sys2Proof.Machine.execEvent ws h s
  | .hostw writes h => Sys2Proof.Machine.execHostw writes h s
  | .syncRequest t1 h => Sys2Proof.Machine.execSyncRequest t1 h s
  | .syncReply t1 t2 t3 h => Sys2Proof.Machine.execSyncReply t1 t2 t3 h s
  | .reservedPacket ty h => Sys2Proof.Machine.execReservedPacket ty h s
  | .syncTimer => Sys2Proof.Machine.execSyncTimer s
  | .timeBaseSlew => Sys2Proof.Machine.execTimeBaseSlew s
  | .eventDelivery n => Sys2Proof.Machine.execEventDelivery n s
  | .nakReceived ack => Sys2Proof.Machine.execNakReceived ack s
  | .replayTimeout => Sys2Proof.Machine.execReplayTimeout s
  | .blockError => Sys2Proof.Machine.execBlockError s
  | .laneSignalDetect => Sys2Proof.Machine.execLaneSignalDetect s
  | .blockLock => Sys2Proof.Machine.execBlockLock s
  | .laneAlign skew => Sys2Proof.Machine.execLaneAlign skew s
  | .linkDown => Sys2Proof.Machine.execLinkDown s
  | .partnerSilent pwHigh => Sys2Proof.Machine.execPartnerSilent pwHigh s
  | .takeover pwHigh => Sys2Proof.Machine.execTakeover pwHigh s
  | .waitupExpiry => Sys2Proof.Machine.execWaitupExpiry s
  | .sentinelRound readings => Sys2Proof.Machine.execSentinelRound readings s
  | .readVoutPoll => Sys2Proof.Machine.execReadVoutPoll s
  | .pmbusResponse r => Sys2Proof.Machine.execPmbusResponse r s
  | .voutConfirmTimeout => Sys2Proof.Machine.execVoutConfirmTimeout s
  | .firstPlanTimeout => Sys2Proof.Machine.execFirstPlanTimeout s
  | .delayCodeScrub upsets => Sys2Proof.Machine.execDelayCodeScrub upsets s
  | .headLogInterval => Sys2Proof.Machine.execHeadLogInterval s
  | .memoryScrub loc found => Sys2Proof.Machine.execMemoryScrub loc found s
  | .temperatureUpdate tj => Sys2Proof.Machine.execTemperatureUpdate tj s
  | .porstAssert => Sys2Proof.Machine.execPorstAssert s
  | .brownOut r => Sys2Proof.Machine.execBrownOut r s
  | .porstRelease pairId viofl vout => Sys2Proof.Machine.execPorstRelease pairId viofl vout s
  | .tapReset => Sys2Proof.Machine.execTapReset s
  | .pllTLock => Sys2Proof.Machine.execPllTLock s
  | .refrdyTimeout => Sys2Proof.Machine.execRefrdyTimeout s
  | .referenceLoss r => Sys2Proof.Machine.execReferenceLoss r s
  | .referenceRelock r => Sys2Proof.Machine.execReferenceRelock r s
  | .ptpSecondWrap => Sys2Proof.Machine.execPtpSecondWrap s
  | .ppsOutFall => Sys2Proof.Machine.execPpsOutFall s
  | .ppsInCapture => Sys2Proof.Machine.execPpsInCapture s
  | .discovery tables => Sys2Proof.Machine.execDiscovery tables s
  | .flashReadRetry addr => Sys2Proof.Machine.execFlashReadRetry addr s
  | .header => Sys2Proof.Machine.execHeader s
  | .read => Sys2Proof.Machine.execRead s
  | .verify => Sys2Proof.Machine.execVerify s
  | .relocate => Sys2Proof.Machine.execRelocate s
  | .setUp => Sys2Proof.Machine.execSetUp s
  | .sealSetUp => Sys2Proof.Machine.execSealSetUp s
  | .bankReject => Sys2Proof.Machine.execBankReject s
  | .barRead b off whole => Sys2Proof.Machine.execBarRead b off whole s
  | .barHighWrite b off v q => Sys2Proof.Machine.execBarHighWrite b off v q s
  | .bar2Write off v q => Sys2Proof.Machine.execBar2Write off v q s
  | .registerWrite b off v q => Sys2Proof.Machine.execRegisterWrite b off v q s
  | .doorbell n => Sys2Proof.Machine.execDoorbell n s
  | .msixUnmask v => Sys2Proof.Machine.execMsixUnmask v s
  | .hostInterfaceReset k => Sys2Proof.Machine.execHostInterfaceReset k s
  | .nop k tag irq => Sys2Proof.Machine.execNop k tag irq s
  | .treset k tag irq => Sys2Proof.Machine.execTreset k tag irq s
  | .qflush k tag irq => Sys2Proof.Machine.execQflush k tag irq s
  | .abort k => Sys2Proof.Machine.execAbort k s
  | .flread k tag irq => Sys2Proof.Machine.execFlread k tag irq s
  | .flerase k tag irq => Sys2Proof.Machine.execFlerase k tag irq s
  | .flprog k tag irq => Sys2Proof.Machine.execFlprog k tag irq s
  | .selftest k tag irq => Sys2Proof.Machine.execSelftest k tag irq s
  | .snapshot k tag irq => Sys2Proof.Machine.execSnapshot k tag irq s
  | .commandCompletion k e => Sys2Proof.Machine.execCommandCompletion k e s
  | .arm => Sys2Proof.Machine.execArm s
  | .cancel => Sys2Proof.Machine.execCancel s
  | .copy => Sys2Proof.Machine.execCopy s
  | .swapCheckComplete => Sys2Proof.Machine.execSwapCheckComplete s
  | .copyComplete => Sys2Proof.Machine.execCopyComplete s
  | .mirDrop => Sys2Proof.Machine.execMirDrop s
  | .mirHandover => Sys2Proof.Machine.execMirHandover s
  | .mirJoin => Sys2Proof.Machine.execMirJoin s
  | .ptpLoad => Sys2Proof.Machine.execPtpLoad s
  | .ptpStep => Sys2Proof.Machine.execPtpStep s
  | .clkOutselWrite v => Sys2Proof.Machine.execClkOutselWrite v s
  | .clkTbloRead => Sys2Proof.Machine.execClkTbloRead s
  | .clkPtp0Read => Sys2Proof.Machine.execClkPtp0Read s
  | .smbusSnapshot pec => Sys2Proof.Machine.execSmbusSnapshot pec s
  | .smbusIdentity pec => Sys2Proof.Machine.execSmbusIdentity pec s
  | .snapshotBuild => Sys2Proof.Machine.execSnapshotBuild s
  | .idleBlock h => Sys2Proof.Machine.execIdleBlock h s
  | .discardedPacket why => Sys2Proof.Machine.execDiscardedPacket why s
  | .clkoutSwitchComplete => Sys2Proof.Machine.execClkoutSwitchComplete s
  | .brownOutEnd pairId viofl vout => Sys2Proof.Machine.execBrownOutEnd pairId viofl vout s
  | .vio33RetentionLoss => Sys2Proof.Machine.execVio33RetentionLoss s

end Sys2Proof.Machine
end

