-- ==== Sys2Proof/Safety.lean ====
section
/-!
DEFINITION. What claims say of states and runs: the canonical form of the state's memories, which parts of the state a
command touches, and the outcomes that count as safe.
-/
namespace Sys2Proof.Machine

/-- Memory in canonical form: addresses strictly rising, and no word listed that is 0, what an unlisted word reads as (log
entry 1). -/
def Memory.wf (m : Map Word) : Bool := Map.wf 0 m

/-- The state's word memories are in canonical form: the physical memory and the two swappable sets. -/
def State.wf (s : State) : Bool := Memory.wf s.mem && Memory.wf s.recto && Memory.wf s.verso

/-- The parts of the state, one for each field of State. -/
inductive Part where
  | pending | free | out | pins | regs | lv | recto | verso | mem | check | flash | cores
  | ctxs | patch | events | deliver | frm | ldr | pair | age | host | snap | ports | timers
  | clk
  deriving DecidableEq, Repr

/-- A part is as before. Physical memory is as before when every word of it reads as before. -/
def Part.same (p : Part) (s t : State) : Prop :=
  match p with
  | .pending => t.pending = s.pending
  | .free => t.free = s.free
  | .out => t.out = s.out
  | .pins => t.pins = s.pins
  | .regs => t.regs = s.regs
  | .lv => t.lv = s.lv
  | .recto => t.recto = s.recto
  | .verso => t.verso = s.verso
  | .mem => ∀ a, t.peek a = s.peek a
  | .check => t.check = s.check
  | .flash => t.flash = s.flash
  | .cores => t.cores = s.cores
  | .ctxs => t.ctxs = s.ctxs
  | .patch => t.patch = s.patch
  | .events => t.events = s.events
  | .deliver => t.deliver = s.deliver
  | .frm => t.frm = s.frm
  | .ldr => t.ldr = s.ldr
  | .pair => t.pair = s.pair
  | .age => t.age = s.age
  | .host => t.host = s.host
  | .snap => t.snap = s.snap
  | .ports => t.ports = s.ports
  | .timers => t.timers = s.timers
  | .clk => t.clk = s.clk

/-- From `s` to `t` only the listed parts change, and memories in canonical form stay so. -/
def Touches (l : List Part) (s t : State) : Prop := (∀ p, p ∉ l → p.same s t) ∧ (s.wf → t.wf)

/-- An outcome that is a next state touches only the listed parts. -/
def TouchesR (l : List Part) (s : State) (r : Result) : Prop := ∀ t, r = .next t → Touches l s t

/-- The command that issues the words of an operation. -/
def cmdOf (op : Op) (c : CoreId) : Instr :=
  match op with
  | .move => .move c
  | .window => .windowAccess c
  | .immh => .immhWrite c
  | .coreMode => .coreModeWrite c
  | .alu .add => .add c
  | .alu .addc => .addc c
  | .alu .sub => .sub c
  | .alu .subc => .subc c
  | .alu .and => .and c
  | .alu .or => .or c
  | .alu .xor => .xor c
  | .alu .andn => .andn c
  | .alu .shl => .shl c
  | .alu .shr => .shr c
  | .alu .sar => .sar c
  | .alu .rol => .rol c
  | .alu .min => .min c
  | .alu .max => .max c
  | .alu .minu => .minu c
  | .alu .maxu => .maxu c
  | .alu .neg => .neg c
  | .alu .abs => .abs c
  | .alu .pass => .pass c
  | .alu .sext => .sext c
  | .alu .dadj => .dadj c
  | .alu .dadjl => .dadjl c
  | .alu .dsbj => .dsbj c
  | .alu .dsbjl => .dsbjl c
  | .mul .mul => .mul c
  | .mul .mulu => .mulu c
  | .mul .div => .div c
  | .mul .divu => .divu c
  | .mul .rem => .rem c
  | .mul .remu => .remu c
  | .fxu .fmac => .fmac c
  | .fxu .fmsu => .fmsu c
  | .fxu .fmpy => .fmpy c
  | .fxu .fadd => .fadd c
  | .fxu .fsub => .fsub c
  | .fxu .fsts => .fsts c
  | .fxu .fstw => .fstw c
  | .fxu .fshr => .fshr c
  | .blu .btst => .btst c
  | .blu .bset => .bset c
  | .blu .bclr => .bclr c
  | .blu .binv => .binv c
  | .blu .bcnt => .bcnt c
  | .blu .bffs => .bffs c
  | .blu .bext => .bext c
  | .blu .bswap => .bswap c
  | .blu .bld => .bld c
  | .blu .bldn => .bldn c
  | .blu .band => .band c
  | .blu .bandn => .bandn c
  | .blu .bor => .bor c
  | .blu .born => .born c
  | .blu .bxor => .bxor c
  | .blu .bout => .bout c
  | .blu .boutn => .boutn c
  | .blu .bsetm => .bsetm c
  | .blu .bclrm => .bclrm c
  | .blu .btas => .btas c
  | .blu .btac => .btac c
  | .blu .bget => .bget c
  | .blu .bput => .bput c
  | .lsu .ld => .ld c
  | .lsu .st => .st c
  | .lsu .cax => .cax c
  | .lsu .faa => .faa c
  | .gtu .gath => .gath c
  | .gtu .gcan => .gcan c
  | .dsu .dmovs => .dmovs c
  | .dsu .dadds => .dadds c
  | .dsu .dsubs => .dsubs c
  | .dsu .dcmps => .dcmps c
  | .dsu .dmuld => .dmuld c
  | .dsu .dshrs => .dshrs c
  | .dsu .dshrt => .dshrt c
  | .dsu .dsgn => .dsgn c
  | .dsu .dcvtb => .dcvtb c
  | .dsu .dcvtd => .dcvtd c
  | .dsu .bmove => .bmove c
  | .dsu .bfill => .bfill c
  | .dsu .bscan => .bscan c
  | .dsu .bscann => .bscann c
  | .ctl .jmp => .jmp c
  | .ctl .call => .call c
  | .ctl .jmpa => .jmpa c
  | .ctl .calla => .calla c
  | .ctl .ret => .ret c
  | .ctl .fence => .fence c
  | .ctl .iflush => .iflush c
  | .ctl .eret => .eret c
  | .ctl .svc => .svc c

/-- Tenant `t` is one of the part's 1,024, and every word inside its segments exists and is one the core may reach: what
the loader assures (R161). -/
def State.populated (s : State) (c t : Nat) : Prop :=
  t < 1024 ∧ ∀ g k off, g < 16 → (s.seg t g).cls ≠ 0 → off < (s.seg t g).limit → target c ((s.seg t g).phys k off) ≠ none

/-- The next word of core `c`, in deterministic mode, is `x` at a physical address, and it issues in the present step: FE holds it,
or fetches it in the step before (R41, R42); no gather or DSU operation is in progress, no CORE_MODE write waits, and what
surely happens before this step has happened. -/
def State.atWord (s : State) (c : Nat) (x : Word) (phys : Nat) : Prop :=
  let k := s.core c
  (s.canIssue c = true ∧ s.det c = true ∧ k.modeChange = none ∧ k.gathers = [] ∧ k.dsu = none ∧ k.miss = none ∧
    s.settled c k.now = true) ∧
  ((∃ w, k.front = [w] ∧ w.pc = k.pc ∧ w.at_ < k.now ∧ w.got = .word x phys) ∨
    (k.front = [] ∧ k.paStep < k.now ∧ s.access (s.tenant c) (bits k.pc 23 20) .fetch .fetch (bits k.pc 19 0) = .ok phys ∧
      (target c phys = some .sp ∨ target c phys = some .ob) ∧ s.bad phys = none ∧ s.peek phys = x))

/-- The step before which an operation of a unit cannot complete: that of the unit's operation triggered before it (R33). -/
def Core.turn (k : Core) (u : FU) : Nat := ((lastFlight u k.flights).map (·.due)).getD 0

/-- A fetched word whose error is logged even where the word is discarded (R150): an uncorrectable one. -/
def FWord.logged (w : FWord) : Bool :=
  match w.got with
  | .trap 15 _ _ => true
  | _ => false

/-- The last thing a device has driven out is a packet, with the blocks of R272 and R273. -/
def State.lastSent (s : State) (p : Packet) (ack : BitVec 12) : Prop := ∃ l, s.out = .packet p (p.blocks ack) :: l

/-- No packet has gone out between two states. -/
def noPacket (s t : State) : Prop := ∀ p b, .packet p b ∈ t.out → .packet p b ∈ s.out

/-- The place of one move of an issue that acts. -/
def Ready.place (r : Ready) (c : Nat) (m : Move) : At := ⟨c, r.t, r.step, m.pc, m.phys, r.flg, m.mv.dst.toNat⟩

/-- A move of an issue that acts triggers `tr` with operand `w`: its guard holds and its destination is that trigger. -/
def Ready.triggers (r : Ready) (m : Move) (tr : Trigger) (w : Word) : Prop :=
  (m, some w) ∈ r.vs ∧ sockOf m.mv.dst.toNat = .trig tr

/-- A move of an issue that acts triggers `tr` with operand `w`, and no other move of the issue names a trigger. -/
def Ready.only (r : Ready) (m : Move) (tr : Trigger) (w : Word) : Prop :=
  r.triggers m tr w ∧ ∀ x ∈ r.vs, x.1 ≠ m → mvTriggers x.1.mv = false

/-- Core `c` enters `e` (R212, R213): from `s`, in which its tenant waits at `ret`, to `t`, in which the handler's first word
is next. The frame stands at 8 × DEPTH of SSEG; DEPTH, level, TOPSEG and, for a routed event, CPRI are the handler's. -/
def Enters (c : Nat) (e : Entry) (ret : PAddr) (s t : State) : Prop :=
  let u := s.tenant c
  let tc := s.reg (evtTctx u)
  let d := s.reg (evtDesc c (bits tc 39 39) e.desc)
  let a := (s.seg u (bits d 37 34)).base + 8 * bits tc 27 24
  let k := t.core c
  (k.pc = BitVec.ofNat 24 (bits d 23 0) ∧ k.trap = none ∧ k.hold = [] ∧ k.flights = [] ∧ k.dsu = none ∧ k.gathers = [] ∧
    k.front = [] ∧ k.miss = none ∧ k.modeChange = none ∧ k.tenant = (s.core c).tenant) ∧
  (t.level u = 2 * bits tc 39 39 + bits d 38 38 ∧ t.fld (evtTctx u) 31 28 = bits d 37 34 ∧
    t.fld (evtTctx u) 27 24 = bits tc 27 24 + 1 ∧ t.fld (evtTctx u) 39 39 = bits tc 39 39 ∧
    t.fld (evtTctx u) 36 32 = if e.kind = 0 then e.pri % 32 else bits tc 36 32) ∧
  (bits (t.peek a) 39 30 = 0 ∧ bits (t.peek a) 29 25 = bits tc 36 32 ∧ bits (t.peek a) 24 24 = bits tc 37 37 ∧
    bits (t.peek a) 23 0 = ret.toNat ∧ t.peek (a + 1) = s.sock u 0x22 ∧ bits (t.peek (a + 2)) 39 38 = e.kind % 4 ∧
    bits (t.peek (a + 2)) 36 32 = e.code % 32 ∧ bits (t.peek (a + 2)) 13 10 = e.pri % 16 ∧
    bits (t.peek (a + 2)) 9 0 = e.evnum % 1024 ∧ t.peek (a + 3) = word (e.fpc % 2 ^ 28) ∧ t.peek (a + 4) = e.detail ∧
    t.peek (a + 5) = word (bits tc 31 28) ∧ t.peek (a + 6) = s.sock u 0x20 ∧
    bits (t.peek (a + 7)) 23 0 = bits (s.sock u 0x30) 23 0 ∧
    ∀ i, i < 8 → bit (t.peek (a + 7)) (24 + i) = bit (s.sock u (0x380 + i)) 0) ∧
  (∀ n, n < 0x242 ∨ 0x285 ≤ n → t.sock u n = s.sock u n) ∧
  (e.kind ≠ 0 → t.reg (coreTrapsk c) = word e.sk ∧ t.reg (coreTrappc c) = word (e.fpc % 2 ^ 28))

/-- A flag update changes exactly the flags of a list. -/
def FlagUpd.names (u : FlagUpd) (l : List Nat) : Prop := ∀ i, bit u.mask i = true ↔ i ∈ l

/-- A flag update gives a flag a value. -/
def FlagUpd.gives (u : FlagUpd) (f : Nat) (b : Bool) : Prop := bit u.mask f = true ∧ bit u.val f = b

/-- The acknowledgement fields of a command that is a packet of the sympathy link (R273); none of any other command. -/
def ackOf (i : Instr) : Option Ack :=
  match i with
  | .ident _ h => some h
  | .join _ h => some h
  | .pending _ h => some h
  | .actset _ h => some h
  | .swap _ _ h => some h
  | .swapack _ _ h => some h
  | .handover _ h => some h
  | .yield h => some h
  | .drop h => some h
  | .frame0 _ h => some h
  | .leave _ h => some h
  | .digest _ h => some h
  | .input _ _ h => some h
  | .mirror _ _ h => some h
  | .shared _ _ h => some h
  | .event _ h => some h
  | .hostw _ h => some h
  | .syncRequest _ h => some h
  | .syncReply _ _ _ h => some h
  | .reservedPacket _ h => some h
  | _ => none

/-- A command completes: it answers a next state. -/
def Completes (i : Instr) (s : State) : Prop := ∃ t, exec i s = .next t

/-- `n` steps, as far as they go on. -/
def runSteps : Nat → State → Host.Outcome State Fault Refusal
  | 0, s => .next s
  | n + 1, s =>
    match step s with
    | .next t => runSteps n t
    | .fault e => .fault e
    | .refused e => .refused e

/-- A run of `n` steps ends in a state, without a fault or a refusal. -/
def SafeRun (n : Nat) (s : State) : Prop := ∃ t, runSteps n s = .next t

end Sys2Proof.Machine
end

