-- ==== Sys2Proof/WellFormed.lean ====
section
/-!
DEFINITION. Well-formed commands: the operands are ones the spec lets the happening carry.
-/
namespace Sys2Proof

/-- A word of the swappable set that the part has (R267): CFG_TAG, CFG_PORTEN, CFG_TRUNn, the exchange entries. -/
def setWordExists (x : Nat) : Bool :=
  x == 0 || x == 1 || (decide (0x20 ≤ x) && decide (x < 0x40)) || (decide (0x200 ≤ x) && decide (x < 0x1200))

/-- The words of a packet and their place in the set (R273, R274): 1 to 256 words. -/
def payloadOk (off : Nat) (ws : List Word) : Bool :=
  decide (off < 2 ^ 32) && decide (1 ≤ ws.length) && decide (ws.length ≤ 256)

/-- The scrubber's locations: a physical word of R154, a register's word index in BAR0. -/
def ScrubLoc.wf : ScrubLoc → Bool
  | .word a => decide (a < 0x1300000)
  | .reg r => decide (r < 0x200000)
  | .planRecord => true
  | .microstore _ => true

/-- A byte offset lies in a BAR (R315): 16 MiB, 16 MiB and 128 KiB. -/
def Bar.holds (b : Bar) (off : Nat) : Bool :=
  match b with
  | .bar0 => decide (off < 0x1000000)
  | .bar2 => decide (off < 0x1000000)
  | .bar4 => decide (off < 0x20000)

/-- The operands of a command are ones the spec lets it carry. -/
def Instr.wf : Instr → Bool
  | .frameReceived _ bs _ => decide (bs.length ≤ 9600)
  | .actset set _ => set.all fun x => setWordExists x.1
  | .input off ws _ => payloadOk off ws
  | .mirror off ws _ => payloadOk off ws
  | .shared off ws _ => payloadOk off ws
  | .event ws _ => decide (1 ≤ ws.length) && decide (ws.length ≤ 256)
  | .hostw ws _ => decide (1 ≤ ws.length) && decide (ws.length ≤ 128)
  | .sentinelRound rs => rs.length == 136
  | .memoryScrub l _ => l.wf
  | .flashReadRetry a => decide (a < 0x8000000)
  | .barRead b off whole => b.holds off && (off % 8 == 0 || (!whole && off % 4 == 0))
  | .barHighWrite b off _ _ => b.holds off && off % 8 == 4
  | .bar2Write off _ _ => Bar.bar2.holds off && off % 8 == 0
  | .registerWrite b off _ _ => b.holds off && off % 8 == 0
  | .move _ | .windowAccess _ | .immhWrite _ | .coreModeWrite _ | .add _ | .addc _ | .sub _ | .subc _ | .and _ | .or _
  | .xor _ | .andn _ | .shl _ | .shr _ | .sar _ | .rol _ | .min _ | .max _ | .minu _ | .maxu _ | .neg _ | .abs _
  | .pass _ | .sext _ | .dadj _ | .dadjl _ | .dsbj _ | .dsbjl _ | .mul _ | .mulu _ | .div _ | .divu _ | .rem _
  | .remu _ | .fmac _ | .fmsu _ | .fmpy _ | .fadd _ | .fsub _ | .fsts _ | .fstw _ | .fshr _ | .btst _ | .bset _
  | .bclr _ | .binv _ | .bcnt _ | .bffs _ | .bext _ | .bswap _ | .bld _ | .bldn _ | .band _ | .bandn _ | .bor _
  | .born _ | .bxor _ | .bout _ | .boutn _ | .bsetm _ | .bclrm _ | .btas _ | .btac _ | .bget _ | .bput _ | .ld _
  | .st _ | .cax _ | .faa _ | .gath _ | .gcan _ | .dmovs _ | .dadds _ | .dsubs _ | .dcmps _ | .dmuld _ | .dshrs _
  | .dshrt _ | .dsgn _ | .dcvtb _ | .dcvtd _ | .bmove _ | .bfill _ | .bscan _ | .bscann _ | .jmp _ | .call _ | .jmpa _
  | .calla _ | .ret _ | .fence _ | .fenceRelease _ | .iflush _ | .eret _ | .svc _ | .icacheRefill _
  | .unitCompletion _ _ | .divideCompletion _ | .dsuCompletion _ | .dsuMicrostoreParity _ | .gtuElementCompletion _
  | .storeRetirement _ | .storePerformed _ _ | .partialOverlapStallEnd _ | .eventOccurrence _ | .evinOccurrence _
  | .tenantTimer _ | .eventAcceptance _ _ | .trapAcceptance _ _ | .frameBoundary | .slotOpen _ _ | .tenantEnd _ _
  | .budgetFault _ _ | .paceFault _ _ | .slotClose _ | .sentrySlot _ | .selfTestComplete _ _ | .housekeepingSlot _
  | .housekeepingOverrun _ _ | .digestCompletion | .verdictPoint | .transmitPoint _ | .outputFrameSent _
  | .inputCutoff | .parseWritePerformed _ | .receiveTimeout _ | .txQueueItemSend _ | .portLinkDown _ | .portLinkUp _ _
  | .ident _ _ | .join _ _ | .pending _ _ | .swap _ _ _ | .swapack _ _ _ | .handover _ _ | .yield _ | .drop _
  | .frame0 _ _ | .leave _ _ | .digest _ _ | .syncRequest _ _ | .syncReply _ _ _ _ | .reservedPacket _ _ | .syncTimer
  | .timeBaseSlew | .eventDelivery _ | .nakReceived _ | .replayTimeout | .blockError | .laneSignalDetect | .blockLock
  | .laneAlign _ | .linkDown | .partnerSilent _ | .takeover _ | .waitupExpiry | .readVoutPoll | .pmbusResponse _
  | .voutConfirmTimeout | .firstPlanTimeout | .delayCodeScrub _ | .headLogInterval | .temperatureUpdate _
  | .porstAssert | .brownOut _ | .porstRelease _ _ _ | .tapReset | .pllTLock | .refrdyTimeout | .referenceLoss _
  | .referenceRelock _ | .ptpSecondWrap | .ppsOutFall | .ppsInCapture | .discovery _ | .header | .read | .verify
  | .relocate | .setUp | .sealSetUp | .bankReject | .doorbell _ | .msixUnmask _ | .hostInterfaceReset _ | .nop _ _ _
  | .treset _ _ _ | .qflush _ _ _ | .abort _ | .flread _ _ _ | .flerase _ _ _ | .flprog _ _ _ | .selftest _ _ _
  | .snapshot _ _ _ | .commandCompletion _ _ | .arm | .cancel | .copy | .swapCheckComplete | .copyComplete | .mirDrop
  | .mirHandover | .mirJoin | .ptpLoad | .ptpStep | .clkOutselWrite _ | .clkTbloRead | .clkPtp0Read | .smbusSnapshot _
  | .smbusIdentity _ | .snapshotBuild | .idleBlock _ | .discardedPacket _ | .clkoutSwitchComplete | .brownOutEnd _ _ _
  | .vio33RetentionLoss => true

end Sys2Proof
end

