-- ==== Sys2Proof/Certificates/Slice0/Obligations.lean ====
section
/-!
DEFINITION. The statements for the provers: what the spec's rules say of the commands, stated over every state and operand
that meets the conditions named.
-/
open Sys2Proof Sys2Proof.Machine

/-! ### The queue, the outcomes, reset -/

/-- A step takes the command at the front of the queue and runs it with the rest of the queue. -/
def Obligations.StepRunsFrontCommand : Prop :=
  ∀ (i : Instr) (l : List Instr) (s : State), s.pending = i :: l → step s = exec i { s with pending := l }

/-- With no command waiting the block idles (the model's choice, log entry 7): a running time base counts once, or leaves out a
count that R279 omits, and the received items that wait for their queue are tried again; with none waiting, nothing but the
clock block and the outputs changes, and a stopped time base leaves the state as it is. -/
def Obligations.EmptyQueueCounts : Prop :=
  ∀ s : State, s.pending = [] →
    (∃ t, step s = .next t ∧ t.pending = [] ∧ (s.wf = true → t.wf = true)) ∧
    ((∀ p, p < 4 → (s.port p).rxWait = []) →
      (s.clk.running = false → step s = .next s) ∧
      (s.clk.running = true → ∃ t, step s = .next t ∧ t.clk.tb = s.clk.tb + (if s.clk.owed = 0 then 1 else 0) ∧
        t.clk.owed = s.clk.owed - 1 ∧ Touches [.out, .clk] s t))

/-- Every command of every state is answered by a next state with the same queue, but for one named stop, an access that
passed its segment check and reached an address that does not exist (R154, R161), which only a core's issue, a gather
element or the reads of a DSU operation can meet. No command is refused. -/
def Obligations.EveryCommandAnswers : Prop :=
  ∀ (i : Instr) (s : State),
    (∃ t, exec i s = .next t ∧ t.pending = s.pending) ∨
    (∃ a, exec i s = .fault (.unreachable a) ∧
      ((∃ op c, i = cmdOf op c) ∨ (∃ c, i = .gtuElementCompletion c) ∨ ∃ c, i = .dsuCompletion c))

/-- The canonical form of the word memories is kept by every step. -/
def Obligations.StepKeepsCanonicalMemory : Prop :=
  ∀ s t : State, s.wf = true → step s = .next t → t.wf = true

/-! ### Instruction words -/

/-- Reading a word back from its encoding gives every format with every field at every value, and every 40-bit word is the
encoding of what it reads as: no format leaves a bit unassigned (R57 to R61). -/
def Obligations.InstructionWordsRoundTrip : Prop :=
  (∀ f : Form, decodeWord (encodeWord f) = f) ∧ ∀ w : Word, encodeWord (decodeWord w) = w

/-- The reference words of R70 and R71 and the example of R60 read as the spec's tables say, and the all-zero and the all-ones
word raise the traps that R70 names, with the socket for CORE_TRAPSK. -/
def Obligations.ReferenceWordsReadAsPrinted : Prop :=
  decodeWord 0x4011823000 = .long 0 0x023 0x023 0 ∧
  decodeWord 0x481480AFFD = .long 2 0x029 0x00A 0xFFD ∧
  decodeWord 0x8010567890 = .imm 0 0x020 0x567890 ∧
  decodeWord 0x8010802468 = .imm 0 0x021 0x02468 ∧
  decodeWord 0xEC0100C000 = .pred true 3 0x002 0x00C 0 ∧
  decodeWord 0x0022000548 = .pair 0 0x04 0x40 0 0x05 0x48 ∧
  (∀ lvl lock, decodeCheck ⟨lvl, false, lock⟩ (decodeWord 0) = some ⟨8, 0⟩) ∧
  (∀ width lock, decodeCheck ⟨0, width, lock⟩ (decodeWord 0xFFFFFFFFFF) = some ⟨3, 0x7FF⟩) ∧
  (∀ width lock, decodeCheck ⟨3, width, lock⟩ (decodeWord 0xFFFFFFFFFF) = some ⟨4, 0x7FF⟩)

/-! ### The issue of a word -/

/-- Where the next word of a deterministic-mode core is fetched and passes its checks, and names one move without a window, the
word acts in this step under the command of that move's operation: for tenant, address and FLG as they stand, with the value the
guard lets the move read. -/
def Obligations.OneMoveWordActs : Prop :=
  ∀ (c : CoreId) (s : State) (x : Word) (phys : Nat) (m : Mv),
    let k := s.core c
    let t := s.tenant c
    s.atWord c x phys → decodeCheck (s.mode c t) (decodeWord x) = none → (decodeWord x).moves = [m] →
    winOf m.dst.toNat = none → srcWin m.src = none →
    (∀ op, sockOf m.dst.toNat = .trig (.ctl op) → op ≠ .eret ∧ op ≠ .svc) →
    ∃ r, prepare (issues (mvOp m)) c s = .ready r ∧ r.t = t ∧ r.step = k.now ∧ r.pc = k.pc ∧ r.n = 1 ∧
      r.flg = s.sock t 0x22 ∧ Touches [.free, .cores, .regs] s r.s ∧ (∀ q, r.s.reg q = s.reg q) ∧
      ∃ x v, r.vs = [(x, v)] ∧ x.mv = m ∧ x.pc = k.pc ∧ x.phys = phys ∧
        (guardHolds (s.sock t 0x22) (fun i => s.sock t (0x380 + i)) m.guard = false → v = none) ∧
        (guardHolds (s.sock t 0x22) (fun i => s.sock t (0x380 + i)) m.guard = true →
          (∀ i, m.src = .imm i → v = some (i.signExtend 40)) ∧ ∀ n, m.src = .sock n → v = some (s.readSock c t n.toNat 0))

/-- A word that fails a check of R69 raises the trap of its highest failed rank and is held: under whatever issue command, the
trap with its code, its socket and the word's address waits for acceptance, and beside the core's front end nothing else of the
state changes. In deterministic mode a fetch from any place but the core's scratchpad and its own banks raises the fetch fault:
the word is not executed under any issue command (R42), with socket 0 (R69 rank 1). -/
def Obligations.UnexecutedWordsTrap : Prop :=
  let held (c : CoreId) (x : Trap) (s t : State) : Prop :=
    (t.core c).trap = some x ∧ (t.core c).pc = (s.core c).pc ∧ (t.core c).now = (s.core c).now ∧
      (t.core c).flights = (s.core c).flights ∧ (t.core c).buffer = (s.core c).buffer ∧ (t.core c).hold = (s.core c).hold ∧
      (∀ d, d ≠ c.val → t.core d = s.core d) ∧ (∀ q, t.reg q = s.reg q) ∧ Touches [.cores, .regs] s t
  (∀ (op : Op) (c : CoreId) (s : State) (x : Word) (phys : Nat) (b : Bad), s.atWord c x phys →
     decodeCheck (s.mode c (s.tenant c)) (decodeWord x) = some b →
     ∃ t, exec (cmdOf op c) s = .next t ∧ held c ⟨b.code, b.sk, phys, word b.sk, true⟩ s t) ∧
  (∀ (op : Op) (c : CoreId) (s : State) (phys : Nat),
     let k := s.core c
     s.canIssue c = true → s.det c = true → k.modeChange = none → k.gathers = [] → k.dsu = none → k.miss = none →
     s.settled c k.now = true → k.front = [] → k.paStep < k.now →
     s.access (s.tenant c) (bits k.pc 23 20) .fetch .fetch (bits k.pc 19 0) = .ok phys →
     target c phys ≠ some .sp → target c phys ≠ some .ob →
     ∃ t, exec (cmdOf op c) s = .next t ∧ held c ⟨1, 0, phys, 0, true⟩ s t)

/-- All source reads of an issue take place before any destination write, and a move whose guard fails reads nothing: the
values of an issue that acts are those of the state in which it was commanded (R28, R30, R32, R60), but for a socket that an
operation in flight is still to write, whose value is undefined (R9; log entry 42). -/
def Obligations.SourcesAreReadFirst : Prop :=
  ∀ (op : Op) (c : CoreId) (s : State) (r : Ready), prepare (issues op) c s = .ready r →
    ∀ m v, (m, some v) ∈ r.vs →
      m.on = true ∧
      (∀ i, m.mv.src = .imm i → v = i.signExtend 40) ∧
      ∀ n, m.mv.src = .sock n → (sockOf n.toNat = .rw ∨ sockOf n.toNat = .ro) → n.toNat ≠ sockDS →
        (s.core c).readsEarly n.toNat = false → v = if n.toNat = 0x23 then 0 else s.sock (s.tenant c) n.toNat

/-- MOVE: a word of plain moves. Each enabled move's value stands in the socket it names: FLG keeps its seven flags (R52), a
predicate its bit 0 (R53), ZERO discards it (R47), a core register only its RW fields (R56), every other one all 40 bits.
Sockets that no enabled move names, other contexts and memory are as before. -/
def Obligations.MoveWordCopies : Prop :=
  ∀ (c : CoreId) (s : State) (r : Ready), prepare (issues .move) c s = .ready r →
    ∃ t, exec (.move c) s = .next t ∧
      (∀ m v, (m, some v) ∈ r.vs →
        (sockOf m.mv.dst.toNat = .rw → m.mv.dst.toNat ≠ 0x22 → m.mv.dst.toNat ≠ 0x23 → accSocket m.mv.dst.toNat = none →
          t.sock r.t m.mv.dst.toNat = v) ∧
        (m.mv.dst.toNat = 0x22 → t.sock r.t 0x22 = v &&& flgMask) ∧
        (sockOf m.mv.dst.toNat = .pred → t.sock r.t m.mv.dst.toNat = word (bits v 0 0))) ∧
      (∀ n, n = 0x23 ∨ (∀ m v, (m, some v) ∈ r.vs → m.mv.dst.toNat ≠ n) → t.sock r.t n = s.sock r.t n) ∧
      (∀ u, u ≠ r.t → t.ctx u = s.ctx u) ∧ ∀ a, t.peek a = s.peek a

/-- IMMH_WRITE and CORE_MODE_WRITE. Where the next word of a deterministic-mode core is one such move with its guard open, it
completes. A write to IMMH replaces IMM[39:23] with bits 16:0 of the value and leaves IMM[22:0]
(R50). A write to CORE_MODE sets PRED_EN at once, leaves MODE, and begins the count of R45; the mode takes effect once five
more moves have issued, which invalidates the instruction cache, the history and the return stack where it changes (R46). -/
def Obligations.ImmhAndCoreModeWords : Prop :=
  (∀ (c : CoreId) (s : State) (x : Word) (phys : Nat) (m : Mv) (v : Word),
    let u := s.tenant c
    s.atWord c x phys → decodeCheck (s.mode c u) (decodeWord x) = none → (decodeWord x).moves = [m] →
    guardHolds (s.sock u 0x22) (fun i => s.sock u (0x380 + i)) m.guard = true → srcWin m.src = none →
    ((∃ i, m.src = .imm i ∧ v = i.signExtend 40) ∨ ∃ n, m.src = .sock n ∧ v = s.readSock c u n.toNat 0) →
    (m.dst = 0x21 → ∃ t, exec (.immhWrite c) s = .next t ∧ t.sock u 0x20 = putBits (s.sock u 0x20) 39 23 (bits v 16 0) ∧
      (∀ n, n ≠ 0x20 → t.sock u n = s.sock u n) ∧ (t.core c).pc = pcAdd (s.core c).pc 1 ∧
      (t.core c).now = (s.core c).now + 1 ∧ Touches [.free, .out, .regs, .cores, .ctxs, .check, .events, .deliver, .pair, .host] s t) ∧
    (m.dst = 0x340 → ∃ t, exec (.coreModeWrite c) s = .next t ∧ (t.core c).modeChange = some (0, bit v 0) ∧
      t.flag (coreMode c) 3 = bit v 3 ∧ t.flag (coreMode c) 0 = s.flag (coreMode c) 0 ∧
      (t.core c).pc = pcAdd (s.core c).pc 1 ∧ (t.core c).now = (s.core c).now + 1 ∧
      Touches [.free, .out, .regs, .cores, .check, .events, .deliver, .pair, .host] s t)) ∧
  (∀ (c : CoreId) (s : State) (r : Ready), prepare (issues .immh) c s = .ready r → s.populated c (s.tenant c) →
    ∃ t, exec (.immhWrite c) s = .next t ∧
      ∀ m v, (m, some v) ∈ r.vs → m.mv.dst = 0x21 → (∀ x ∈ r.vs, x.1.mv.dst ≠ 0x20) →
        t.sock r.t 0x20 = putBits (s.sock r.t 0x20) 39 23 (bits v 16 0)) ∧
  (∀ (c : CoreId) (s : State) (r : Ready), prepare (issues .coreMode) c s = .ready r → s.populated c (s.tenant c) →
    ∃ t, exec (.coreModeWrite c) s = .next t ∧
      ∀ m v, (m, some v) ∈ r.vs → m.mv.dst = 0x340 →
        (t.core c).modeChange = some (0, bit v 0) ∧ t.flag (coreMode c) 3 = bit v 3 ∧
          t.flag (coreMode c) 0 = (s.dueMode c).flag (coreMode c) 0) ∧
  ∀ (c : CoreId) (s : State) (i : Nat) (b : Bool), (s.core c).modeChange = some (i, b) →
    (i < 5 → s.dueMode c = s) ∧
    (5 ≤ i → (s.dueMode c).det c = b ∧ ((s.dueMode c).core c).modeChange = none ∧
      (s.det c ≠ b → ((s.dueMode c).core c).icache = [] ∧ ((s.dueMode c).core c).pred.ghr = 0 ∧
        ((s.dueMode c).core c).pred.ras = []))

/-- WINDOW_ACCESS (R167, R168): a one-move word that names one window. Its access is at BASE plus the pointer and the
displacement modulo LEN, at most 2,048; a write stores the value there and in no other word, a read takes that word's value,
and either way the pointer moves on by one modulo LEN. -/
def Obligations.WindowWordAccesses : Prop :=
  ∀ (c : CoreId) (s : State) (r : Ready) (m : Move) (v : Word) (w : Nat),
    prepare (issues .window) c s = .ready r → r.vs = [(m, some v)] → s.check = [] →
    let q := s.reg (coreWin r.t w)
    let len := bits q 22 11
    let off := bits q 35 23 + (((bits q 10 0 : Nat) + m.mv.disp.toInt) % (len : Int)).toNat
    len ≤ 2048 →
    (winOf m.mv.dst.toNat = some w ∧ srcWin m.mv.src = none →
      ∃ a t, s.access r.t (bits q 39 36) .write .window off = .ok a ∧ exec (.windowAccess c) s = .next t ∧
        t.peek a = v ∧ (∀ b, b ≠ a → t.peek b = s.peek b) ∧ t.fld (coreWin r.t w) 10 0 = (bits q 10 0 + 1) % len) ∧
    (srcWin m.mv.src = some w ∧ winOf m.mv.dst.toNat = none →
      ∃ a t, s.access r.t (bits q 39 36) .read .window off = .ok a ∧ exec (.windowAccess c) s = .next t ∧
        v = s.peek a ∧ (∀ b, t.peek b = s.peek b) ∧ t.fld (coreWin r.t w) 10 0 = (bits q 10 0 + 1) % len)

/-! ### Operations: what they compute -/

/-- The integer operations of the ALU (R76, R77) in integer terms: the sum with its carry, the difference with its borrow, the
signed and unsigned orders, negation and absolute value, and which flags each names. The decimal operations of the ALU (R88 to
R91) in numbers: digits add with DC and carry out, or subtract with borrow; the L forms take the digits above the sign, keep
O's sign as 0xC or 0xD and do not sample DC; an invalid nibble is the invalid-digit fault, no result. -/
def Obligations.AluResults : Prop :=
  (∀ (o t : Word) (c dc : Bool),
     (∀ op, op = .add ∨ op = .addc → ∃ r fl k, aluOut op o t c dc = some (r, fl) ∧ fl.names [flagZ, flagN, flagC, flagV] ∧
       o.toNat + t.toNat + (if op = .addc then c.toNat else 0) = r.toNat + 2 ^ 40 * Bool.toNat k ∧ fl.gives flagC k ∧
       fl.gives flagZ (decide (r.toNat = 0)) ∧ fl.gives flagN (decide (r.toInt < 0)) ∧
       fl.gives flagV (decide (r.toInt ≠ o.toInt + t.toInt + (if op = .addc then c.toNat else 0)))) ∧
     (∀ op, op = .sub ∨ op = .subc → ∃ r fl k, aluOut op o t c dc = some (r, fl) ∧
       fl.names [flagZ, flagN, flagC, flagV] ∧
       (o.toNat : Int) - t.toNat - (if op = .subc then (!c).toNat else 0) = r.toNat - 2 ^ 40 * (Bool.toNat (!k) : Nat) ∧
       fl.gives flagC k ∧ fl.gives flagZ (decide (r.toNat = 0)) ∧ fl.gives flagN (decide (r.toInt < 0)) ∧
       fl.gives flagV (decide (r.toInt ≠ o.toInt - t.toInt - (if op = .subc then (!c).toNat else 0)))) ∧
     (∃ r fl, aluOut .neg o t c dc = some (r, fl) ∧ fl.names [flagZ, flagN, flagC, flagV] ∧ r + t = 0 ∧
       fl.gives flagC (decide (t = 0)) ∧ fl.gives flagV (decide (t = 0x8000000000)) ∧ fl.gives flagZ (decide (r = 0)) ∧
       fl.gives flagN (decide (r.toInt < 0))) ∧
     (∃ r fl, aluOut .abs o t c dc = some (r, fl) ∧ fl.names [flagZ, flagN, flagV] ∧
       (t.toInt ≠ -2 ^ 39 → r.toInt = t.toInt.natAbs) ∧ (t.toInt = -2 ^ 39 → r = t) ∧
       fl.gives flagV (decide (t.toInt = -2 ^ 39)) ∧ fl.gives flagZ (decide (r = 0)) ∧ fl.gives flagN (decide (r.toInt < 0))) ∧
     ∀ op f, (op, f) ∈ ([(.and, (· && ·)), (.or, (· || ·)), (.xor, (· != ·)), (.andn, fun x y => x && !y), (.pass, fun _ y => y)] :
         List (AluOp × (Bool → Bool → Bool))) ∨
         (op, f) ∈ ([(.min, fun x y => if o.toInt ≤ t.toInt then x else y), (.max, fun x y => if t.toInt ≤ o.toInt then x else y),
           (.minu, fun x y => if o.toNat ≤ t.toNat then x else y), (.maxu, fun x y => if t.toNat ≤ o.toNat then x else y)] :
           List (AluOp × (Bool → Bool → Bool))) →
       ∃ r fl, aluOut op o t c dc = some (r, fl) ∧ fl.names [flagZ, flagN] ∧ (∀ i, i < 40 → bit r i = f (bit o i) (bit t i)) ∧
         fl.gives flagZ (decide (r = 0)) ∧ fl.gives flagN (bit r 39)) ∧
  (∀ (o t : Word) (c dc : Bool),
     let num (w : Word) (i : Nat) : Nat := ofDigits ((nibs w).drop i)
     let valid (w : Word) (i : Nat) : Prop := ∀ j, i ≤ j → j < 10 → nib w j < 10
     let sign (w : Word) : Prop := 10 ≤ nib w 0
     (valid o 0 ∧ valid t 0 →
       (∃ r fl k, aluOut .dadj o t c dc = some (r, fl) ∧ fl.names [flagZ, flagDC] ∧ valid r 0 ∧ fl.gives flagDC k ∧
         num o 0 + num t 0 + dc.toNat = num r 0 + 10 ^ 10 * Bool.toNat k ∧ fl.gives flagZ (decide (r = 0))) ∧
       ∃ r fl k, aluOut .dsbj o t c dc = some (r, fl) ∧ fl.names [flagZ, flagDC] ∧ valid r 0 ∧ fl.gives flagDC k ∧
         num o 0 + 10 ^ 10 * Bool.toNat k = num r 0 + num t 0 + dc.toNat ∧ fl.gives flagZ (decide (r = 0))) ∧
     (¬(valid o 0 ∧ valid t 0) → aluOut .dadj o t c dc = none ∧ aluOut .dsbj o t c dc = none) ∧
     (valid o 1 ∧ valid t 1 ∧ sign o ∧ sign t →
       (∃ r fl k, aluOut .dadjl o t c dc = some (r, fl) ∧ fl.names [flagZ, flagDC] ∧ valid r 1 ∧ fl.gives flagDC k ∧
         num o 1 + num t 1 = num r 1 + 10 ^ 9 * Bool.toNat k ∧ fl.gives flagZ (decide (num r 1 = 0)) ∧
         nib r 0 = if nib o 0 = 0xB ∨ nib o 0 = 0xD then 0xD else 0xC) ∧
       ∃ r fl k, aluOut .dsbjl o t c dc = some (r, fl) ∧ fl.names [flagZ, flagDC] ∧ valid r 1 ∧ fl.gives flagDC k ∧
         num o 1 + 10 ^ 9 * Bool.toNat k = num r 1 + num t 1 ∧ fl.gives flagZ (decide (num r 1 = 0)) ∧
         nib r 0 = if nib o 0 = 0xB ∨ nib o 0 = 0xD then 0xD else 0xC) ∧
     (¬(valid o 1 ∧ valid t 1 ∧ sign o ∧ sign t) → aluOut .dadjl o t c dc = none ∧ aluOut .dsbjl o t c dc = none))

/-- The shift and extend operations: the bullets of R78, with the counts above the width, and the flags they name. -/
def Obligations.AluShiftResults : Prop :=
  ∀ (o t : Word) (c dc : Bool),
    let k := bits t 5 0
    (∃ r fl, aluOut .shl o t c dc = some (r, fl) ∧ (∀ i, i < 40 → bit r i = (decide (k ≤ i) && bit o (i - k))) ∧
      (40 ≤ k → r = 0) ∧ (k = 0 → r = o ∧ fl.names [flagZ, flagN]) ∧
      (k ≠ 0 → fl.names [flagZ, flagN, flagC] ∧ fl.gives flagC (decide (k ≤ 40) && bit o (40 - k)))) ∧
    (∃ r fl, aluOut .shr o t c dc = some (r, fl) ∧ (∀ i, i < 40 → bit r i = bit o (i + k)) ∧
      (40 ≤ k → r = 0) ∧ (k = 0 → r = o ∧ fl.names [flagZ, flagN]) ∧
      (k ≠ 0 → fl.names [flagZ, flagN, flagC] ∧ fl.gives flagC (decide (k ≤ 40) && bit o (k - 1)))) ∧
    (∃ r fl, aluOut .sar o t c dc = some (r, fl) ∧
      (∀ i, i < 40 → bit r i = bit o (min 39 (i + k))) ∧ (40 ≤ k → ∀ i, i < 40 → bit r i = bit o 39) ∧
      (k = 0 → r = o ∧ fl.names [flagZ, flagN]) ∧
      (k ≠ 0 → fl.names [flagZ, flagN, flagC] ∧ fl.gives flagC (bit o (min 39 (k - 1))))) ∧
    (∃ r fl, aluOut .rol o t c dc = some (r, fl) ∧ fl.names [flagZ, flagN] ∧
      ∀ i, i < 40 → bit r ((i + k) % 40) = bit o i) ∧
    ∃ r fl, aluOut .sext o t c dc = some (r, fl) ∧ fl.names [flagZ, flagN] ∧ (39 ≤ k → r = o) ∧
      ∀ i, i < 40 → bit r i = bit o (min i k)

/-- The MUL (R79, R80): the 80-bit products, signed and unsigned; quotient and remainder with O = Q × T + M, the quotient
truncated toward zero and the remainder of O's sign; −2^39 by −1; V, Z and N; and no result for a divisor of zero. -/
def Obligations.MulResults : Prop :=
  ∀ o t : Word,
    (∃ r rh fl, mulOut .mul o t = some (r, rh, fl) ∧ o.toInt * t.toInt = rh.toInt * 2 ^ 40 + r.toNat ∧
      fl.names [flagZ, flagN, flagV] ∧ fl.gives flagV (decide (rh ≠ if bit r 39 then 0xFFFFFFFFFF else 0)) ∧
      fl.gives flagZ (decide (r = 0)) ∧ fl.gives flagN (bit r 39)) ∧
    (∃ r rh fl, mulOut .mulu o t = some (r, rh, fl) ∧ o.toNat * t.toNat = rh.toNat * 2 ^ 40 + r.toNat ∧
      fl.names [flagZ, flagN, flagV] ∧ fl.gives flagV (decide (rh ≠ 0)) ∧ fl.gives flagZ (decide (r = 0)) ∧
      fl.gives flagN (bit r 39)) ∧
    (t ≠ 0 →
      (∃ q m flq flm, mulOut .div o t = some (q, m, flq) ∧ mulOut .rem o t = some (m, q, flm) ∧
        (¬(o.toInt = -2 ^ 39 ∧ t.toInt = -1) →
          o.toInt = q.toInt * t.toInt + m.toInt ∧ m.toInt.natAbs < t.toInt.natAbs ∧ (m = 0 ∨ (0 ≤ m.toInt ↔ 0 ≤ o.toInt))) ∧
        (o.toInt = -2 ^ 39 ∧ t.toInt = -1 → q.toInt = -2 ^ 39 ∧ m = 0) ∧
        flq.names [flagZ, flagN, flagV] ∧ flm.names [flagZ, flagN, flagV] ∧
        flq.gives flagV (decide (o.toInt = -2 ^ 39 ∧ t.toInt = -1)) ∧
        flm.gives flagV (decide (o.toInt = -2 ^ 39 ∧ t.toInt = -1)) ∧
        flq.gives flagZ (decide (q = 0)) ∧ flq.gives flagN (bit q 39) ∧ flm.gives flagZ (decide (m = 0)) ∧
        flm.gives flagN (bit m 39)) ∧
      ∃ q m flq flm, mulOut .divu o t = some (q, m, flq) ∧ mulOut .remu o t = some (m, q, flm) ∧
        o.toNat = q.toNat * t.toNat + m.toNat ∧ m.toNat < t.toNat ∧
        flq.names [flagZ, flagN] ∧ flm.names [flagZ, flagN] ∧ flq.gives flagZ (decide (q = 0)) ∧ flq.gives flagN (bit q 39) ∧
        flm.gives flagZ (decide (m = 0)) ∧ flm.gives flagN (bit m 39)) ∧
    ∀ op, mulOut op o 0 = none ↔ isDivide op = true

/-- The rounding modes of R84 on x / d, each said by what makes its result the only one: the greatest integer not above; the
nearest with a tie toward plus infinity; the nearest with a tie to even; the integer part toward zero. The spec's example row
of −2.5 is among its consequences. -/
def Obligations.RoundingModes : Prop :=
  ∀ (x : Int) (d : Nat), 0 < d →
    let n (m : Round) : Int := roundDiv m x d
    (n .trunc * d ≤ x ∧ x < (n .trunc + 1) * d) ∧
    (2 * (x - n .halfUp * d) < d ∧ -(d : Int) ≤ 2 * (x - n .halfUp * d)) ∧
    (2 * (x - n .conv * d).natAbs ≤ d ∧ (2 * (x - n .conv * d).natAbs = d → n .conv % 2 = 0)) ∧
    ((0 ≤ x → n .zero * d ≤ x ∧ x < (n .zero + 1) * d) ∧ (x < 0 → x ≤ n .zero * d ∧ (n .zero - 1) * d < x))

/-- The FXU operations (R82, R83, R85) in integers: products and words in units of 2^−31, an accumulator that takes the
nearest limit of its range and then sets OVS, the clamped and the wrapped store, and the shift. -/
def Obligations.FxuResults : Prop :=
  ∀ (f o t : Word) (n : Fin 4) (m : Round),
    let lim (x : Int) : Int := max (-2 ^ 39) (min (2 ^ 39 - 1) x)
    let p := roundDiv m (frac o * frac t) (2 ^ 31)
    let sat (r : FxuOut) (x : Int) : Prop := r.acc.toInt = lim x ∧ r.r = none ∧
      (if lim x = x then r.fl = noFlags else r.fl.names [flagOVS] ∧ r.fl.gives flagOVS true)
    (-2 ^ 31 ≤ frac t ∧ frac t < 2 ^ 31 ∧ ((frac t - t.toInt) % 2 ^ 32 = 0)) ∧
    sat (fxuOut (.fmac n m) f o t) (f.toInt + p) ∧ sat (fxuOut (.fmsu n m) f o t) (f.toInt - p) ∧
    sat (fxuOut (.fadd n) f o t) (f.toInt + frac t) ∧ sat (fxuOut (.fsub n) f o t) (f.toInt - frac t) ∧
    ((fxuOut (.fmpy n m) f o t).acc.toInt = p ∧ (fxuOut (.fmpy n m) f o t).fl = noFlags ∧ (fxuOut (.fmpy n m) f o t).r = none) ∧
    (∃ r, (fxuOut (.fsts n) f o t).r = some r ∧ r.toInt = max (-2 ^ 31) (min (2 ^ 31 - 1) f.toInt) ∧
      (fxuOut (.fsts n) f o t).acc = f ∧ (fxuOut (.fsts n) f o t).fl.gives flagZ (decide (r = 0)) ∧
      (fxuOut (.fsts n) f o t).fl.gives flagN (bit r 39) ∧
      (if r = f then (fxuOut (.fsts n) f o t).fl.names [flagZ, flagN]
        else (fxuOut (.fsts n) f o t).fl.names [flagZ, flagN, flagOVS] ∧ (fxuOut (.fsts n) f o t).fl.gives flagOVS true)) ∧
    (∃ r, (fxuOut (.fstw n) f o t).r = some r ∧ r.toInt = frac f ∧ (fxuOut (.fstw n) f o t).acc = f ∧
      (fxuOut (.fstw n) f o t).fl.names [flagZ, flagN] ∧ (fxuOut (.fstw n) f o t).fl.gives flagZ (decide (r = 0)) ∧
      (fxuOut (.fstw n) f o t).fl.gives flagN (bit r 39)) ∧
    ((fxuOut (.fshr n m) f o t).acc.toInt = roundDiv m f.toInt (2 ^ bits t 3 0) ∧ (fxuOut (.fshr n m) f o t).fl = noFlags ∧
      (fxuOut (.fshr n m) f o t).r = none)

/-- The register forms of the BLU (R95, R96): results bit by bit, BIT or Z, and the bit-address fault exactly where an index
is 40 or more, a width is zero, or a field leaves the word. -/
def Obligations.BluRegisterResults : Prop :=
  ∀ o t : Word,
    let k := bits t 5 0
    let w := bits t 11 6
    let one (op : BluOp) (g : Bool) (b : Nat → Bool) : Prop :=
      (40 ≤ k → bluOut op o t = none) ∧
      (k < 40 → ∃ r fl, bluOut op o t = some (r, fl) ∧ (∀ i, i < 40 → bit r i = if i = k then b i else bit o i) ∧
        fl.names [flagBIT] ∧ fl.gives flagBIT g)
    one .btst (bit o k) (bit o ·) ∧ one .bset (bit o k) (fun _ => true) ∧ one .bclr (bit o k) (fun _ => false) ∧
    one .binv (bit o k) (fun i => !bit o i) ∧
    (∃ r fl, bluOut .bcnt o t = some (r, fl) ∧ r.toNat = ((range 0 40).filter fun i => bit o i).length ∧ fl.names [flagZ] ∧
      fl.gives flagZ (decide (r = 0))) ∧
    (∃ r fl, bluOut .bffs o t = some (r, fl) ∧ (o = 0 → r = 40) ∧
      (o ≠ 0 → r.toNat < 40 ∧ bit o r.toNat = true ∧ ∀ i, i < r.toNat → bit o i = false) ∧ fl.names [flagZ] ∧
      fl.gives flagZ (decide (o = 0))) ∧
    ((w = 0 ∨ 40 < k + w → bluOut .bext o t = none) ∧
      (w ≠ 0 ∧ k + w ≤ 40 → ∃ r fl, bluOut .bext o t = some (r, fl) ∧
        (∀ i, i < 40 → bit r i = (decide (i < w) && bit o (k + i))) ∧ fl.names [flagZ] ∧ fl.gives flagZ (decide (r = 0)))) ∧
    ((40 ≤ k ∨ 40 ≤ w → bluOut .bswap o t = none) ∧
      (k < 40 ∧ w < 40 → ∃ r fl, bluOut .bswap o t = some (r, fl) ∧
        (∀ i, i < 40 → bit r i = bit o (if i = k then w else if i = w then k else i)) ∧ fl.names [flagBIT] ∧
        fl.gives flagBIT (bit o k != bit o w)))

/-- The decimal string operations of the DSU (R87, R88, R103, R104) in integers: the exact value of each operation, the stored
string that holds its low n digits with the sign of the exact value, V where it needs more than n digits, Z and N of what is
stored, DA; the compare, and the conversion to binary. -/
def Obligations.DsuResults : Prop :=
  ∀ (n : Nat) (x y : Int) (da : Word), 1 ≤ n → n ≤ 99 →
    let exact (op : DsuOp) (v : Int) (ov : Bool) : Prop :=
      let r := dsuCompute op n x y da
      r.fcode = 0 ∧ r.words.length = (n + 10) / 10 ∧ r.da = some (r.words.getLastD 0) ∧
      (strValue n r.words).natAbs = v.natAbs % 10 ^ n ∧ nib (r.words.getLastD 0) 0 = (if v < 0 then 0xD else 0xC) ∧
      (∀ w ∈ r.words, ∀ i, 1 ≤ i → i < 10 → nib w i < 10) ∧
      (⟨r.fmask, r.fval⟩ : FlagUpd).names (if ov then [flagZ, flagN, flagV] else [flagZ, flagN]) ∧
      (⟨r.fmask, r.fval⟩ : FlagUpd).gives flagZ (decide (v.natAbs % 10 ^ n = 0)) ∧
      (⟨r.fmask, r.fval⟩ : FlagUpd).gives flagN (decide (v < 0)) ∧
      (ov = true → (⟨r.fmask, r.fval⟩ : FlagUpd).gives flagV (decide (10 ^ n ≤ v.natAbs)))
    exact .dmovs x true ∧ exact .dadds (y + x) true ∧ exact .dsubs (y - x) true ∧
    exact .dmuld (x * strValue 9 [da]) true ∧ exact .dcvtd da.toInt true ∧
    exact .dshrt (y.tdiv (10 ^ bits da 6 0)) false ∧
    (∃ q, exact .dshrs q false ∧ (0 ≤ y → 0 ≤ q) ∧ (y < 0 → q ≤ 0) ∧
      2 * (y.natAbs - q.natAbs * 10 ^ bits da 6 0 : Int) < (10 ^ bits da 6 0 : Nat) ∧
      -(10 ^ bits da 6 0 : Nat) ≤ 2 * (y.natAbs - q.natAbs * 10 ^ bits da 6 0 : Int)) ∧
    (let r := dsuCompute .dcmps n x y da;
      r.words = [] ∧ r.da = none ∧ (⟨r.fmask, r.fval⟩ : FlagUpd).names [flagZ, flagN, flagV] ∧
      (⟨r.fmask, r.fval⟩ : FlagUpd).gives flagZ (decide (y = x)) ∧ (⟨r.fmask, r.fval⟩ : FlagUpd).gives flagN (decide (y < x)) ∧
      (⟨r.fmask, r.fval⟩ : FlagUpd).gives flagV false) ∧
    ∃ b, (dsuCompute .dcvtb n x y da).da = some b ∧ (dsuCompute .dcvtb n x y da).words = [] ∧ (x - b.toInt) % 2 ^ 40 = 0 ∧
      (let u : FlagUpd := ⟨(dsuCompute .dcvtb n x y da).fmask, (dsuCompute .dcvtb n x y da).fval⟩;
        u.names [flagZ, flagN, flagV] ∧ u.gives flagZ (decide (b = 0)) ∧ u.gives flagN (bit b 39) ∧
        u.gives flagV (decide (x < -2 ^ 39 ∨ 2 ^ 39 ≤ x)))

/-! ### The words of the function units -/

/-- What a word that triggers only the ALU, the MUL, the FXU, the BLU or the LSU, or nothing, leaves alone: the core goes on
at the next word in the step after its issue, and CORE_SCNT counts the steps up to there; sockets that no enabled move names, every other context, every
other core, and memory but where an enabled move names a window are as before. -/
def Obligations.IssueFrame : Prop :=
  ∀ (op : Op) (c : CoreId) (s : State) (r : Ready), prepare (issues op) c s = .ready r →
    (∀ x ∈ r.vs, ∀ tr, sockOf x.1.mv.dst.toNat = .trig tr →
      (∀ o, tr ≠ .gtu o) ∧ (∀ o, tr ≠ .dsu o) ∧ ∀ o, tr ≠ .ctl o) →
    ∀ t, exec (cmdOf op c) s = .next t →
      (t.core c).pc = pcAdd (s.core c).pc r.n ∧ (s.core c).now ≤ r.step ∧ (t.core c).now = r.step + 1 ∧
      t.fld (coreScnt c) 31 0 = min 0xFFFFFFFF (s.fld (coreScnt c) 31 0 + (r.step + 1 - (s.core c).now)) ∧
      (∀ n, n ≠ 0x20 → (∀ m v, (m, some v) ∈ r.vs → m.mv.dst.toNat ≠ n) → t.sock r.t n = s.sock r.t n) ∧
      (∀ u, u ≠ r.t → t.ctx u = s.ctx u) ∧ (∀ d, d ≠ c.val → t.core d = s.core d) ∧
      ((∀ m v, (m, some v) ∈ r.vs → winOf m.mv.dst.toNat = none) → ∀ a, t.peek a = s.peek a) ∧
      Touches [.free, .out, .regs, .mem, .check, .cores, .ctxs, .events, .deliver, .pair, .host] s t

/-- A word that triggers an ALU (R28, R30, R75, R76): the operation is in flight and completes in its trigger step (log entry 92 for a
unit that an earlier operation still holds), with its result in R and the flags its row names, from O as the issue's own moves left it, the operand, and C and DC of the step
before; an invalid digit is the invalid-digit fault (code 13) of the same step. -/
def Obligations.AluWordLaunches : Prop :=
  ∀ (op : AluOp) (c : CoreId) (s : State) (r : Ready), prepare (issues (.alu op)) c s = .ready r →
    s.populated c (s.tenant c) → ∃ t, exec (cmdOf (.alu op) c) s = .next t ∧
      ∀ m u w, r.triggers m (.alu u op) w →
        let b := if u = 0 then 0x40 else 0x60
        let fu := if u = 0 then FU.alu0 else .alu1
        ∃ f ∈ (t.core c).flights, f.unit = fu ∧ f.sk = m.mv.dst.toNat ∧ f.phys = m.phys ∧
          f.trig = r.step ∧ f.due = max r.step ((s.core c).turn fu) ∧
          f.act = match aluOut op ((r.written c).sock r.t b) w (bit r.flg flagC) (bit r.flg flagDC) with
            | some (v, fl) => .result [(b + 1, v)] fl.mask fl.val
            | none => .fault 13 0

/-- A word that triggers the MUL (R79 to R81): R and RH are written together in step t + 2; a divide or remainder holds issue
and completes in step t + 41, so that its result is read in step t + 42; a zero divisor is the divide fault (code 12) in the
trigger step, starts no stall, and leaves R, RH and FLG. -/
def Obligations.MulWordStarts : Prop :=
  ∀ (op : MulOp) (c : CoreId) (s : State) (r : Ready), prepare (issues (.mul op)) c s = .ready r →
    s.populated c (s.tenant c) → ∃ t, exec (cmdOf (.mul op) c) s = .next t ∧
      ∀ m w, r.triggers m (.mul op) w →
        (∀ v vh fl, mulOut op ((r.written c).sock r.t 0x100) w = some (v, vh, fl) →
          (∃ f ∈ (t.core c).flights, f.unit = .mul ∧ f.trig = r.step ∧ f.due = max (r.step + (if isDivide op then 41 else 2)) ((s.core c).turn .mul) ∧
            f.act = .result [(0x101, v), (0x102, vh)] fl.mask fl.val) ∧
          (isDivide op = true → .divide ∈ (t.core c).hold)) ∧
        (mulOut op ((r.written c).sock r.t 0x100) w = none →
          (t.core c).trap.isSome = true ∧
          (((r.written c).core c).trap = none → r.only m (.mul op) w →
            (t.core c).trap = some ⟨12, m.mv.dst.toNat, m.phys, 0, false⟩) ∧
          .divide ∉ (t.core c).hold ∧ ∀ n, n = 0x101 ∨ n = 0x102 → t.sock r.t n = s.sock r.t n)

/-- A word that triggers an FXU (R85, R86): the operation with its accumulator and mode is in flight with O and the operand,
and completes in step t + 2. -/
def Obligations.FxuWordLaunches : Prop :=
  ∀ (k : FxuKind) (c : CoreId) (s : State) (r : Ready), prepare (issues (.fxu k)) c s = .ready r →
    s.populated c (s.tenant c) → ∃ t, exec (cmdOf (.fxu k) c) s = .next t ∧
      ∀ m u op w, r.triggers m (.fxu u op) w →
        let fu := if u = 0 then FU.fxu0 else .fxu1
        ∃ f ∈ (t.core c).flights, f.unit = fu ∧ f.sk = m.mv.dst.toNat ∧ f.trig = r.step ∧
          f.due = max (r.step + 2) ((s.core c).turn fu) ∧ f.act = .fxu u op ((r.written c).sock r.t (if u = 0 then 0x140 else 0x1C0)) w

/-- A word that triggers a BLU (R92 to R97, R99): a register form completes in its trigger step; a memory form is checked in
the order of R93 — segment, reach (code 11), bit address (code 10) — and a form that fails stores nothing and is not in
flight; a form that passes is in flight for the load latency of its word, one step more for BTAS and BTAC, unless a partial
store in the buffer holds it. -/
def Obligations.BluWordStarts : Prop :=
  ∀ (op : BluOp) (c : CoreId) (s : State) (r : Ready), prepare (issues (.blu op)) c s = .ready r →
    s.populated c (s.tenant c) → ∃ t, exec (cmdOf (.blu op) c) s = .next t ∧
      (bluReg op = true → ∀ m u w, r.triggers m (.blu u op) w →
        let b := if u = 0 then 0xC0 else 0xE0
        let fu := if u = 0 then FU.blu0 else .blu1
        ∃ f ∈ (t.core c).flights, f.unit = fu ∧ f.sk = m.mv.dst.toNat ∧ f.phys = m.phys ∧
          f.trig = r.step ∧ f.due = max r.step ((s.core c).turn fu) ∧
          f.act = match bluOut op ((r.written c).sock r.t b) w with
            | some (v, fl) => .result [(b + 1, v)] fl.mask fl.val
            | none => .fault 10 w) ∧
      (bluReg op = false → ∀ m u w, r.only m (.blu u op) w →
        let s1 := r.written c
        let b := if u = 0 then 0xC0 else 0xE0
        let k := s1.core c
        let bad (code : Nat) (d : Word) : Prop := (k.trap = none → (t.core c).trap = some ⟨code, m.mv.dst.toNat, m.phys, d, false⟩) ∧
          (t.core c).flights = k.flights ∧ (t.core c).buffer = k.buffer
        let idx := bits w 5 0
        let wid := bits w 31 26
        let wide := op = .bget ∨ op = .bput
        let ba := s1.sock r.t (b + 2)
        let need : Need := if op = .btas ∨ op = .btac then .both else if bluStores op then .write else .read
        match s1.access r.t (bits ba 29 26) need .blu ((bits ba 25 6 + bits w 25 6 : Nat) : Int) with
        | .error d => bad 9 d
        | .ok a =>
          (target c a = some .cm ∨ target c a = some .rq → bad 11 w) ∧
          (target c a = some .sp ∨ target c a = some .ob ∨ target c a = some .qm →
            (40 ≤ idx ∨ (wide ∧ (wid = 0 ∨ 40 < idx + wid)) → bad 10 w) ∧
            (¬(40 ≤ idx ∨ (wide ∧ (wid = 0 ∨ 40 < idx + wid))) →
              let fu := if u = 0 then FU.blu0 else .blu1
              let fl (l : Nat) (sn : Seen) (f : Flight) : Prop := f.unit = fu ∧ f.trig = r.step ∧
                f.due = max (r.step + l - 1) (k.turn fu) ∧ f.act = .bit u op a idx (if wide then wid else 1) (s1.sock r.t b) sn
              let hit := bufHit a 1 (k.bufferAt r.step) .none
              (bluStores op = true → ∃ f ∈ (t.core c).flights, fl (s1.latency c a) .target f) ∧
              (op = .btas ∨ op = .btac →
                (hit = .none → ∃ f ∈ (t.core c).flights, fl (s1.latency c a + 1) .target f)) ∧
              (bluStores op = false → op ≠ .btas → op ≠ .btac →
                (hit = .none → ∃ f ∈ (t.core c).flights, fl (s1.latency c a) .target f) ∧
                (∀ v, hit = .full v → ∃ f ∈ (t.core c).flights, fl (s1.latency c a) (.buffered v) f) ∧
                ∀ p, hit = .part p → ∃ f, .overlap f p ∈ (t.core c).hold ∧ f.unit = fu ∧ f.trig = r.step ∧
                  f.due = r.step + s1.latency c a - 1 ∧
                  f.act = .bit u op a idx (if wide then wid else 1) (s1.sock r.t b) .target))))

/-- A word that triggers an LSU (R164 to R166, R123, R125, R193): the segment fault (code 9) in the trigger step, or a load in
flight for the latency of its word, from the buffer where a full-word store covers it and held where a partial store does; a
store of O in the buffer; or an atomic two steps longer than a load. -/
def Obligations.LsuWordStarts : Prop :=
  ∀ (op : LsuOp) (c : CoreId) (s : State) (r : Ready), prepare (issues (.lsu op)) c s = .ready r →
    s.populated c (s.tenant c) → ∃ t, exec (cmdOf (.lsu op) c) s = .next t ∧
      ∀ m u w, r.only m (.lsu u op) w →
        let s1 := r.written c
        let b := if u = 0 then 0x80 else 0xA0
        let k := s1.core c
        let need : Need := match op with
          | .ld => .read
          | .st => .write
          | _ => .both
        match s1.access r.t (bits w 23 20) need .lsu ((bits w 19 0 : Nat) + m.mv.disp.toInt) with
        | .error d => (k.trap = none → (t.core c).trap = some ⟨9, m.mv.dst.toNat, m.phys, d, false⟩) ∧
          (t.core c).flights = k.flights ∧ (t.core c).buffer = k.buffer
        | .ok a =>
          let fu := if u = 0 then FU.lsu0 else .lsu1
          let of (act : Act) (f : Flight) : Prop := f.unit = fu ∧ f.sk = m.mv.dst.toNat ∧ f.phys = m.phys ∧ f.trig = r.step ∧
            f.act = act
          let fl (l : Nat) (act : Act) (f : Flight) : Prop := of act f ∧ f.due = max (r.step + l - 1) (k.turn fu)
          let hit := bufHit a 1 (k.bufferAt r.step) .none
          let l := s1.latency c a
          match op with
          | .ld =>
            (hit = .none → ∃ f ∈ (t.core c).flights, fl l (.load u a .target) f) ∧
            (∀ v, hit = .full v → ∃ f ∈ (t.core c).flights, fl l (.load u a (.buffered v)) f) ∧
            ∀ p, hit = .part p → (∃ f, .overlap f p ∈ (t.core c).hold ∧ of (.load u a .target) f ∧ f.due = r.step + l - 1) ∧
              (t.core c).flights = k.flights
          | .st => k.heldAt r.step < 4 → ∃ st ∈ (t.core c).buffer, st.addr = a ∧ st.data = s1.sock r.t b ∧
              st.mask = 0xFFFFFFFFFF ∧ st.part = false ∧ st.entered = r.step
          | .cax => hit = .none → ∃ f ∈ (t.core c).flights, fl (l + 2) (.cax u a (s1.sock r.t (b + 1)) (s1.sock r.t b)) f
          | .faa => hit = .none → ∃ f ∈ (t.core c).flights, fl (l + 2) (.faa u a (s1.sock r.t b)) f

/-- A word that triggers the GTU (R171, R174). GCAN clears the gather record and GTU_DONE. A GATH whose index vector fails its
segment check raises the segment fault, clears the record and gathers nothing; any other begins at element 0 with the record
cleared, or goes on at K where its five values are those of a valid record. An element is issued with the index word and the
segments of its own step (R172). GTU_ELEMENT_COMPLETION (R171 to R173): the next element of the oldest gather goes to its buffer
word, MASK holds a one for it and those before it, element 0 goes to R too, and the gather ends after its last element; an
element that failed its check ends the gather with its record at that element and the fault of 0x248. Nothing else in memory
changes. -/
def Obligations.GathersRun : Prop :=
  (∀ (op : GtuOp) (c : CoreId) (s : State) (r : Ready), prepare (issues (.gtu op)) c s = .ready r →
     s.populated c (s.tenant c) → ∃ t, exec (cmdOf (.gtu op) c) s = .next t ∧
       ∀ m w, r.only m (.gtu op) w →
         let s1 := r.written c
         (∀ n, n ≠ 0x242 → t.sock r.t n = s1.sock r.t n) ∧ (∀ a, t.peek a = s1.peek a) ∧ (t.core c).flights = (s1.core c).flights ∧
         match op with
         | .gcan => t.sock r.t 0x242 = 0 ∧ (t.ctx r.t).gather = none ∧ (t.core c).gathers = (s1.core c).gathers
         | .gath =>
           let o := s1.sock r.t 0x240
           let n := bits w 27 24 + 1
           let vs := bits o 23 20
           let v := bits o 19 0
           let bo : Int := (bits w 19 0 : Nat) + m.mv.disp.toInt
           let d := s1.seg r.t vs
           let fault (reason off : Nat) : Prop :=
             ((s1.core c).trap = none → (t.core c).trap = some ⟨9, 0x248, m.phys, segDetail reason vs off, false⟩) ∧
             t.sock r.t 0x242 = 0 ∧ (t.ctx r.t).gather = none ∧ (t.core c).gathers = (s1.core c).gathers
           let resume := bit (s1.sock r.t 0x242) 21 = true ∧ (s1.ctx r.t).gather = some ⟨vs, v, bits w 23 20, bo, n⟩
           let start (k : Nat) : Prop := (t.ctx r.t).gather = none ∧ ∃ g, (t.core c).gathers = (s1.core c).gathers ++ [g] ∧
             g.vseg = vs ∧ g.voff = v ∧ g.bseg = bits w 23 20 ∧ g.boff = bo ∧ g.n = n ∧ g.k0 = k ∧ g.k = k ∧
             g.trig = r.step ∧ g.phys = m.phys ∧ g.next = r.step + 1 ∧ g.elems = []
           if d.cls = 0 then fault 1 v
           else if d.sup = true ∧ s1.level r.t % 2 = 0 then fault 2 v
           else if ¬(d.rd = true ∧ d.wr = true) then fault 3 v
           else if ¬((d.cls = 2 ∨ d.cls = 6) ∧ target c d.base = some .sp) then fault 4 v
           else if d.limit ≤ v + 15 + n then fault 5 (v + 15 + n)
           else (resume → start (bits (s1.sock r.t 0x242) 20 16)) ∧ (¬resume → start 0 ∧ t.sock r.t 0x242 = 0)) ∧
  (∀ (c : CoreId) (s : State) (u : Nat) (g : GatherRun), s.populated c u → g.bseg < 16 → s.check = [] →
     (s.core c).flights = [] → (s.core c).buffer = [] →
     let v := (s.seg u g.vseg).phys s.frame g.voff
     let x := bits (s.peek (v + (g.k + g.elems.length))) 19 0
     let off : Int := g.boff + (if x < 2 ^ 19 then (x : Int) else x - 2 ^ 20)
     s.issueElem c u g = match s.access u g.bseg .read .gtu off with
       | .ok a => (s, { g with elems := g.elems ++ [.read a g.next .target], next := g.next + 1, again := false }, none)
       | .error d => (s, { g with elems := g.elems ++ [.fault 9 d], next := g.next + 1, again := false }, none)) ∧
  (∀ (c : CoreId) (w : Nat) (s : State) (g : GatherRun) (rest : List GatherRun), (s.core c).gathers = g :: rest →
     (∀ h ∈ g :: rest, h.allIssued = true ∨ (s.core c).now ≤ h.next) → s.check = [] → (s.core c).retired = [] →
     (s.core c).dsu = none → (s.core c).hold = [] → g.due < (s.core c).now → (g.waits = false ∨ w = 0) →
     let u := s.tenant c
     let v := (s.seg u g.vseg).phys s.frame g.voff
     (∀ a n es, g.elems = .read a n .target :: es → ∃ t, exec (.gtuElementCompletion ⟨c, w⟩) s = .next t ∧
       t.peek (v + 16 + g.k) = s.peek a ∧ (∀ b, b ≠ v + 16 + g.k → t.peek b = s.peek b) ∧
       t.sock u 0x242 = word (2 ^ (g.k + 1) - 1) ∧ t.sock u 0x241 = (if g.k = 0 then s.peek a else s.sock u 0x241) ∧
       (g.k + 1 < g.n → (t.core c).gathers = { g with k := g.k + 1, elems := es } :: rest) ∧
       (g.n ≤ g.k + 1 → rest = [] → (t.core c).gathers = [])) ∧
     ∀ code d es, g.elems = .fault code d :: es → ∃ t, exec (.gtuElementCompletion ⟨c, w⟩) s = .next t ∧
       (∀ b, t.peek b = s.peek b) ∧ (t.core c).gathers = [] ∧ bit (t.sock u 0x242) 21 = true ∧
       bits (t.sock u 0x242) 20 16 = g.k % 32 ∧ bits (t.sock u 0x242) 15 0 = bits (s.sock u 0x242) 15 0 ∧
       (t.ctx u).gather = some ⟨g.vseg, g.voff, g.bseg, g.boff, g.n⟩ ∧
       ((s.core c).trap = none → (t.core c).trap = some ⟨code, 0x248, g.phys, d, false⟩))

/-- A word that triggers the DSU (R101 to R106, R110): a used length outside 1 to 99 is the length fault (code 14, FCODE 3)
and starts no stall; any other trigger holds issue with LASTOP and FCODE 0 in the status port, for the count of R103 where
what it reads lies in the scratchpad or the core's own banks (a scan that meets a fault counts all its words, log entry 81); a
resumed operation for four steps and those that remained. From strings that pass their checks the reading phase of the
operation, one word a step, comes to the result of the operation's row. -/
def Obligations.DsuWordStarts : Prop :=
  ∀ (op : DsuOp) (c : CoreId) (s : State) (r : Ready), prepare (issues (.dsu op)) c s = .ready r →
    s.populated c (s.tenant c) → ∃ t, exec (cmdOf (.dsu op) c) s = .next t ∧
      ∀ mv w, r.only mv (.dsu op) w →
        let s1 := r.written c
        let s2 := s1.dropContext r.t
        let k := s1.core c
        let dc := s1.sock r.t sockDC
        let n := bits dc 6 0
        let m := bits dc 14 8
        let dx := s1.sock r.t sockDX
        let dy := s1.sock r.t sockDY
        let da := s1.sock r.t sockDA
        let lenBad := isBlock op = false ∧ ((usesM op = true ∧ (m = 0 ∨ 99 < m)) ∨ (usesN op = true ∧ (n = 0 ∨ 99 < n)))
        let own (p : Word) : Prop := target c (ptrAddr s1 r.t p) = some .sp ∨ target c (ptrAddr s1 r.t p) = some .ob
        let str (p : Word) (l : Nat) : List Word := s2.peeks (ptrAddr s2 r.t p) (strWords l)
        let good (p : Word) (l : Nat) : Prop := ∀ i, i < strWords l →
          s2.access r.t (bits p 23 20) .read .dsu ((bits p 19 0 + i : Nat) : Int) = .ok (ptrAddr s2 r.t p + i) ∧
          ∀ b, wordFcode (i + 1 == strWords l) b (s2.peek (ptrAddr s2 r.t p + i)) = 0
        (∀ x, x ≠ sockDS → t.sock r.t x = s1.sock r.t x) ∧ (∀ a, a ≠ dsuCtx r.t 0 → t.peek a = s1.peek a) ∧
        bits (t.sock r.t sockDS) 22 16 = dsuOffset op ∧
        (lenBad → (k.trap = none → (t.core c).trap = some ⟨14, mv.mv.dst.toNat, mv.phys, dc, false⟩) ∧ (t.core c).dsu = k.dsu ∧
          .dsu ∉ (t.core c).hold ∧ bits (t.sock r.t sockDS) 15 8 = 3) ∧
        (¬lenBad → bits (t.sock r.t sockDS) 15 8 = 0 ∧ .dsu ∈ (t.core c).hold ∧ ∃ d, (t.core c).dsu = some d ∧ d.op = op ∧
          d.trig = r.step ∧ d.phys = mv.phys ∧
          ((readsDX op = true → own dx) → (readsDY op = true → own dy) →
            (isBlock op = true ∨ s1.resumable r.t op = false → k.bufferAt r.step = [] →
              d.resume = r.step + dsuSteps op m n (bits dc 20 0)
                (if (d.rd.res.map (·.fcode)).getD 0 = 0 then s1.examined c r.t op (bits dc 20 0) else bits dc 20 0)) ∧
            (isBlock op = false → s1.resumable r.t op = true →
              ((s1.ctx r.t).dsu = none →
                d.resume = r.step + 4 + (dsuSteps op m n 0 0 - 1 - bits (s1.peek (dsuCtx r.t 0)) 15 0)) ∧
              ∀ sv, (s1.ctx r.t).dsu = some sv → d.resume = r.step + 4 + sv.rem)) ∧
          (isBlock op = false → s1.resumable r.t op = false → s2.check = [] → k.retired = [] → k.buffer = [] → k.flights = [] →
            (readsDX op = true → good dx m) → (readsDY op = true → good dy n) →
            (writesDY op = true → ∀ i, i < strWords n →
              s2.access r.t (bits dy 23 20) .write .dsu ((bits dy 19 0 + i : Nat) : Int) = .ok (ptrAddr s2 r.t dy + i)) →
            (op = .dmuld → ∀ b, wordFcode true b da = 0) → op ≠ .dsgn →
            ∀ upto, r.step + 2 + wordsX op dc + wordsY op dc ≤ upto →
              (t.dsuSteps c r.t upto 42 d).2.rd.res = some (dsuCompute op n (strValue m (str dx m)) (strValue n (str dy n)) da)))

/-- A word that triggers a transfer (R129, R137 to R139): where it takes effect the next word is at A + T within the segment
of A for JMP and CALL, and at T[23:0] for JMPA, CALLA and RET; a call writes A + 1 to LINK and nothing else does; in
deterministic mode the next word issues two steps on. Where its guard fails the next word is at A + 1, and in deterministic mode
the words fetched behind it stay. In performance mode a direct transfer costs nothing where its prediction named the next word;
against it, the front end is discarded and the next word issues six steps on. -/
def Obligations.TransferWords : Prop :=
  ∀ (op : CtlOp) (c : CoreId) (s : State) (r : Ready), op ∈ [.jmp, .call, .jmpa, .calla, .ret] →
    prepare (issues (.ctl op)) c s = .ready r → s.populated c (s.tenant c) →
    ∃ t, exec (cmdOf (.ctl op) c) s = .next t ∧
      ∀ m v, (m, v) ∈ r.vs → sockOf m.mv.dst.toNat = .trig (.ctl op) → (∀ x ∈ r.vs, x.1 ≠ m → mvTriggers x.1.mv = false) →
        let s1 := r.written c
        let here (d : Int) : PAddr := BitVec.ofNat 24 (2 ^ 20 * bits m.pc 23 20 + ((bits m.pc 19 0 + d) % 2 ^ 20).toNat)
        let call := op = .call ∨ op = .calla
        (∀ n, n ≠ 0x30 → t.sock r.t n = s1.sock r.t n) ∧ (∀ a, t.peek a = s1.peek a) ∧
        (∀ w, v = some w →
          (t.core c).pc = (if op = .jmp ∨ op = .call then here w.toInt else BitVec.ofNat 24 (bits w 23 0)) ∧
          (call → t.sock r.t 0x30 = word (here 1).toNat) ∧ (¬call → t.sock r.t 0x30 = s1.sock r.t 0x30) ∧
          (s1.det c = true → (t.core c).front = [] ∧ t.headStep c = r.step + 2)) ∧
        (m.on = false → (t.core c).pc = here 1 ∧ t.sock r.t 0x30 = s1.sock r.t 0x30 ∧
          (s1.det c = true → (t.core c).front = (s1.core c).front)) ∧
        (t.core c).now = r.step + 1 ∧
        (s1.det c = false → op = .jmp ∨ op = .call → m.ck.en = true → ∀ i, m.mv.src = .imm i → (v ≠ none ∨ m.on = false) →
          (m.ck.next = (t.core c).pc → (t.core c).front = (s1.core c).front) ∧
          (m.ck.next ≠ (t.core c).pc → (t.core c).front = [] ∧ t.headStep c = r.step + 6))

/-- Words that trigger FENCE, IFLUSH and SVC (R127, R153, R215): a fence whose stores are all performed by its own step costs
one step, any other holds the core until they are; IFLUSH empties the instruction cache and, in performance mode, what the front
end holds, so that the next word issues six steps on; SVC with T[15]
clear raises code 17 with its operand, and with T[15] set raises signal 640 + T[6:0] and goes on. -/
def Obligations.ControlWords : Prop :=
  (∀ (c : CoreId) (s : State) (r : Ready), prepare (issues (.ctl .fence)) c s = .ready r → s.populated c (s.tenant c) →
    ∃ t, exec (.fence c) s = .next t ∧ ∀ m w, r.only m (.ctl .fence) w →
      (t.core c).now = r.step + 1 ∧
      ((r.written c).lastPerform c ≤ r.step → (t.core c).fenceStep = none) ∧
      (r.step < (r.written c).lastPerform c → (t.core c).fenceStep = some ((r.written c).lastPerform c))) ∧
  (∀ (c : CoreId) (s : State) (r : Ready), prepare (issues (.ctl .iflush)) c s = .ready r → s.populated c (s.tenant c) →
    ∃ t, exec (.iflush c) s = .next t ∧ ∀ m w, r.only m (.ctl .iflush) w →
      (t.core c).icache = [] ∧ (t.core c).now = r.step + 1 ∧ ((r.written c).det c = false →
        (t.core c).front = [] ∧ (t.core c).miss = none ∧ t.headStep c = r.step + 6)) ∧
  ∀ (c : CoreId) (s : State) (r : Ready), prepare (issues (.ctl .svc)) c s = .ready r → s.populated c (s.tenant c) →
    ∃ t, exec (.svc c) s = .next t ∧ ∀ m w, r.only m (.ctl .svc) w →
      let s1 := r.written c
      let n := 640 + bits w 6 0
      (bit w 15 = false → (s1.core c).trap = none → (t.core c).trap = some ⟨17, 0x303, m.phys, w, false⟩) ∧
      (bit w 15 = true → (t.core c).trap = (s1.core c).trap ∧ (t.core c).now = r.step + 1 ∧
        (s1.pair.role = .none ∨ (s1.pair.role = .solo ∧ s1.pair.joinFrame ≠ some s1.frame) →
          (s1.flag (evtRoute n) 24 = true → bit t.events n = true) ∧ (s1.flag (evtRoute n) 24 = false → t.events = s1.events)))

/-- A word that triggers ERET (R216): with the frame's eight words F as a load would read them, FLG, IMM, LINK, P0 to P7, the
program address, level, CPRI and TOPSEG are the frame's, DEPTH is one less, the tenant's other sockets are as before, and the
next move issues six steps on, with no acceptance point before. The world, and whatever else EVT_TCTX holds, stay. -/
def Obligations.EretWordRestores : Prop :=
  ∀ (c : CoreId) (s : State) (r : Ready), prepare (issues (.ctl .eret)) c s = .ready r → s.populated c (s.tenant c) →
    ∃ t, exec (.eret c) s = .next t ∧ ∀ m w, r.only m (.ctl .eret) w → s.check = [] →
      let s1 := r.written c
      let f (i : Nat) : Word := s1.own c (s1.frameAddr r.t i)
      let tc := s1.reg (evtTctx r.t)
      t.sock r.t 0x22 = f 1 &&& 0x7F ∧ t.sock r.t 0x20 = f 6 ∧ t.sock r.t 0x30 = word (bits (f 7) 23 0) ∧
      (∀ i, i < 8 → t.sock r.t (0x380 + i) = word (bit (f 7) (24 + i)).toNat) ∧
      (∀ n, n ≠ 0x20 → n ≠ 0x22 → n ≠ 0x30 → ¬(0x380 ≤ n ∧ n < 0x388) → t.sock r.t n = s1.sock r.t n) ∧
      (t.core c).pc = BitVec.ofNat 24 (bits (f 0) 23 0) ∧ (t.core c).front = [] ∧ (t.core c).now = r.step + 1 ∧
      t.headStep c = r.step + 6 ∧ (t.core c).quiet = r.step + 6 ∧
      t.level r.t = 2 * bits tc 39 39 + bits (f 0) 24 24 ∧ t.fld (evtTctx r.t) 36 32 = bits (f 0) 29 25 ∧
      t.fld (evtTctx r.t) 31 28 = bits (f 5) 3 0 ∧ t.fld (evtTctx r.t) 27 24 = bits tc 27 24 - 1 ∧
      t.fld (evtTctx r.t) 39 39 = bits tc 39 39 ∧ t.fld (evtTctx r.t) 23 0 = bits tc 23 0 ∧ ∀ a, t.peek a = s1.peek a

/-! ### Completions -/

/-- UNIT_COMPLETION and DIVIDE_COMPLETION (R33 to R35, R74, R81, R83, R86, R118): the oldest operation of the unit, once its step
is over (moved on by the waits of an access that may wait) and where no other comes before it, leaves the flights and writes what it computed: the sockets of a result and the flags it names; an FXU operation its accumulator as
earlier operations left it, and R for a store; a fault found in the completion step writes nothing and waits as a trap. A move
that wrote FLG in the completion step stands over the flags, but for an OVS that the completion sets. DIVIDE_COMPLETION also
ends the stall, in the step after (t + 42). Out of its turn nothing completes. -/
def Obligations.UnitCompletionWrites : Prop :=
  ∀ (c : CoreId) (u : FU) (wait : Nat) (s : State) (pre post : List Flight) (f : Flight),
    (s.core c).flights = pre ++ f :: post → (∀ g ∈ pre, g.unit ≠ u) → f.unit = u →
    (s.core c).gathers = [] → (s.core c).dsu = none →
    let k := s.core c
    let t0 := s.tenant c
    let due := f.due + if f.shared then wait else 0
    let flg (d : Nat) (t : State) (mask val : Word) : Prop :=
      match k.flgMove with
      | some (st, _) =>
        if st = d then t.sock t0 0x22 = s.sock t0 0x22 ||| (mask &&& val &&& 0x20)
        else t.sock t0 0x22 = applyFlags (s.sock t0 0x22) mask val
      | none => t.sock t0 0x22 = applyFlags (s.sock t0 0x22) mask val
    let writes (d : Nat) (t : State) : Prop :=
      (∀ r x rh y m v, f.act = .result [(r, x), (rh, y)] m v → r ≠ rh → r ≠ 0x22 → rh ≠ 0x22 →
        t.sock t0 r = x ∧ t.sock t0 rh = y ∧ flg d t m v ∧ ∀ n, n ≠ r → n ≠ rh → n ≠ 0x22 → t.sock t0 n = s.sock t0 n) ∧
      (∀ r x m v, f.act = .result [(r, x)] m v → r ≠ 0x22 →
        t.sock t0 r = x ∧ flg d t m v ∧ ∀ n, n ≠ r → n ≠ 0x22 → t.sock t0 n = s.sock t0 n) ∧
      (∀ i op o w, f.act = .fxu i op o w →
        let b := if i = 0 then 0x140 else 0x1C0
        let a := b + 2 + fxuAcc op
        let out := fxuOut op (s.sock t0 a) o w
        t.sock t0 a = out.acc ∧ (∀ x, out.r = some x → t.sock t0 (b + 1) = x) ∧ flg d t out.fl.mask out.fl.val ∧
        ∀ n, n ≠ a → n ≠ 0x22 → (n = b + 1 → out.r = none) → t.sock t0 n = s.sock t0 n) ∧
      (∀ code x, f.act = .fault code x → (∀ n, t.sock t0 n = s.sock t0 n) ∧
        (k.trap = none → (t.core c).trap = some ⟨code, f.sk, f.phys, x, false⟩))
    (¬(.divide ∈ k.hold ∧ u = .mul ∧ ∀ g ∈ post, g.unit ≠ .mul) → due < k.now → k.mayComplete u due = true →
      ∃ t, exec (.unitCompletion ⟨c, wait⟩ u) s = .next t ∧ (t.core c).flights = pre ++ behind u due post ∧ writes due t) ∧
    (.divide ∈ k.hold → u = .mul → (∀ g ∈ post, g.unit ≠ .mul) → exec (.unitCompletion ⟨c, wait⟩ u) s = .next s) ∧
    (k.hold = [.divide] → u = .mul → (∀ g ∈ post, g.unit ≠ .mul) → k.mayComplete .mul f.due = true →
      (k.phase = .running → f.due + 1 - k.now ≤ s.budgetLeft c) →
      ∃ t, exec (.divideCompletion c) s = .next t ∧ (t.core c).flights = pre ++ post ∧
        (t.core c).hold = [] ∧ (t.core c).now = max k.now (f.due + 1) ∧ writes f.due t)

/-- The completion of an LSU operation (R125, R166, R176, R192): a load gets its word, with the core's own earlier stores that
are not yet performed, and an uncorrectable word is the data-error fault (code 15) that leaves R; a compare-exchange replaces
its word when it equals the expected value and Z says so, a fetch-add adds modulo 2^40, both give the old word in R, and no
other word of memory changes. -/
def Obligations.LsuCompletes : Prop :=
  ∀ (c : CoreId) (u : FU) (wait : Nat) (s : State) (f : Flight) (post : List Flight),
    (s.core c).flights = f :: post → f.unit = u → u ≠ .mul → (s.core c).flgMove = none → (s.core c).gathers = [] →
    (s.core c).dsu = none →
    let due := f.due + if f.shared then wait else 0
    due < (s.core c).now → (s.core c).mayComplete u due = true →
    ∃ t, exec (.unitCompletion ⟨c, wait⟩ u) s = .next t ∧
      let t0 := s.tenant c
      let r (i : Fin 2) : Nat := if i = 0 then 0x81 else 0xA1
      (∀ i a w, f.act = .load i a (.buffered w) → t.sock t0 (r i) = w ∧ ∀ b, t.peek b = s.peek b) ∧
      (∀ i a, f.act = .load i a .target → (s.core c).retired = [] →
        (∀ b, t.peek b = s.peek b) ∧
        (s.bad a ≠ some .double → t.sock t0 (r i) = s.peek a) ∧
        (s.bad a = some .double → t.sock t0 (r i) = s.sock t0 (r i) ∧
          ((s.core c).trap = none → (t.core c).trap = some ⟨15, f.sk, f.phys, word a, false⟩))) ∧
      (∀ i a e o, f.act = .cax i a e o → s.bad a ≠ some .double →
        t.sock t0 (r i) = s.peek a ∧ (bit (t.sock t0 0x22) 0 = true ↔ s.peek a = e) ∧
        t.peek a = (if s.peek a = e then o else s.peek a) ∧ ∀ b, b ≠ a → t.peek b = s.peek b) ∧
      (∀ i a o, f.act = .faa i a o → s.bad a ≠ some .double →
        t.sock t0 (r i) = s.peek a ∧ t.sock t0 0x22 = s.sock t0 0x22 ∧ t.peek a = s.peek a + o ∧
        ∀ b, b ≠ a → t.peek b = s.peek b)

/-- The completion of a BLU memory form (R95, R98 to R100): the read and combine forms take BIT as it then stands with the
addressed bit; BGET gives the field; the write forms enter one store of their bits in the buffer and change no memory; BTAS
and BTAC put the bit at the bank and give its old value. -/
def Obligations.BluMemoryCompletes : Prop :=
  ∀ (c : CoreId) (u : FU) (wait : Nat) (s : State) (f : Flight) (post : List Flight) (i : Fin 2) (op : BluOp) (a lo n : Nat)
    (o : Word) (seen : Seen),
    (s.core c).flights = f :: post → f.unit = u → u ≠ .mul → (s.core c).flgMove = none → (s.core c).gathers = [] →
    (s.core c).dsu = none →
    let due := f.due + if f.shared then wait else 0
    due < (s.core c).now → (s.core c).mayComplete u due = true →
    f.act = .bit i op a lo n o seen → lo < 40 → s.bad a ≠ some .double → (s.core c).retired = [] →
    (s.core c).heldAt due < 4 →
    ∃ t, exec (.unitCompletion ⟨c, wait⟩ u) s = .next t ∧
      let t0 := s.tenant c
      let m := match seen with
        | .buffered w => w
        | .target => s.peek a
      let b := bit (s.sock t0 0x22) flagBIT
      let b' := bit (t.sock t0 0x22) flagBIT
      let x := bit m lo
      let enters (d mask : Word) : Prop := (∃ st ∈ (t.core c).buffer, st.addr = a ∧ st.mask = mask ∧ st.data &&& mask = d ∧
        st.entered = due ∧ st.part = (mask != 0xFFFFFFFFFF)) ∧ b' = b ∧ ∀ q, t.peek q = s.peek q
      match op with
      | .bld => b' = x ∧ (t.core c).buffer = (s.core c).buffer
      | .bldn => b' = !x ∧ (t.core c).buffer = (s.core c).buffer
      | .band => b' = (b && x)
      | .bandn => b' = (b && !x)
      | .bor => b' = (b || x)
      | .born => b' = (b || !x)
      | .bxor => b' = (b != x)
      | .bout => enters (word b.toNat <<< lo) (1#40 <<< lo)
      | .boutn => enters (word (!b).toNat <<< lo) (1#40 <<< lo)
      | .bsetm => enters (1#40 <<< lo) (1#40 <<< lo)
      | .bclrm => enters 0 (1#40 <<< lo)
      | .btas => b' = bit (s.peek a) lo ∧ (∀ j, j < 40 → bit (t.peek a) j = if j = lo then true else bit (s.peek a) j) ∧
          ∀ q, q ≠ a → t.peek q = s.peek q
      | .btac => b' = bit (s.peek a) lo ∧ (∀ j, j < 40 → bit (t.peek a) j = if j = lo then false else bit (s.peek a) j) ∧
          ∀ q, q ≠ a → t.peek q = s.peek q
      | .bget => lo + n ≤ 40 → b' = b ∧
          t.sock t0 (if i = 0 then 0xC1 else 0xE1) = word (bits m (lo + n - 1) lo) ∧
          (bit (t.sock t0 0x22) 0 = true ↔ bits m (lo + n - 1) lo = 0)
      | .bput => 1 ≤ n → lo + n ≤ 40 → enters (word (bits o (n - 1) 0) <<< lo) (word (2 ^ n - 1) <<< lo)
      | _ => True

/-- DSU_COMPLETION (R102 to R106): where the outcome is known and everything that comes before has happened, the stall ends and
issue resumes in its step. A fault met leaves DA, DX, DY, DC_CNT and
FLG, shows its FCODE and waits as a trap (9 for a segment, 15 for a data error, else 13); otherwise a string operation's last
word goes to DA and the flags are its row's. A scan ends at the first word that satisfies it, DX at that word and K counting
from it on, or past the last with K = 0, and Z says which. DSU_MICROSTORE_PARITY (R115, R371), in a step of the stall: the DSU stops; MCHK is set,
FCODE reads 5 and the context's VALID is clear; DX, DY, DC_CNT and DA of a string operation hold; the tenant is stopped with
CAUSE 0 by the machine check, a retest waits, and the error is logged as code 9 of the core. -/
def Obligations.DsuEnds : Prop :=
  (∀ (c : CoreId) (wait cuts : Nat) (s : State) (d : DsuRun) (x : DsuResult), (s.core c).dsu = some d → d.rd.res = some x →
     d.rd.gone = none → (s.core c).flgMove = none → (s.core c).hold = [.dsu] → (s.core c).gathers = [] →
     ((s.core c).phase = .running → d.resume - (s.core c).now ≤ s.budgetLeft c) → s.settled c d.resume = true →
     (s.dsuWaits c (s.tenant c) d.op = false ∨ wait = 0) →
     ∃ t, exec (.dsuCompletion ⟨c, wait, cuts⟩) s = .next t ∧
       let t0 := s.tenant c
       (t.core c).dsu = none ∧ (t.core c).hold = [] ∧ (t.core c).now = max (s.core c).now d.resume ∧
       bits (t.sock t0 sockDS) 22 16 = dsuOffset d.op ∧ bits (t.sock t0 sockDS) 15 8 = (if x.fcode = 6 then 0 else x.fcode) % 256 ∧
       (x.fcode ≠ 0 → (∀ n, n ≠ sockDS → t.sock t0 n = s.sock t0 n) ∧ (∀ a, t.peek a = s.peek a) ∧
         ((s.core c).trap = none → ∃ code, (t.core c).trap = some ⟨code, 0x280 + dsuOffset d.op, d.phys, x.detail, false⟩ ∧
           code = if x.fcode = 4 then 9 else if x.fcode = 6 then 15 else 13)) ∧
       (x.fcode = 0 → isBlock d.op = false →
         (∀ v, x.da = some v → t.sock t0 sockDA = v) ∧ (x.da = none → t.sock t0 sockDA = s.sock t0 sockDA) ∧
         t.sock t0 0x22 = applyFlags (s.sock t0 0x22) x.fmask x.fval ∧
         ∀ n, n = sockDX ∨ n = sockDY ∨ n = sockDC → t.sock t0 n = s.sock t0 n) ∧
       (x.fcode = 0 → d.op = .bscan ∨ d.op = .bscann →
         let k := bits (s.sock t0 sockDC) 20 0
         let p := s.sock t0 sockDX
         let base := ptrAddr s t0 p
         let hit (i : Nat) : Prop := (s.own c (base + i) = s.sock t0 sockDA ↔ d.op = .bscan)
         bits p 19 0 + k < 2 ^ 20 →
         (∀ i, i < k → hit i → (∀ j, j < i → ¬hit j) →
           bits (t.sock t0 sockDX) 19 0 = bits p 19 0 + i ∧ bits (t.sock t0 sockDC) 20 0 = k - i ∧ bit (t.sock t0 0x22) 0 = true) ∧
         ((∀ i, i < k → ¬hit i) → bits (t.sock t0 sockDX) 19 0 = bits p 19 0 + k ∧ bits (t.sock t0 sockDC) 20 0 = 0 ∧
           bit (t.sock t0 0x22) 0 = false))) ∧
  (∀ (c : CoreId) (held : Nat) (s : State) (d : DsuRun), (s.core c).dsu = some d → (s.core c).tenant < 8 →
     (s.core c).lastM1 = none → (s.core c).gathers = [] → (s.core c).hold = [.dsu] → (s.core c).now + held < d.resume →
     ((s.core c).phase = .running → held ≤ s.budgetLeft c) → ∃ t, exec (.dsuMicrostoreParity ⟨c, held⟩) s = .next t ∧
       let t0 := s.tenant c
       (t.core c).dsu = none ∧ bit (t.sock t0 sockDS) 29 = true ∧ bits (t.sock t0 sockDS) 15 8 = 5 ∧
       bit (t.peek (dsuCtx t0 0)) 39 = false ∧
       (isBlock d.op = false → ∀ n, n = sockDX ∨ n = sockDY ∨ n = sockDC ∨ n = sockDA → t.sock t0 n = s.sock t0 n) ∧
       t.fld (frmTstat t0) 39 37 = 4 ∧ t.fld (frmTstat t0) 36 35 = 0 ∧ (t.core c).phase = .idle ∧ (t.core c).retest = true ∧
       (t.core c).lastM1 = some s.frame)

/-- What a DSU operation that completes leaves in memory as the core's own later reads see it (R103, R106, R107), from an empty
store buffer: the words of a string at [DY]n, and k words of DA from DY for BFILL. -/
def Obligations.DsuStoresAreSeen : Prop :=
  ∀ (c : CoreId) (cuts : Nat) (s t : State) (d : DsuRun) (x : DsuResult), (s.core c).dsu = some d → d.rd.res = some x →
    x.fcode = 0 → d.rd.gone = none → s.check = [] → (s.core c).buffer = [] → (s.core c).retired = [] → (s.core c).flights = [] →
    (s.core c).gathers = [] → (s.core c).lastRet ≤ d.trig → d.resume ≤ (s.core c).now →
    exec (.dsuCompletion ⟨c, 0, cuts⟩) s = .next t →
    let y := s.sock (s.tenant c) sockDY
    let dest := ptrAddr s (s.tenant c) y
    (isBlock d.op = false → d.op ≠ .dsgn → d.widx = 0 → d.trig + x.words.length + 1 ≤ d.resume →
      (∀ i w, x.words[i]? = some w → t.own c (dest + i) = w) ∧
      ∀ a, a < dest ∨ dest + x.words.length ≤ a → t.own c a = s.peek a) ∧
    (d.op = .bfill → bits y 19 0 + bits (s.sock (s.tenant c) sockDC) 20 0 < 2 ^ 20 →
      let k := bits (s.sock (s.tenant c) sockDC) 20 0
      (∀ i, i < k → t.own c (dest + i) = s.sock (s.tenant c) sockDA) ∧
      (∀ a, a < dest ∨ dest + k ≤ a → t.own c a = s.peek a) ∧
      bits (t.sock (s.tenant c) sockDY) 19 0 = bits y 19 0 + k ∧ bits (t.sock (s.tenant c) sockDC) 20 0 = 0)

/-- STORE_RETIREMENT and STORE_PERFORMED (R124, R176, R189): the head retires no earlier than two steps after its entry and
one after the retirement before it, to be performed L − 1 steps on; a retired store that no earlier store to its path precedes
writes its bits and no other word; a partial store on an uncorrectable word writes nothing; a wait for grants moves it on and
raises SPN_WAITMAX (R118, R187). PARTIAL_OVERLAP_STALL_END, FENCE_RELEASE and ICACHE_REFILL (R125, R127, R130, R158, R193): the
load goes on as if triggered 3 + p steps later and issue resumes after them; a fence releases issue in step P + 1 once every
store is performed; a refill caches the eight words of its line and puts off what the front end holds by L + 3 steps and the
waits. -/
def Obligations.StoresDrainAndHoldsEnd : Prop :=
  let idle (c : CoreId) (s : State) : Prop := (s.core c).gathers = [] ∧ (s.core c).dsu = none
  let fits (c : CoreId) (n : Nat) (s : State) : Prop := (s.core c).phase = .running → n - (s.core c).now ≤ s.budgetLeft c
  ((∀ (c : CoreId) (s : State) (st : Store) (rest : List Store), (s.core c).buffer = st :: rest →
     let r := max (st.entered + 2) ((s.core c).lastRet + 1)
     idle c s → r < (s.core c).now →
     ∃ t, exec (.storeRetirement c) s = .next t ∧
       (t.core c).buffer = rest ∧ (t.core c).lastRet = r ∧
       (t.core c).retired = (s.core c).retired ++ [{ st with due := r + s.latency c st.addr - 1 }] ∧
       (∀ d, d ≠ c.val → t.core d = s.core d) ∧ (∀ q, t.reg q = s.reg q) ∧ Touches [.cores, .regs] s t) ∧
   ∀ (c : CoreId) (wait : Nat) (s : State) (pre post : List Store) (st : Store), (s.core c).retired = pre ++ st :: post →
     (∀ e ∈ pre, pathOf c e.addr ≠ pathOf c st.addr) → idle c s →
     let waits := s.mayWait c st.addr = true
     st.due + (if waits then wait else 0) < (s.core c).now →
     ∃ t, exec (.storePerformed ⟨c, wait⟩ pre.length) s = .next t ∧
       (waits → t.fld spnWaitmax 15 0 = max (s.fld spnWaitmax 15 0) (min wait 0xFFFF)) ∧
       (t.core c).retired = pre ++ post ∧ (t.core c).buffer = (s.core c).buffer ∧ (∀ b, b ≠ st.addr → t.peek b = s.peek b) ∧
       (st.part = false → t.peek st.addr = st.data ∧ t.bad st.addr = none) ∧
       (st.part = true → s.bad st.addr ≠ some .double →
         ∀ i, i < 40 → bit (t.peek st.addr) i = if bit st.mask i then bit st.data i else bit (s.peek st.addr) i) ∧
       (st.part = true → s.bad st.addr = some .double → t.peek st.addr = s.peek st.addr ∧ t.bad st.addr = some .double)) ∧
  ((∀ (c : CoreId) (s : State) (f : Flight) (p : Nat), (s.core c).hold = [.overlap f p] → s.det c = true → idle c s →
     fits c (f.trig + 4 + p) s →
     ∃ t, exec (.partialOverlapStallEnd c) s = .next t ∧ (t.core c).hold = [] ∧ (t.core c).now = max (s.core c).now (f.trig + 4 + p) ∧
       ∃ g, (t.core c).flights = (s.core c).flights ++ [g] ∧ g.trig = f.trig + 3 + p ∧
         g.due = max (f.due + 3 + p) ((s.core c).turn f.unit) ∧
         g.unit = f.unit ∧ g.sk = f.sk ∧ g.phys = f.phys ∧
         (∀ i a o, f.act = .faa i a o → g.act = f.act) ∧ (∀ i a e o, f.act = .cax i a e o → g.act = f.act) ∧
         ∀ i a sn, f.act = .load i a sn →
           g.act = match bufHit a 1 (s.core c).buffer .none with
             | .full w => .load i a (.buffered w)
             | _ => .load i a .target) ∧
   (∀ (c : CoreId) (s : State) (p : Nat), (s.core c).hold = [.fence p] → (s.core c).buffer = [] → (s.core c).retired = [] →
     (∀ f ∈ (s.core c).flights, f.store = none) → idle c s → fits c (p + 1) s →
     ∃ t, exec (.fenceRelease c) s = .next t ∧ (t.core c).hold = [] ∧ (t.core c).now = max (s.core c).now (p + 1) ∧
       Touches [.cores, .regs] s t) ∧
   (∀ (c : CoreId) (s : State) (p : Nat), (s.core c).hold = [.fence p] →
     ((s.core c).buffer ≠ [] ∨ (s.core c).retired ≠ [] ∨ ∃ f ∈ (s.core c).flights, f.store ≠ none) →
     exec (.fenceRelease c) s = .next s) ∧
   (∀ (c : CoreId) (wait : Nat) (s : State), (s.core c).miss = none → exec (.icacheRefill ⟨c, wait⟩) s = .next s) ∧
   ∀ (c : CoreId) (wait : Nat) (s : State) (m : Miss), (s.core c).miss = some m → m.go = false ∨ (s.core c).hold ≠ [] →
     s.check = [] →
     let d := s.latency c (8 * m.line) + 3 + (if s.mayWait c (8 * m.line) then wait else 0)
     ∃ t, exec (.icacheRefill ⟨c, wait⟩) s = .next t ∧ (t.core c).miss = none ∧
       (t.core c).line m.line = some ((s.peeks (8 * m.line) 8).map fun w => (w, false)) ∧
       (t.core c).paStep = m.step - 1 + d ∧ (t.core c).front.length = (s.core c).front.length ∧
       (∀ (i : Nat) w, (s.core c).front[i]? = some w →
         (t.core c).front[i]? = some { w with at_ := max w.at_ (m.step - 3) + d }) ∧
       (∀ l, l % 512 ≠ m.line % 512 → (t.core c).line l = (s.core c).line l) ∧ Touches [.cores, .regs, .free] s t)

/-! ### Events -/

/-- EVENT_OCCURRENCE, EVIN_OCCURRENCE and TENANT_TIMER (R202, R203, R219, R280, R329): on a device that runs alone a routed
event becomes pending, or is merged and counted in LOST where it is; with EN = 0 it is discarded; a SECONDARY, STANDBY or
JOINING device discards it; a PRIMARY leaves it to a later delivery, and so does a SOLO device in its join frame (log entry 22).
A device-health event sets host cause 25. While the part is in reset an occurrence has no effect but the level of its line
(R362). A tenant timer runs the time base to its instant. -/
def Obligations.EventsBecomePending : Prop :=
  let alone (s : State) : Prop := s.pair.role = .none ∨ s.pair.role = .dropped ∨
    (s.pair.role = .solo ∧ s.pair.joinFrame ≠ some s.frame)
  let occurs (n : Nat) (s t : State) : Prop :=
    (s.flag (evtRoute n) 24 = false → t.events = s.events ∧ t.deliver = s.deliver) ∧
    (s.pair.role = .secondary ∨ s.pair.role = .standby ∨ s.pair.role = .joining → t.events = s.events ∧ t.deliver = s.deliver) ∧
    (s.pair.role = .primary → t.events = s.events) ∧
    (alone s → s.flag (evtRoute n) 24 = true → bit t.events n = true ∧ (∀ m, m ≠ n → bit t.events m = bit s.events m) ∧
      t.fld (evtPsum (s.fld (evtRoute n) 23 17) (s.fld (evtRoute n) 16 16)) 39 24 =
        (s.fld (evtPsum (s.fld (evtRoute n) 23 17) (s.fld (evtRoute n) 16 16)) 39 24 + (bit s.events n).toNat) % 2 ^ 16) ∧
    (960 ≤ n → n ≤ 1007 → t.flag (hstIstat 0) 25 = true)
  (∀ (n : Fin 1024) (s : State),
    (s.inReset = true → exec (.eventOccurrence n) s = .next s) ∧
    (s.inReset = false → ∃ t, exec (.eventOccurrence n) s = .next t ∧ occurs n s t ∧
      Touches [.out, .regs, .events, .deliver, .pair, .host] s t)) ∧
  (∀ (n : Fin 16) (s : State), ∃ t, exec (.evinOccurrence n) s = .next t ∧ bit t.pins.evin n = true ∧
    (s.inReset = true → Touches [.pins] s t) ∧
    (s.inReset = false → occurs (1008 + n) s t ∧ Touches [.out, .regs, .events, .deliver, .pair, .host, .pins] s t)) ∧
  ∀ (c : CoreId) (s : State), s.frm.started = true → s.flag (evtTmr c) 20 = true →
    s.fld (evtTmr c) 19 0 < s.fld frmCtl 19 0 → ∃ t, exec (.tenantTimer c) s = .next t ∧ occurs (768 + c) s t ∧
      (s.frm.boundary + 1000 * s.fld (evtTmr c) 19 0 < 2 ^ 64 →
        s.frm.boundary + 1000 * s.fld (evtTmr c) 19 0 ≤ t.clk.tb.toNat)

/-- EVENT_ACCEPTANCE (R207 to R210, R212): at an acceptance point of a running slot, `held` steps on, with no trap waiting or
about to be raised, and within the budget, the most urgent eligible event is entered and its pending bit is cleared; the handler's
first word issues 12 steps after the acceptance; where none is eligible nothing happens. TRAP_ACCEPTANCE (R210, R212, R214,
R398): a waiting trap or fault is entered through the entry of its code, a decode trap at an acceptance point only, an SVC as
KIND 2, with CORE_TRAPSK and CORE_TRAPPC; where DEPTH is 8, the entry is not valid or the stack check fails the tenant is stopped
in step a + 2 with CAUSE 3, or before that by its budget with CAUSE 1, and keeps its level, CPRI, TOPSEG and DEPTH. -/
def Obligations.AcceptanceEnters : Prop :=
  (∀ (c : CoreId) (held n : Nat) (s : State),
     let k := s.core c
     let u := s.tenant c
     let pri (m : Nat) : Nat := s.fld (evtRoute m) 15 12
     let d := s.reg (evtDesc c (s.fld (evtTctx u) 39 39) (32 + s.fld (evtRoute n) 4 0))
     k.phase = .running → k.tenant < 8 → s.fatal = false → k.gathers = [] → k.dsu = none → held < s.budgetLeft c →
     s.canReach c (k.now + held) = true → s.settled c (k.now + held) = true → k.acceptancePoint (k.now + held) = true →
     k.trap = none → (s.passTo c (k.now + held)).wouldTrap c = false →
     ((∀ m, m < 1024 → s.eligible c u m = false) → exec (.eventAcceptance c held) s = .next s) ∧
     (n < 1024 → s.eligible c u n = true → (∀ m, m < 1024 → s.eligible c u m = true → pri n < pri m ∨ (pri n = pri m ∧ n ≤ m)) →
       s.fld (evtTctx u) 27 24 < 8 → bit d 39 = true → stackOk c (s.seg u (bits d 37 34)) (bit d 38) = true →
       ∃ t, exec (.eventAcceptance c held) s = .next t ∧
         Enters c ⟨0, 0, pri n, n, 0, 0, 32 + s.fld (evtRoute n) 4 0, 0⟩ k.retpc s t ∧
         (s.check = [] → k.front.all (fun w => !w.logged) = true → ∀ m, bit t.events m = (bit s.events m && m != n)) ∧
         (t.core c).now = k.now + held ∧ t.headStep c = k.now + held + 12 ∧ (t.core c).quiet = k.now + held + 12)) ∧
  (∀ (c : CoreId) (s : State) (x : Trap),
     let k := s.core c
     let u := s.tenant c
     let d := s.reg (evtDesc c (s.fld (evtTctx u) 39 39) x.code)
     let good := s.fld (evtTctx u) 27 24 ≠ 8 ∧ bit d 39 = true ∧ stackOk c (s.seg u (bits d 37 34)) (bit d 38) = true
     k.trap = some x → k.phase = .running → k.tenant < 8 → s.fatal = false → 0 < s.budgetLeft c → s.settled c k.now = true →
     (x.decode = true → k.acceptancePoint k.now = true) →
     (good → s.fld (evtTctx u) 27 24 < 8 → ∃ t, exec (.trapAcceptance c 0) s = .next t ∧
       Enters c ⟨if x.code = 17 then 2 else 1, x.code, 0, 0, x.phys, x.detail, x.code, x.sk⟩ k.retpc s t ∧
       (s.check = [] → k.front.all (fun w => !w.logged) = true → t.events = s.events) ∧
       (t.core c).now = k.now ∧ t.headStep c = k.now + 12 ∧ (t.core c).quiet = k.now + 12) ∧
     (¬good → ∃ t, exec (.trapAcceptance c 0) s = .next t ∧ t.fld (frmTstat u) 39 37 = 4 ∧
       t.fld (frmTstat u) 36 35 = (if s.budgetLeft c < 2 then 1 else 3) ∧
       (t.core c).now = k.now + min 2 (s.budgetLeft c) ∧
       (t.core c).phase = .idle ∧ (t.core c).trap = none ∧ t.reg (evtTctx u) = s.reg (evtTctx u)))

/-! ### Slots -/

/-- SLOT_OPEN, TENANT_END, BUDGET_FAULT, PACE_FAULT and SLOT_CLOSE (R15, R43, R222, R224 to R229, R234, R237, R261): a slot opens
for a READY tenant that is not held and only then, once a frame, no earlier than OPEN, at ENTRY, six steps on, with the mode of
its entry; the tenant ends at END with DEPTH 0 and nothing held; a stop counts, records its cause, puts back an entry that it
meets, and requests a reset with AUTORST. The budget fault falls in the step after the budget's last, the pace fault no earlier
than the guard point of R227 and, where the budget fault falls in its step or before it, not at all. -/
def Obligations.SlotsOpenEndAndStop : Prop :=
  ∀ (c : CoreId) (s : State),
    (∀ k : Fin 8,
      let a := s.reg (frmSlotA c k)
      let u := 8 * c.val + bits a 36 34
      let opens := s.frm.started = true ∧ s.fatal = false ∧ s.runsTenants = true ∧ s.offline c = false ∧
        (s.core c).phase = .closed ∧ s.hasOpened c k = false ∧ bit a 39 = true ∧ s.fld (frmTstat u) 39 37 = 1 ∧ s.held u = false
      (¬opens → exec (.slotOpen c k) s = .next s) ∧
      (opens → ∃ t, exec (.slotOpen c k) s = .next t ∧ (t.core c).phase = .running ∧ (t.core c).slot = k ∧
        (t.core c).tenant = bits a 36 34 ∧ (t.core c).pc = BitVec.ofNat 24 (s.fld (frmTcfg u) 23 0) ∧
        (t.core c).now = (s.core c).now + 6 ∧ t.headStep c = (s.core c).now + 6 ∧ t.hasOpened c k = true ∧
        (s.frm.boundary + bits a 29 0 < 2 ^ 64 → s.frm.boundary + bits a 29 0 ≤ t.clk.tb.toNat) ∧ (t.core c).hold = [] ∧ (t.core c).trap = none ∧ (t.core c).modeChange = none ∧
        t.fld (coreScnt c) 31 0 = 0 ∧ t.fld (frmTstat u) 39 37 = 2 ∧ t.flag (coreMode c) 3 = true ∧
        t.flag (coreMode c) 2 = s.flag (frmTcfg u) 39 ∧ t.flag (coreMode c) 1 = (!s.flag (evtTctx u) 39 || bit a 37) ∧
        t.flag (coreMode c) 0 = (!s.flag (evtTctx u) 39 || bit a 38) ∧ Touches [.out, .regs, .cores, .frm, .clk] s t)) ∧
    let k := s.core c
    let u := s.tenant c
    let scnt := s.fld (coreScnt c) 31 0
    let left := s.budgetLeft c
    let guardPt := s.guardPoint c k.slot
    let atEnd := k.phase = .running ∧ k.hold = [] ∧ k.trap = none ∧ k.pc.toNat = s.fld (frmTend u) 23 0 ∧
      s.fld (evtTctx u) 27 24 = 0
    let quiet (t : State) : Prop := (t.core c).phase = .idle ∧ (t.core c).flights = [] ∧ (t.core c).hold = [] ∧
      (t.core c).dsu = none ∧ (t.core c).gathers = [] ∧ (t.core c).trap = none ∧ (t.core c).modeChange = none
    let stopped (cause : Nat) (t : State) : Prop := quiet t ∧ t.fld (frmTstat u) 39 37 = 4 ∧ t.fld (frmTstat u) 36 35 = cause ∧
      t.fld (frmTstat u) 31 24 = (s.fld (frmTstat u) 31 24 + 1) % 256 ∧ t.fld (frmTstat u) 19 0 = 0 ∧
      (s.flag (frmTcfg u) 38 = true → ⟨u, s.frame, none⟩ ∈ t.frm.resets)
    let undone (t : State) (n : Nat) : Prop := ∀ e, k.entering = some e → n < e.step + 12 → t.reg (evtTctx u) = e.tctx ∧
      ∀ m, m < 1024 → e.event = some m → bit t.events m = true
    (∀ slack, ¬atEnd → exec (.tenantEnd c slack) s = .next s) ∧
    (∀ slack w l, k.tenant < 8 → atEnd → k.miss = none → k.now ≤ k.paStep → 0 < k.paStep → s.settled c k.now = true →
      k.front = w :: l → w.pc = k.pc → w.at_ + depth (s.det c) ≤ k.now →
      ∃ t, exec (.tenantEnd c slack) s = .next t ∧ quiet t ∧ t.fld (frmTstat u) 39 37 = 3 ∧
      t.fld (frmTuse u) 31 0 = max scnt (s.fld (frmTuse u) 31 0) ∧
      t.fld (frmTstat u) 19 0 = min (min slack 0xFFFFF) (s.fld (frmTstat u) 19 0)) ∧
    (∀ held, k.phase ≠ .running ∨ held ≠ left → exec (.budgetFault c held) s = .next s) ∧
    (k.phase = .running → k.tenant < 8 → s.canReach c (k.now + left) = true → s.settled c (k.now + left) = true → ¬atEnd →
      ∃ t, exec (.budgetFault c left) s = .next t ∧ stopped 1 t ∧ (t.core c).now = k.now + left ∧
        t.fld (coreScnt c) 31 0 = max scnt (s.fld (frmSlotC c k.slot) 31 0) ∧ undone t (k.now + left)) ∧
    (∀ held, k.phase ≠ .running ∨ left ≤ held → exec (.paceFault c held) s = .next s) ∧
    (∀ held, k.phase = .running → k.tenant < 8 → held < left → s.canReach c (k.now + held) = true →
      s.settled c (k.now + held) = true → ∃ t, exec (.paceFault c held) s = .next t ∧ stopped 2 t ∧
        (t.core c).now = k.now + held ∧ (guardPt < 2 ^ 64 → guardPt ≤ t.clk.tb.toNat) ∧ undone t (k.now + held)) ∧
    (k.phase = .running ∨ k.phase = .closed ∨ k.running ≠ [] → exec (.slotClose c) s = .next s) ∧
    (k.phase = .idle ∨ k.phase = .sentry ∨ k.phase = .housekeeping → k.running = [] → ∃ t, exec (.slotClose c) s = .next t ∧
      (s.frm.boundary + s.fld (frmSlotB c k.slot) 29 0 < 2 ^ 64 →
        s.frm.boundary + s.fld (frmSlotB c k.slot) 29 0 ≤ t.clk.tb.toNat) ∧
      (t.core c).phase = .closed ∧ (t.core c).slot = 15 ∧ (t.core c).tenant = 0 ∧ (t.core c).buffer = k.buffer ∧
      (∀ r, r ≠ coreMode c → t.reg r = s.reg r) ∧ Touches [.free, .out, .regs, .cores, .clk] s t)

/-- SENTRY_SLOT and SELF_TEST_COMPLETE (R43, R230, R371, R372, R377, R378): the sentry slot starts the retest, else the first
host request, where its count fits the BUDGET; a test's end answers the command that asked for it and turns the rotation on; a
failed test is an M2 error (code 11) that takes the core offline. -/
def Obligations.SelfTestsRun : Prop :=
  ∀ (c : CoreId) (s : State),
    let k := s.core c
    let budget := s.fld (frmSlotC c 8) 31 0
    let steps (code : Nat) : Nat := if code = 1 then 2400 else if code = 2 then 4400 else if code = 3 then 600 else 400
    let opens := s.frm.started = true ∧ s.fatal = false ∧ k.phase = .closed ∧ k.running = [] ∧ s.hasOpened c 8 = false ∧
      s.flag (frmSlotA c 8) 39 = true
    (¬opens → exec (.sentrySlot c) s = .next s) ∧
    (opens → ∃ t, exec (.sentrySlot c) s = .next t ∧ (t.core c).phase = .sentry ∧ (t.core c).slot = 8 ∧
      t.fld (coreScnt c) 31 0 = 0 ∧ t.fld (coreMode c) 3 0 = 11 ∧
      (k.retest = true → s.offline c = false → (t.core c).running = if 4400 ≤ budget then [⟨2, .retest⟩] else []) ∧
      (∀ x l, k.retest = false ∨ s.offline c = true → k.tests = x :: l →
        (t.core c).running = if steps x.code ≤ budget then [x] else []) ∧
      (k.retest = false ∨ s.offline c = true → k.tests = [] → s.flag errStctl 39 = false ∨ s.offline c = true →
        (t.core c).running = []) ∧ Touches [.out, .regs, .cores, .frm, .clk] s t) ∧
    (∀ f, k.phase ≠ .sentry ∨ k.running = [] → exec (.selfTestComplete c f) s = .next s) ∧
    ∀ (f : Option Nat) (x : Test) (l : List Test), k.phase = .sentry → k.running = x :: l →
      ∃ t, exec (.selfTestComplete c f) s = .next t ∧
      t.fld (coreScnt c) 31 0 = min 0xFFFFFFFF (s.fld (coreScnt c) 31 0 + steps x.code) ∧
      (x.src = .retest → (t.core c).retest = false) ∧
      (x.src = .rotation → t.fld errStctl 1 0 = (s.fld errStctl 1 0 + 1) % 4) ∧
      (∀ n, x.src = .host n → (s.cmd n).busy = true →
        (t.cmd n).st = .done ∧ (t.cmd n).prog = 3 ∧ (t.cmd n).fail = 0 ∧ (t.core c).tests = k.tests.drop 1 ∧
        t.host.bar4.get (512 * n + 16) 0 = word f.isSome.toNat ∧ t.host.bar4.get (512 * n + 17) 0 = word (steps x.code) ∧
        ∀ v, f = some v → t.host.bar4.get (512 * n + 18) 0 = word v) ∧
      (f.isSome = true → t.offline c = true ∧ t.flag errSum 13 = true)

/-- HOUSEKEEPING_SLOT and HOUSEKEEPING_OVERRUN (R231, R233 to R235, R372): the slot drains the store buffer, performs every
reset that waits and sets the core's FRM_HAND bit; a tenant that is reset is READY in the next epoch with a cleared context,
CPRI 16 and DEPTH 0. A slot that overruns does not hand off: event 965 and bit 4 of the health word. An offline core only has
its FRM_HAND bit set. -/
def Obligations.HousekeepingResetsTenants : Prop :=
  ∀ (c : CoreId) (s : State),
    let k := s.core c
    let keeps := s.frm.started = true ∧ s.fatal = false ∧ k.phase = .closed ∧ s.hasOpened c 9 = false ∧
      s.flag (frmSlotA c 9) 39 = true
    (¬keeps → exec (.housekeepingSlot c) s = .next s ∧ ∀ n, exec (.housekeepingOverrun c n) s = .next s) ∧
    (keeps → s.offline c = true → (∀ n, exec (.housekeepingOverrun c n) s = .next s) ∧
      (c.val ≠ 0 → exec (.housekeepingSlot c) s = .next ((s.noteOpen c 9).setFlag (frmHand (c / 32)) (c % 32) true))) ∧
    (keeps → s.offline c = false →
      (∃ t, exec (.housekeepingSlot c) s = .next t ∧ t.flag (frmHand (c / 32)) (c % 32) = true ∧
        (t.core c).phase = .idle ∧ (t.core c).slot = 9 ∧ (t.core c).buffer = [] ∧ (t.core c).retired = [] ∧
        t.fld (coreMode c) 3 0 = 11 ∧
        ∀ u q, u / 8 = c.val → q ∈ s.frm.resets → q.what = u → q.notBefore ≤ s.frame →
          t.fld (frmTstat u) 39 37 = 1 ∧ t.fld (frmTstat u) 36 35 = 0 ∧
          t.fld (frmTuse u) 39 32 = (s.fld (frmTuse u) 39 32 + 1) % 256 ∧ (∀ n, t.sock u n = 0) ∧ (t.ctx u).gather = none ∧
          t.fld (evtTctx u) 36 32 = 16 ∧ t.fld (evtTctx u) 27 24 = 0 ∧ t.fld (evtTctx u) 31 28 = 0 ∧
          t.level u = 2 * s.fld (evtTctx u) 39 39 ∧ (∀ w, w < 4 → t.fld (coreWin u w) 10 0 = 0) ∧
          ((∀ v n, v / 8 = c.val → n < 4 → s.flag (frmTq v n) 39 = false) → bit (t.peek (dsuCtx u 0)) 39 = false) ∧
          q ∉ t.frm.resets) ∧
      ∀ n, ∃ t, exec (.housekeepingOverrun c n) s = .next t ∧
        t.flag (frmHand (c / 32)) (c % 32) = s.flag (frmHand (c / 32)) (c % 32) ∧ bit t.pair.health 4 = true ∧
        (t.core c).phase = .idle ∧ t.hasOpened c 9 = true ∧ (s.guardPoint c 9 < 2 ^ 64 → s.guardPoint c 9 ≤ t.clk.tb.toNat) ∧
        (s.pair.role = .none ∨ (s.pair.role = .solo ∧ s.pair.joinFrame ≠ some s.frame) → s.flag (evtRoute 965) 24 = true →
          bit t.events 965 = true))

/-! ### Frames -/

/-- FRAME_BOUNDARY (R7, R14, R220, R233, R234, R263 to R265, R281, R297, R301, R329, R342): the device begins frames once it is
sealed, its time base runs and, in pair mode, it has a role; a boundary comes no earlier than its instant. The first boundary is that of frame 0; a later one counts FRM_COUNT,
clears FRM_HAND, performs a swap that is armed for the frame or refuses one still checked, applies what waits for a boundary,
makes the newest candidate the plan, makes ENDED tenants READY, and hands a pair over in its frame H. -/
def Obligations.FrameBoundaryActs : Prop :=
  ∀ (s : State),
    let runs := s.sealed = true ∧ s.clk.running = true ∧ (s.pairMode = false ∨ s.pair.role ≠ .none)
    let k := s.frame + 1
    let restarted (m : Map Word) (t : State) : Prop := ∀ e, e < 512 → t.timers.get e none =
      if (exch m e).valid && !(exch m e).tx && (exch m e).tmo != 0 then some t.frm.boundary else none
    (¬runs → exec .frameBoundary s = .next s) ∧
    (runs → ∃ t, exec .frameBoundary s = .next t ∧ t.frm.started = true ∧ t.lv = [] ∧
      t.frm.boundary = t.clk.tb.toNat ∧ (s.nextBoundary < 2 ^ 64 → s.nextBoundary ≤ t.frm.boundary) ∧
      (∀ u, u < 1024 → t.fld (frmTstat u) 39 37 = if s.fld (frmTstat u) 39 37 = 3 then 1 else s.fld (frmTstat u) 39 37) ∧
      (∀ p, s.age.cand = some p → t.age.cand = none ∧ t.age.plan = some p ∧ t.fld agePlan 39 28 = p.pstep % 4096 ∧
        t.fld agePlan 27 18 = p.v % 1024 ∧ ∀ n, n < 136 → t.age.code n = p.codes.getD n 0x20) ∧
      (∀ l v, s.lv = l ++ [(agePolicy, v)] → t.fld agePolicy 13 0 = bits v 13 0) ∧
      (∀ (c : CoreId) (l : List (Nat × Word)) (v : Word), s.lv = l ++ [(evtTmr c, v)] → t.fld (evtTmr c) 20 0 = bits v 20 0) ∧
      (s.frm.started = false → t.frame = s.frame ∧ restarted s.active t) ∧
      (s.frm.started = true → k < 2 ^ 40 → t.frame = k ∧ t.frm.frozen = false ∧ t.frm.digested = false ∧ t.frm.judged = false ∧
        t.frm.opened = [] ∧ t.frm.cancelled = [] ∧
        t.frm.flushedPrev = s.frm.flushed ∧ (∀ n, n < 4 → t.fld (frmHand n) 31 0 = 0) ∧
        t.pair.held = s.pair.held.filter (fun w => decide (k < w.frame)) ∧ (s.check = [] → t.pair.healthOut = s.pair.health) ∧
        (s.fld cfgSwapf 39 0 ≠ k → t.flag cfgStat 26 = s.flag cfgStat 26 ∧ t.flag cfgSwstat 6 = false) ∧
        (s.fld cfgSwapf 39 0 = k → s.flag cfgSwstat 4 = true →
          t.flag cfgStat 26 = (!s.flag cfgStat 26) ∧ t.flag cfgSwstat 4 = false ∧ t.flag cfgSwstat 6 = true ∧
          t.flag cfgSwstat 1 = true ∧ t.flag (hstIstat 0) 24 = true ∧
          (∀ c : CoreId, (t.core c).icache = []) ∧ (s.pair.role ≠ .joining → restarted s.shadow t)) ∧
        (s.fld cfgSwapf 39 0 = k → s.flag cfgSwstat 4 = false → s.flag cfgSwstat 5 = true →
          t.flag cfgStat 26 = s.flag cfgStat 26 ∧ t.flag cfgSwstat 5 = false ∧ t.flag cfgSwstat 2 = true ∧
          t.fld cfgSwstat 23 20 = 3) ∧
        (s.fld hstTick 19 0 ≠ 0 → k % s.fld hstTick 19 0 = 0 → t.flag (hstIstat 0) 28 = true) ∧
        (s.pair.role = .primary → s.pair.joinFrame = none → s.pair.handFrame = some k →
          t.pair.role = if s.pair.unlike then .standby else .secondary) ∧
        (s.pair.role = .secondary ∨ s.pair.role = .standby →
          ((s.inputSet k).length ≤ s.pair.fwdGot → s.pair.handFrame = some k → t.pair.role = .primary) ∧
          (s.pair.fwdGot < (s.inputSet k).length → t.pair.role = .dropped ∨ t.pair.role = .joining))) ∧
      Touches [.free, .out, .regs, .lv, .recto, .verso, .mem, .check, .cores, .events, .deliver, .frm, .pair, .age, .host, .ports,
        .timers, .clk] s t)

/-- DIGEST_COMPLETION, VERDICT_POINT and INPUT_CUTOFF (R13, R25, R285 to R290, R293, R341): each comes once a frame, at its phase
point, the verdict after the digest. The digest is the CRC-64 of the output and mirror sets of the last frame; a device in a
comparing role sends it, a single one records it. Each of the two comparators works on its own copies of the two digests; where
both report EQUAL on both copies the sets AGREE, where both report DIFFER on both it is a MISMATCH, else a CMPFAULT; without a
partner's digest the set is LATE. After a mismatch the set is never sent again, and the device yields or goes on alone. At the
cutoff the input set is frozen, and forwarded as far as its parse writes are performed, or kept. -/
def Obligations.DigestsAndVerdicts : Prop :=
  ∀ (s : State),
    let k := s.frame - 1
    let acts := s.frm.started = true ∧ s.frame ≠ 0 ∧ s.fatal = false ∧ s.frm.digested = false
    let judges := s.frm.started = true ∧ s.frame ≠ 0 ∧ s.fatal = false ∧ s.frm.digested = true ∧ s.frm.judged = false
    let passed (us : Nat) (t : State) : Prop := s.frm.boundary + 1000 * us < 2 ^ 64 → s.frm.boundary + 1000 * us ≤ t.clk.tb.toNat
    let comparing := s.pair.role = .primary ∨ s.pair.role = .secondary ∨ s.pair.role = .standby
    (¬acts → exec .digestCompletion s = .next s) ∧ (¬judges → exec .verdictPoint s = .next s) ∧
    (acts → s.check = [] → ∃ t, exec .digestCompletion s = .next t ∧
      let d := crcWords ((s.outputSet k ++ s.mirrorSet k).map s.peek)
      let m : DigestMsg := ⟨d, ~~~d, s.pair.healthOut, word k⟩
      t.pair.ownDig = some m ∧ t.pair.ownDigB = some m ∧ t.frm.digested = true ∧ passed (s.fld frmPhase0 39 20) t ∧
      (comparing → (s.pair.link = .up ∨ s.pair.link = .ident) → s.pair.unacked.length < 64 →
        t.lastSent ⟨s.pair.txSeq, BitVec.ofNat 8 k, .digest m⟩ s.ackOut) ∧
      (¬comparing → t.fld mirDigo0 39 0 = bits d 39 0 ∧ t.fld mirDigo1 39 0 = bits d 63 40 ∧ noPacket s t) ∧
      Touches [.out, .regs, .frm, .pair, .clk] s t) ∧
    (judges → ∃ t, exec .verdictPoint s = .next t ∧
      Touches [.out, .regs, .events, .deliver, .frm, .pair, .host, .ports, .clk] s t ∧ t.frm.judged = true ∧
      passed (s.fld frmPhase0 19 0) t ∧
      (¬comparing → t.fld mirVerd 39 37 = s.fld mirVerd 39 37 ∧ t.pair.role = s.pair.role) ∧
      (comparing → t.pair.verdictFor = some k ∧ t.fld mirVerd 31 0 = k % 2 ^ 32 ∧
        (s.pair.notcmp = some k → t.fld mirVerd 39 37 = 6) ∧
        (s.pair.notcmp ≠ some k → s.pair.role = .standby ∨ s.pair.unlike = true → t.fld mirVerd 39 37 = 5) ∧
        (s.pair.notcmp ≠ some k → s.pair.role ≠ .standby → s.pair.unlike = false →
          (s.pair.partDig = none → t.fld mirVerd 39 37 = 4 ∧ t.flag (hstIstat 0) 26 = true ∧
            (s.pair.role = .primary → t.pair.role = .solo)) ∧
          ∀ own part ownB partB, s.pair.ownDig = some own → s.pair.partDig = some part → part.frame.toNat = k →
            s.pair.ownDigB = some ownB → s.pair.partDigB = some partB → partB.frame.toNat = k →
            let agree := own.digest = part.digest ∧ own.inv = part.inv ∧ ownB.digest = partB.digest ∧ ownB.inv = partB.inv
            let differ := own.digest ≠ part.digest ∧ own.inv ≠ part.inv ∧ ownB.digest ≠ partB.digest ∧ ownB.inv ≠ partB.inv
            let bad (m : DigestMsg) : Bool := bits m.health 5 0 != 0
            let yields := if bad own = bad part then s.pair.role = .secondary else bad own = true
            t.fld mirDigo0 39 0 = bits own.digest 39 0 ∧ t.fld mirDigp1 39 0 = bits part.digest 63 40 ∧
            (agree → t.fld mirVerd 39 37 = 1 ∧ t.pair.role = s.pair.role ∧ t.pair.barred = s.pair.barred) ∧
            (differ → t.fld mirVerd 39 37 = 2) ∧
            (¬agree → ¬differ → t.fld mirVerd 39 37 = 3 ∧ bit t.pair.health 2 = true) ∧
            t.fld mirVerd 36 33 = 8 * (own.digest == part.digest).toNat + 4 * (own.inv == part.inv).toNat +
              2 * (ownB.digest == partB.digest).toNat + (ownB.inv == partB.inv).toNat ∧
            (¬agree → t.pair.barred = some k ∧
              t.fld mirCnt1 39 20 = (s.fld mirCnt1 39 20 + 1) % 2 ^ 20 ∧
              (¬yields → t.pair.role = .solo) ∧
              (yields → (t.pair.role = .dropped ∨ t.pair.role = .joining) ∧
                ∀ p, p < 4 → (t.port p).toSend = [] ∧ (t.port p).sending = none)))) ∧
      (s.frame % 1024 ≠ 0 → t.flag mirVerd 32 = s.flag mirVerd 32) ∧
      (s.frame % 1024 = 0 → ∀ own ownB, s.pair.ownDig = some own → s.pair.ownDigB = some ownB →
        (s.pair.partDig = some own ∧ s.pair.partDigB = some ownB) ∨ ¬comparing → t.flag mirVerd 32 = true)) ∧
    (¬(s.frm.started = true ∧ s.frm.frozen = false) → exec .inputCutoff s = .next s) ∧
    (s.frm.started = true → s.frm.frozen = false → s.check = [] → ∃ t, exec .inputCutoff s = .next t ∧
      t.frm = { s.frm with frozen := true } ∧ Touches [.out, .frm, .pair, .clk] s t ∧ passed (s.fld frmPhase1 19 0) t ∧
      let set := s.inputSet (s.frame + 1)
      (s.pair.role = .secondary ∨ s.pair.role = .standby ∨ s.pair.role = .joining →
        ∃ m, t.pair.ownFrozen = some (s.frame + 1, m) ∧ ∀ a ∈ set, m.get a 0 = s.peek a) ∧
      (s.pair.role = .primary → s.fatal = false → s.pair.link = .up → s.pair.unacked = [] → s.pair.fwdNext = 0 →
        (∀ a ∈ set, s.writeDue (s.frame + 1) a = false) → set ≠ [] → set.length ≤ 256 →
        t.lastSent ⟨s.pair.txSeq, s.frameByte, .input 0 (set.map s.peek)⟩ s.ackOut ∧ t.pair.fwdNext = set.length))

/-- TRANSMIT_POINT, OUTPUT_FRAME_SENT and TX_QUEUE_ITEM_SEND (R19, R24, R196, R290, R292, R339, R343, R346, R348): once a frame,
from X on, the enabled port assembles the frames of its transmit entries from output set FRM_COUNT − 1, in entry order, behind
a frame it is still sending; a frame has its addresses, tag, EtherType, data and FCS in their places. Each frame sent counts in
TXOK; a port that may no longer send withholds the rest. A queue item leaves with its first LEN bytes, between cyclic frames,
where it ends before the next X. -/
def Obligations.OutputFramesAreSent : Prop :=
  ∀ (p : PortId) (s : State),
    let drives := s.fatal = false ∧ (s.pairMode = false ∨ (s.faultN = false ∧ (s.pair.role = .primary ∨ s.pair.role = .solo)))
    (let x0 := s.frm.boundary + 1000 * s.fld frmPhase1 39 20
     let comes := s.frm.started = true ∧ (s.port p).begun = false
     let on := s.frame ≠ 0 ∧ bit (s.assembly.get 1 0) p = true ∧ s.fld (xePcfg p) 2 0 ≠ 0
     let goes := drives ∧
       (if s.pair.role = .primary then s.pair.verdictFor = some (s.frame - 1) ∧
          (s.fld mirVerd 39 37 = 1 ∨ s.fld mirVerd 39 37 = 5 ∨ s.fld mirVerd 39 37 = 6)
        else s.pair.barred ≠ some (s.frame - 1))
     (¬comes → exec (.transmitPoint p) s = .next s) ∧
     (comes → ∃ t, exec (.transmitPoint p) s = .next t ∧ (t.port p).begun = true ∧ (x0 < 2 ^ 64 → x0 ≤ t.clk.tb.toNat) ∧
       (s.check = [] → ¬(on ∧ goes) → t.port p = { s.port p with begun := true } ∧ Touches [.out, .ports, .clk] s t) ∧
       (on → goes → (s.port p).up = true → (s.port p).sending.isSome = true →
         t.port p = { s.port p with begun := true, toSend := entries s.assembly p true } ∧ Touches [.out, .ports, .clk] s t) ∧
       ∀ e l, on → goes → (s.port p).up = true → (s.port p).sending = none → entries s.assembly p true = e :: l →
         s.frm.silent = [] → s.frm.cancelled = [] → s.check = [] → (t.port p).toSend = l ∧ Touches [.out, .ports, .clk] s t ∧
           let x := exch s.assembly e
           ∃ bs, (t.port p).sending = some ⟨e, x.evSend, x.evLate, bs⟩ ∧
           let h := if x.tag then 18 else 14
           let at' (off n : Nat) : Nat := beNat ((bs.drop off).take n)
           (x.koff = 0xFF ∨ x.koff + 2 ≤ x.poff) →
             bs.length = max 64 (h + 4 + x.poff + x.nw * x.bytes) ∧ at' 0 6 = x.mac ∧ at' 6 6 = s.mac p ∧
             (x.tag = true → at' 12 2 = 0x8100 ∧ at' 14 2 = x.pcp * 2 ^ 13 + x.vid) ∧ at' (h - 2) 2 = x.etype ∧
             (x.koff ≠ 0xFF → at' (h + x.koff) 2 = x.key) ∧
             (∀ i, i < x.nw → at' (h + x.poff + i * x.bytes) x.bytes =
               bits (s.peek (s.exchAddr x (s.frame - 1) + i)) (8 * x.bytes - 1) 0) ∧
             leNat (bs.drop (bs.length - 4)) = (crc32 (bs.take (bs.length - 4))).toNat)) ∧
    ((s.port p).sending = none → exec (.outputFrameSent p) s = .next s) ∧
    (∀ x, ¬drives → (s.port p).sending = some x → ∃ t, exec (.outputFrameSent p) s = .next t ∧
      t.port p = { s.port p with toSend := [], sending := none } ∧ Touches [.ports] s t) ∧
    (∀ e es el bs, drives → e < 512 → (s.port p).sending = some ⟨e, es, el, bs⟩ → (s.port p).toSend = [] →
      ∃ t, exec (.outputFrameSent p) s = .next t ∧
      .frame p bs ∈ t.out ∧ (s.flag (evtRoute e) 24 = true → es = true → s.pair.role = .none → bit t.events e = true) ∧ (t.port p).sending = none ∧ t.fld (xePcnt p 2) 39 20 = (s.fld (xePcnt p 2) 39 20 + 1) % 2 ^ 20 ∧
      t.fld (xeEstat e) 31 0 = (s.fld (xeEstat e) 31 0 + 1) % 2 ^ 32 ∧
      Touches [.out, .regs, .events, .deliver, .pair, .host, .ports] s t) ∧
    let h := s.fld (xePtxq p) 27 0
    let cm := s.peek (h + 1)
    let qh := s.peek (h + 2)
    let sends := s.flag (xePtxq p) 39 = true ∧ (s.port p).up = true ∧ drives ∧
      bit (s.assembly.get 1 0) p = true ∧ (s.port p).sending = none ∧ (s.port p).toSend = [] ∧
      bits cm 38 32 = bits qh 38 32 ∧ bits qh 31 0 ≠ bits cm 31 0
    (s.check = [] → ¬sends → exec (.txQueueItemSend p) s = .next s) ∧
    (sends → s.check = [] →
      let start := max s.clk.tb.toNat (s.port p).busy
      let a := h + 8 + bits qh 31 0 % 2 ^ bits (s.peek h) 19 16 * bits (s.peek h) 7 0
      let n := bits (s.peek a) 13 0
      let fits := s.endsInTime p start (max 60 n + 4)
      3 < bits (s.peek h) 7 0 → n ≤ (bits (s.peek h) 7 0 - 3) * 4 → bit (s.peek a) 16 = false →
      (fits = false → exec (.txQueueItemSend p) s = .next s) ∧
      (fits = true → ∃ t bs o, exec (.txQueueItemSend p) s = .next t ∧ t.out = .frame p (withFcs bs) :: o ∧ bs.length = n ∧
        (t.port p).busy = start + s.duration p (max 60 n + 24) ∧
        (∀ i, i < n → bs[i]? = some (BitVec.ofNat 8 (bits (s.peek (a + 3 + i / 4)) (8 * (i % 4) + 7) (8 * (i % 4))))) ∧
        bits (t.peek (h + 2)) 31 0 = (bits qh 31 0 + 1) % 2 ^ 32 ∧ bits (t.peek (h + 2)) 38 32 = bits qh 38 32 ∧
        (∀ b, b ≠ h + 2 → t.peek b = s.peek b) ∧ t.fld (xePcnt p 2) 39 20 = (s.fld (xePcnt p 2) 39 20 + 1) % 2 ^ 20 ∧
        Touches [.out, .regs, .mem, .ports, .clk] s t))

/-- FRAME_RECEIVED, PARSE_WRITE_PERFORMED, RECEIVE_TIMEOUT, PORT_LINK_DOWN and PORT_LINK_UP (R17, R265, R336, R337, R339, R341,
R342, R349): a frame of a wrong length or FCS counts in RXERR; one for another address is dropped; one that matches a receive
entry of the tables that stood when it began fills the set with the entry's words, counts, and restarts the entry's timer, at
whose end TO and the late flag are set, no earlier than TMO after the restart. Words of an earlier parse that are still on their
way, on whatever port, do not follow those of a later one. A link that goes down leaves its frames unsent. -/
def Obligations.InputFramesAreParsed : Prop :=
  ∀ (p : PortId) (s : State),
    let timed (e : Nat) : Bool := (exch s.active e).valid && !(exch s.active e).tx && (exch s.active e).tmo != 0
    (∀ (bs : List Byte) (ok : Bool),
      let n := bs.length + 4
      let r := rxOf bs
      let open' := (s.port p).up = true ∧ s.sealed = true
      let good := ok = true ∧ 64 ≤ n ∧ n ≤ 9600
      let mine := r.dst = s.mac p ∨ r.dst = 2 ^ 48 - 1 ∨ (s.flag (xePcfg p) 3 = true ∧ r.dst.testBit 40 = true)
      (¬open' → exec (.frameReceived p bs ok) s = .next s) ∧
      (open' → ¬good → ∃ t, exec (.frameReceived p bs ok) s = .next t ∧
        t.fld (xePcnt p 0) 19 0 = (s.fld (xePcnt p 0) 19 0 + 1) % 2 ^ 20 ∧ Touches [.regs] s t) ∧
      (open' → good → ¬mine → exec (.frameReceived p bs ok) s = .next s) ∧
      (s.frm.swapped = none → s.rxTables p n = s.active) ∧
      (∀ t0 old, s.frm.swapped = some (t0, old) →
        (n * s.byteTime p ≤ 10 * (s.clk.tb.toNat - t0) → s.rxTables p n = s.active) ∧
        (10 * (s.clk.tb.toNat - t0) < n * s.byteTime p → s.rxTables p n = old)) ∧
      (∀ q : PortId, ∀ w ∈ (s.port q).writes, w.seq < s.nextSeq) ∧
      ∀ e, open' → good → mine → r.etype ≠ 0x8808 → r.etype ≠ 0x88F7 → r.etype ≠ 0x0800 →
        e < 512 → rxEntry (s.rxTables p n) p r = some e →
        let x := exch (s.rxTables p n) e
        let len := x.poff + x.nw * x.bytes
        let set := s.frame + (if s.frm.frozen then 2 else 1)
        let datum (i : Nat) : Nat := beNat ((r.body.drop (x.poff + i * x.bytes)).take x.bytes)
        (r.body.length < len → ∃ t, exec (.frameReceived p bs ok) s = .next t ∧
          t.fld (xePcnt p 0) 19 0 = (s.fld (xePcnt p 0) 19 0 + 1) % 2 ^ 20 ∧ Touches [.regs] s t) ∧
        (len ≤ r.body.length → ∃ t ws, exec (.frameReceived p bs ok) s = .next t ∧ ws.length = x.nw ∧
          (∀ i, i < x.nw → ws[i]? = some ((s.exchSeg x).phys set x.woff + i, if x.pack = 0 then wordI (signed 32 (datum i))
            else if x.pack = 2 then wordI (signed 16 (datum i)) else word (datum i))) ∧
          (t.port p).writes = (s.port p).writes ++ [⟨x.tenant, set, s.nextSeq, ws⟩] ∧
          t.timers.get e none = (if timed e then some s.clk.tb.toNat else s.timers.get e none) ∧ t.flag (xeEstat e) 39 = false ∧
          t.fld (xeEstat e) 31 0 = (s.fld (xeEstat e) 31 0 + 1) % 2 ^ 32 ∧
          t.fld (xePcnt p 0) 39 20 = (s.fld (xePcnt p 0) 39 20 + 1) % 2 ^ 20 ∧
          Touches [.out, .regs, .events, .deliver, .pair, .host, .ports, .timers] s t)) ∧
    ((s.port p).writes = [] → exec (.parseWritePerformed p) s = .next s) ∧
    (∀ w l, (s.port p).writes = w :: l → s.pair.ownFrozen = none → (w.ws.map (·.1)).Nodup →
      ∃ t, exec (.parseWritePerformed p) s = .next t ∧
      (∀ q : PortId, (t.port q).writes = (if q = p then l else (s.port q).writes).map fun u =>
        { u with ws := u.ws.filter fun x => !(u.set == w.set && decide (u.seq < w.seq) && w.ws.any fun y => y.1 == x.1) }) ∧
      (∀ a v, (a, v) ∈ w.ws → t.peek a = v) ∧ (∀ a, a ∉ w.ws.map (·.1) → t.peek a = s.peek a) ∧
      (s.frm.frozen = false ∨ s.forwards = false → Touches [.mem, .check, .ports] s t)) ∧
    (∀ e : Fin 512,
      let x := exch s.active e
      (s.timers.get e none = none ∨ timed e = false → exec (.receiveTimeout e) s = .next s) ∧
      (∀ t0, s.timers.get e none = some t0 → timed e = true → ∃ t, exec (.receiveTimeout e) s = .next t ∧
        t.timers.get e none = none ∧ (t0 + 1000 * x.tmo < 2 ^ 64 → t0 + 1000 * x.tmo ≤ t.clk.tb.toNat) ∧
        t.flag (xeEstat e) 39 = true ∧
        t.flag (xeEstat e) 38 = true ∧
        (t.port x.port).writes = (s.port x.port).writes ++ (if x.zeroto then
          [⟨x.tenant, s.filling, s.nextSeq, (List.range x.nw).map fun i => (s.exchAddr x s.filling + i, 0)⟩] else []) ∧
        Touches [.out, .regs, .events, .deliver, .pair, .host, .ports, .timers, .clk] s t)) ∧
    (∃ t, exec (.portLinkDown p) s = .next t ∧ (t.port p).up = false ∧ (t.port p).toSend = [] ∧ (t.port p).sending = none ∧
      ((s.port p).up = true → (t.port p).flushDue = true) ∧ t.fld (xePstat p) 3 0 = 0 ∧
      (s.mayDrive = false → t.fld (xePcnt p 2) 19 0 = s.fld (xePcnt p 2) 19 0) ∧
      (s.mayDrive = true → s.frm.silent = [] → s.frm.cancelled = [] → t.fld (xePcnt p 2) 19 0 =
        (s.fld (xePcnt p 2) 19 0 + (s.port p).toSend.length + (s.port p).sending.toList.length) % 2 ^ 20) ∧
      Touches [.out, .regs, .events, .deliver, .pair, .host, .ports] s t) ∧
    ∀ v : LinkSpeed,
      let m := s.fld (xePcfg p) 2 0
      let can := s.flag clkStat 1 = true ∧ ((m = 1 ∧ v = .g10) ∨ (m = 2 ∧ v = .g1) ∨ (m = 3 ∧ v ≠ .g10))
      (¬can → exec (.portLinkUp p v) s = .next s) ∧
      (can → ∃ t, exec (.portLinkUp p v) s = .next t ∧ (t.port p).up = true ∧
        t.fld (xePstat p) 3 0 = 8 + (match v with | .m10 => 1 | .m100 => 2 | .g1 => 3 | .g10 => 4) ∧ Touches [.regs, .ports] s t)

/-! ### The pair -/

/-- Acceptance and replay on the link (R274, R276, R299). While the link is trained, every packet is accepted first: the next
SEQ, the partner heard, the packets that its ACK covers released, and this device's own ACK goes out. RESERVED_PACKET is accepted
and has no other effect. IDLE_BLOCK carries an acknowledgement without a packet. NAK_RECEIVED and REPLAY_TIMEOUT replay what is not
acknowledged, count in REPLAYS, and the eighth takes the link down. BLOCK_ERROR and DISCARDED_PACKET: the first packet discarded
since the last accepted one is answered with a NAK. While the link is not trained none of these commands has an effect. -/
def Obligations.PacketsAreAcknowledged : Prop :=
  ∀ (s : State),
    let hears := s.pairMode = true ∧ (s.pair.link = .ident ∨ s.pair.link = .up)
    let released (a : BitVec 12) (l : List Packet) : Prop :=
      (∃ pre p, s.pair.unacked = pre ++ p :: l ∧ p.seq = a ∧ ∀ q ∈ pre, q.seq ≠ a) ∨
        (l = s.pair.unacked ∧ ∀ q ∈ s.pair.unacked, q.seq ≠ a)
    let nakOut : List Out := if s.pair.nakSent ∨ s.fatal then s.out else .idle (idleBlock true (s.pair.rxSeq - 1)) :: s.out
    (∀ i h, ackOf i = some h →
      (¬hears → exec i s = .next s) ∧
      (hears → s.pair.link = .up → h.nak = false → ∃ t, exec i s = .next t ∧ t.pair.rxSeq = s.pair.rxSeq + 1 ∧
        t.pair.nakSent = false ∧ t.pair.silent = false ∧
        (s.fatal = false → .idle (idleBlock false s.pair.rxSeq) ∈ t.out))) ∧
    (∀ ty h, hears → ∃ t, exec (.reservedPacket ty h) s = .next t ∧ t = s.accept h ∧
      (s.pair.link = .up → h.nak = false → t.pair.rxSeq = s.pair.rxSeq + 1 ∧ t.pair.role = s.pair.role ∧
        Touches [.out, .regs, .pair] s t ∧
        (s.pair.waitq = [] → if h.ackv then released h.ack t.pair.unacked else t.pair.unacked = s.pair.unacked))) ∧
    (∀ h, (¬hears → exec (.idleBlock h) s = .next s) ∧
      (hears → ∃ t, exec (.idleBlock h) s = .next t ∧
        (s.pair.link = .up → h.nak = false → t.pair.rxSeq = s.pair.rxSeq ∧ Touches [.out, .regs, .pair] s t ∧
          (h.ackv = false → t = s) ∧
          (h.ackv = true → t.pair.silent = false ∧ (s.pair.waitq = [] → released h.ack t.pair.unacked))))) ∧
    (¬hears → exec .replayTimeout s = .next s ∧ ∀ a, exec (.nakReceived a) s = .next s) ∧
    (hears → ∃ t, exec .replayTimeout s = .next t ∧
      (s.fatal = true ∨ s.pair.unacked = [] → t = s) ∧
      (s.fatal = false → s.pair.unacked ≠ [] → t.fld mirCnt0 39 20 = (s.fld mirCnt0 39 20 + 1) % 2 ^ 20 ∧
        t.flag (hstIstat 0) 26 = true ∧ (∀ p ∈ s.pair.unacked, .replayed p (p.blocks s.ackOut) ∈ t.out) ∧
        (s.pair.replays < 7 → t.pair.link = s.pair.link ∧ t.pair.replays = s.pair.replays + 1 ∧
          s.pair.unacked.length ≤ t.pair.unacked.length) ∧
        (7 ≤ s.pair.replays → t.pair.link = .down ∧ t.pair.unacked = [] ∧ t.pair.txSeq = 0 ∧ t.pair.rxSeq = 0))) ∧
    (hears → ∀ a, ∃ t, exec (.nakReceived a) s = .next t ∧
      (s.fatal = false → s.pair.waitq = [] → ∃ l, released a l ∧ (∀ p ∈ l, .replayed p (p.blocks s.ackOut) ∈ t.out) ∧
        (l = [] → t.pair.unacked = [] ∧ t.fld mirCnt0 39 20 = s.fld mirCnt0 39 20) ∧
        (l ≠ [] → t.fld mirCnt0 39 20 = (s.fld mirCnt0 39 20 + 1) % 2 ^ 20))) ∧
    (¬hears → exec .blockError s = .next s ∧ ∀ w, exec (.discardedPacket w) s = .next s) ∧
    (hears → ∃ t, exec .blockError s = .next t ∧ t.pair.nakSent = true ∧
      t.fld mirCnt0 19 0 = (s.fld mirCnt0 19 0 + 1) % 2 ^ 20 ∧ t.out = nakOut ∧ Touches [.out, .regs, .pair] s t) ∧
    (hears → ∀ w, ∃ t, exec (.discardedPacket w) s = .next t ∧ t.pair.nakSent = true ∧
      t.fld mirCnt0 19 0 = (if w = .crc then (s.fld mirCnt0 19 0 + 1) % 2 ^ 20 else s.fld mirCnt0 19 0) ∧
      t.out = nakOut ∧ Touches [.out, .regs, .pair] s t)

/-- Training, identity, silence and takeover (R271, R277, R278, R292, R294, R295): the link goes from DOWN through LOCK, ALIGN
and IDENT to UP once both identities are accepted. Of two equal devices that wait, PAIR_ID 0 becomes the primary; a SOLO or
PRIMARY device admits a partner with its own schedule and layout. A lost link silences the partner: a primary goes on alone, a
secondary or standby takes over, unless the partner's line is high. -/
def Obligations.LinkTrainsAndDevicesMeet : Prop :=
  ∀ (s : State),
    let follows (u : State) := u.pair.role = .secondary ∨ u.pair.role = .standby
    (¬(s.pairMode = true ∧ s.pair.link = .down) → exec .laneSignalDetect s = .next s) ∧
    (s.pairMode = true → s.pair.link = .down →
      exec .laneSignalDetect s = .next { s with pair := { s.pair with link := .lock } }) ∧
    (s.pairMode = false ∨ s.pair.link ≠ .lock → exec .blockLock s = .next s) ∧
    (s.pairMode = true → s.pair.link = .lock → ∃ t, exec .blockLock s = .next t ∧ t.pair = { s.pair with link := .align } ∧ t.fld mirLane 3 0 = 15 ∧
      Touches [.regs, .pair] s t) ∧
    (∀ k, s.pairMode = false ∨ s.pair.link ≠ .align → exec (.laneAlign k) s = .next s) ∧
    (∀ k, s.pairMode = true → s.pair.link = .align → ∃ t, exec (.laneAlign k) s = .next t ∧ t.pair.link = .ident ∧
      t.fld mirLane 23 4 = k.toNat ∧ (s.sealed = false → t.out = s.out) ∧
      (s.sealed = true → s.fatal = false → s.pair.unacked = [] → ∃ m,
        t.lastSent ⟨s.pair.txSeq, s.frameByte, .ident m⟩ s.ackOut ∧
        m.pairId = s.pair.ownId ∧ m.digest = s.imageDigest ∧ m.frame = word s.frame) ∧ Touches [.out, .regs, .pair] s t) ∧
    (∀ m h, s.pairMode = true → s.pair.link = .ident ∨ s.pair.link = .up →
      let u := s.accept h
      let fits := m.pairId ≠ u.pair.ownId ∧ bits m.frmCtl 19 0 = u.fld frmCtl 19 0 ∧ m.phase0 = u.reg frmPhase0 ∧
        m.phase1 = u.reg frmPhase1 ∧ m.layout = u.reg mirLayout
      ∃ t, exec (.ident m h) s = .next t ∧ t.pair.identRx = some m ∧ t.pair.partId = m.pairId ∧
        (u.sealed = true → (t.pair.unlike = true ↔ m.digest ≠ u.imageDigest)) ∧
        (u.pair.link = .ident → u.sealed = false ∨ u.pair.due Body.isIdent = true → t.pair.link = .ident) ∧
        (u.pair.link = .up ∨ (u.pair.link = .ident ∧ u.sealed = true ∧ u.pair.due Body.isIdent = false) → t.pair.link = .up ∧
          (u.pair.role = .none → u.pair.waiting = true → m.role = 0 → fits → m.digest = u.imageDigest →
            t.pair.role = if u.pair.ownId then .secondary else .primary) ∧
          (u.pair.role = .none → u.pair.waiting = true → m.role = 1 ∨ m.role = 2 → fits → t.pair.role = .joining ∧
            t.frame = m.frame.toNat ∧ t.frm.started = true) ∧
          (u.pair.role = .solo ∨ u.pair.role = .primary → m.role = 0 ∨ m.role = 5 →
            (fits → t.pair.joinFrame = some (u.frame + 2) ∧ t.pair.role = u.pair.role) ∧
            (¬fits → t.pair.joinFrame = u.pair.joinFrame ∧ t.flag (hstIstat 0) 26 = true)) ∧
          (u.pair.role = .joining ∨ (u.pair.role = .dropped ∧ u.pair.wantJoin = true) → ¬fits → t.pair.role = .dropped ∧
            (u.flag mirCtl 38 = false → t.fld mirWhy 39 32 = if m.pairId = u.pair.ownId then 1 else
              if bits m.frmCtl 19 0 ≠ u.fld frmCtl 19 0 ∨ m.phase0 ≠ u.reg frmPhase0 ∨ m.phase1 ≠ u.reg frmPhase1 then 2
              else 3)))) ∧
    (s.pairMode = false → exec .linkDown s = .next s) ∧
    (s.pairMode = true → ∃ t, exec .linkDown s = .next t ∧ t.pair.link = .down ∧ t.pair.silent = true ∧
      (s.pair.link ≠ .down → t.pair.unacked = [] ∧ t.pair.rxSeq = 0 ∧ t.fld mirLane 3 0 = 0) ∧
      (s.pair.role = .primary → s.pair.silent = false → t.pair.role = .solo) ∧
      (s.pair.role = .solo → s.pair.silent = false → t.pair.role = .solo ∧ t.pair.joinFrame = none)) ∧
    ∀ pw, let w := s.fld mirCtl 35 32
      (∃ t, exec (.partnerSilent pw) s = .next t ∧ bit t.pins.evin w = pw ∧
        (s.pairMode = true → t.pair.silent = true ∧ (s.pair.silent = false → t.flag (hstIstat 0) 26 = true ∧
          (s.pair.role = .primary → t.pair.role = .solo) ∧
          (s.pair.role = .joining → t.pair.role = .dropped ∨ t.pair.role = .joining) ∧
          (follows s → s.flag mirCtl 37 = false ∨ pw = false → t.pair.role = s.pair.role))) ∧
        (s.pairMode = false ∨ s.pair.silent = true → Touches [.pins] s t)) ∧
      (∃ t, exec (.takeover pw) s = .next t ∧ bit t.pins.evin w = pw ∧
        (¬(s.pair.silent = true ∧ follows s) → Touches [.pins] s t) ∧
        (s.pair.silent = true → follows s → s.flag mirCtl 37 = false ∨ pw = false → t.pair.role = .solo ∧
          t.fld mirCnt2 19 0 = (s.fld mirCnt2 19 0 + 1) % 2 ^ 20) ∧
        (s.pair.silent = true → follows s → s.flag mirCtl 37 = true → pw = true →
          (t.pair.role = .dropped ∨ t.pair.role = .joining) ∧ t.fld mirCnt2 19 0 = s.fld mirCnt2 19 0)) ∧
      (¬(s.pair.waiting = true ∧ s.pair.role = .none) → exec .waitupExpiry s = .next s) ∧
      (s.pair.waiting = true → s.pair.role = .none → ∃ t, exec .waitupExpiry s = .next t ∧ t.pair.role = .solo ∧
        t.pair.waiting = false ∧ Touches [.pair] s t)

/-- The CONTROL messages other than IDENT (R25, R271, R282, R289, R292, R295, R297), from the state `u` in which the packet
has been accepted: JOIN gives a joining device J and its partner's frame number; PENDING and ACTSET what it takes over; SWAP
is answered with SWAPACK, and a partner whose shadow agrees is armed once its answer is acknowledged in time (the model's reading,
log entry 23); HANDOVER, YIELD, DROP and LEAVE change roles. -/
def Obligations.ControlMessagesAct : Prop :=
  ∀ (s : State) (h : Ack), s.pairMode = true → s.pair.link = .ident ∨ s.pair.link = .up →
    let u := s.accept h
    let follows := u.pair.role = .secondary ∨ u.pair.role = .standby
    (∀ j, ∃ t, exec (.join j h) s = .next t ∧ (u.pair.role ≠ .joining → t = u) ∧
      (u.pair.role = .joining → 2 ≤ j.toNat → j.toNat + 256 < 2 ^ 40 → t.pair = { u.pair with joinFrame := some j.toNat } ∧
        t.frm.started = true ∧ t.frame % 256 = h.frame.toNat ∧ j.toNat - 2 ≤ t.frame ∧ t.frame < j.toNat + 254 ∧
        (t.frame ≠ u.frame → u.fld hstTick 19 0 ≠ 0 → t.frame % u.fld hstTick 19 0 = 0 → t.flag (hstIstat 0) 28 = true) ∧
        Touches [.out, .regs, .frm, .pair, .host] u t)) ∧
    (∀ b, exec (.pending b h) s = .next (if u.pair.role = .joining then
      { u with events := b, pair := { u.pair with pendingGot := true } } else u)) ∧
    (∀ l, exec (.actset l h) s = .next (if u.pair.role = .joining then
      { u with pair := { u.pair with actsetGot := some (u.pair.actsetGot.getD [] ++ l) } } else u)) ∧
    (∀ x crc, ∃ t, exec (.swap x crc h) s = .next t ∧ (¬follows → t = u) ∧
      (follows →
        let equal := u.setCrc u.shadow == crc
        (u.fatal = false → u.pair.link = .up → u.pair.unacked = [] →
          t.lastSent ⟨u.pair.txSeq, u.frameByte, .swapack x.toNat equal⟩ u.ackOut) ∧
        t.pair.swapRx = (if equal = true ∧ u.tableOk u.shadow = true then
          some (x.toNat, u.clk.tb.toNat + 100000 - u.fld mirDly 39 20) else none) ∧ Touches [.out, .pair] u t)) ∧
    (∀ p x y eq limit, s.pair.link = .up → s.pair.unacked = [p] → s.pair.waitq = [] → p.body = .swapack y eq → h.ackv = true →
      h.nak = false → h.ack = p.seq → s.pair.swapRx = some (x, limit) →
      ∃ t, exec (.idleBlock h) s = .next t ∧ t.pair.swapRx = none ∧
        (s.clk.tb.toNat ≤ limit → s.frame < x → x < 2 ^ 40 → t.fld cfgSwapf 39 0 = x ∧ t.flag cfgSwstat 4 = true) ∧
        (limit < s.clk.tb.toNat ∨ x ≤ s.frame → t.regs = s.regs)) ∧
    (∀ x e, exec (.swapack x e h) s = .next (if u.flag cfgSwstat 5 = true ∧ u.fld cfgSwapf 39 0 = x.toNat then
      { u with pair := { u.pair with swapAck := some e } } else u)) ∧
    (∀ f, exec (.handover f h) s = .next (if follows then { u with pair := { u.pair with handFrame := some f.toNat } } else u)) ∧
    (∃ t, exec (.yield h) s = .next t ∧ (¬follows → t = u) ∧
      (follows → t.pair.role = .solo ∧ t.fld mirCnt2 19 0 = (u.fld mirCnt2 19 0 + 1) % 2 ^ 20)) ∧
    (∃ t, exec (.drop h) s = .next t ∧ (u.pair.role = .dropped → t = u) ∧
      (u.pair.role ≠ .dropped → (t.pair.role = .dropped ∨ t.pair.role = .joining) ∧ t.flag (hstIstat 0) 26 = true)) ∧
    (∀ x, exec (.frame0 x h) s = .next { u with pair := { u.pair with frame0At := some x.toNat } }) ∧
    ∀ r, ∃ t, exec (.leave r h) s = .next t ∧ (u.pair.role ≠ .primary → t = u) ∧
      (u.pair.role = .primary → t.pair.role = .solo ∧ Touches [.pair] u t)

/-- The packets that carry data, time and deliveries (R25, R274, R279 to R281, R287, R295), from the state `u` in which the
packet has been accepted: words go to the places of the set they belong to; a host write waits for its boundary; an event
whose instant has passed drops the device; θ and OWD follow from the four stamps, and a device that follows slews toward the
primary or drops beyond 200 ns. -/
def Obligations.DataPacketsArrive : Prop :=
  ∀ (s : State),
    let follows (u : State) := u.pair.role = .secondary ∨ u.pair.role = .standby
    (∀ h, s.pairMode = true → s.pair.link = .ident ∨ s.pair.link = .up →
      let u := s.accept h
      (∀ m, exec (.digest m h) s = .next { u with pair := { u.pair with partDig := some m, partDigB := some m } }) ∧
      (∀ off ws,
        let put (set : List Nat) (t : State) : Prop := set.Nodup →
          (∀ i a v, set[off + i]? = some a → ws[i]? = some v → t.peek a = v) ∧
          (∀ a, (∀ i, i < ws.length → set[off + i]? ≠ some a) → t.peek a = u.peek a) ∧ Touches [.mem, .check, .pair] u t
        (∃ t, exec (.input off ws h) s = .next t ∧ (¬(follows u ∨ u.pair.role = .joining) → t = u) ∧
          (follows u ∨ u.pair.role = .joining → put (u.inputSet (u.frame + 1)) t ∧
            t.pair = { u.pair with fwdGot := u.pair.fwdGot + ws.length })) ∧
        (∃ t, exec (.mirror off ws h) s = .next t ∧
          (¬(u.pair.role = .joining ∧ u.pair.joinFrame = some u.frame) → t = u) ∧
          (u.pair.role = .joining → u.pair.joinFrame = some u.frame → put u.mirrorHome t ∧
            t.pair = { u.pair with mirrorGot := u.pair.mirrorGot + ws.length })) ∧
        (∃ t, exec (.shared off ws h) s = .next t ∧ (u.pair.role ≠ .joining → t = u) ∧
          (u.pair.role = .joining → put u.sharedSet t ∧
            t.pair = { u.pair with sharedGot := u.pair.sharedGot + ws.length }))) ∧
      (∀ w,
        let f := u.frameOf h.frame
        let off := bits w 39 10
        let past := f < u.frame ∨ (f = u.frame ∧ off < u.sinceBoundary)
        ∃ t, exec (.event [w] h) s = .next t ∧ (¬follows u → u.pair.role ≠ .joining → t = u) ∧
          (u.pair.role = .joining → ∀ j, u.pair.joinFrame = some j → t = if j + 1 ≤ f then
            { u with deliver := u.deliver ++ [⟨bits w 9 0, f, off⟩] } else u) ∧
          (follows u → ¬past → t = { u with deliver := u.deliver ++ [⟨bits w 9 0, f, off⟩] }) ∧
          (follows u → past → (t.pair.role = .dropped ∨ t.pair.role = .joining) ∧
            t.fld mirCnt2 39 20 = (u.fld mirCnt2 39 20 + 1) % 2 ^ 20)) ∧
      (∀ l, (∀ w ∈ l, w.1 ≠ hostReset ∧ w.1 ≠ hostFlush) → exec (.hostw l h) s = .next (if follows u then
        { u with pair := { u.pair with held := u.pair.held ++ l.map (fun w => ⟨w.1, w.2, u.frameOf h.frame⟩) } } else u)) ∧
      (∀ t1, ∃ t, exec (.syncRequest t1 h) s = .next t ∧ Touches [.out, .pair] u t ∧
        (u.fatal = false → u.pair.link = .up → u.pair.unacked = [] →
          t.lastSent ⟨u.pair.txSeq, u.frameByte, .syncReply t1 u.clk.tb u.clk.tb⟩ u.ackOut)) ∧
      ∀ t1 t2 t3 : BitVec 64,
        let t4 : Int := u.clk.tb.toNat
        let owd := ((t4 - t1.toNat) - ((t3.toNat : Int) - t2.toNat)) / 2
        let theta := (((t2.toNat : Int) - t1.toNat) - (t4 - t3.toNat)) / 2 - signed 20 (u.fld mirDly 19 0)
        ∃ t, exec (.syncReply t1 t2 t3 h) s = .next t ∧ t.fld mirDly 39 20 = (BitVec.ofInt 20 owd).toNat ∧
          (-(2 ^ 19) ≤ theta → theta < 2 ^ 19 → signed 20 (t.fld mirTbofs 19 0) = theta) ∧
          (u.pair.role = .joining ∨ u.pair.role = .dropped → t.clk = { u.clk with tb := u.clk.tb + BitVec.ofInt 64 theta } ∧
            t.pair = u.pair) ∧
          (follows u → theta.natAbs ≤ 200 → t.pair = { u.pair with theta := theta } ∧ t.clk = u.clk) ∧
          (follows u → 200 < theta.natAbs → t.pair.role = .dropped ∨ t.pair.role = .joining)) ∧
    (let asks := s.pairMode = true ∧ s.pair.role ≠ .primary ∧ s.pair.role ≠ .solo
     (¬asks → exec .syncTimer s = .next s) ∧
     (asks → ∃ t, exec .syncTimer s = .next t ∧ Touches [.out, .pair] s t ∧
       (s.fatal = false → s.pair.link = .up → s.pair.unacked = [] →
         t.lastSent ⟨s.pair.txSeq, s.frameByte, .syncRequest s.clk.tb⟩ s.ackOut))) ∧
    (¬(follows s ∧ s.pair.theta ≠ 0) → exec .timeBaseSlew s = .next s) ∧
    (follows s → s.pair.theta ≠ 0 →
      let d : Int := if 0 < s.pair.theta then 1 else -1
      ∃ t, exec .timeBaseSlew s = .next t ∧ t.clk.tb = s.clk.tb + (if 0 < s.pair.theta then 1 else 0) ∧
        t.clk.owed = s.clk.owed + (if 0 < s.pair.theta then 0 else 1) ∧ t.pair.theta = s.pair.theta - d ∧
        Touches [.out, .pair, .clk] s t) ∧
    ∀ n : Fin 1024,
      ((∀ d ∈ s.deliver, d.event ≠ n.val) → exec (.eventDelivery n) s = .next s) ∧
      ∀ pre d post, s.deliver = pre ++ d :: post → d.event = n.val → (∀ x ∈ pre, x.event ≠ n.val) →
        ∃ t, exec (.eventDelivery n) s = .next t ∧ t.deliver = pre ++ post ∧ Touches [.regs, .events, .deliver] s t ∧
          (s.flag (evtRoute n) 24 = false → t.events = s.events) ∧
          (s.flag (evtRoute n) 24 = true → t.events = putBit s.events n true ∧
            let ps := evtPsum (s.fld (evtRoute n) 23 17) (s.fld (evtRoute n) 16 16)
            t.fld ps 39 24 = if bit s.events n then (s.fld ps 39 24 + 1) % 2 ^ 16 else s.fld ps 39 24)

/-! ### Health, the planner, references and time -/

/-- MEMORY_SCRUB and TEMPERATURE_UPDATE (R115, R176, R177, R369 to R373, R376, R381): a single-bit error is corrected and
counted; an uncorrectable word is logged as code 5 of its owner and left in place; an error in a core's structures takes the
core offline, one in the schedule or the plan record stops the part; a parity error in a microstore, or in a word of the patch as
it was loaded, is code 9 with a retest (R399). PASSES counts at the last word of the commons, and a
pass longer than four times its nominal time sets its LATE flag. Event 977 is raised as TJ rises above TJMAX. While the part is in
reset nothing is visited or measured (R362). -/
def Obligations.ScrubbersReport : Prop :=
  ∀ (s : State),
    let ce := (s.fld errCecnt 39 0 + 1) % 2 ^ 40
    let head := s.fld errStat 39 32
    let logged (t : State) (cls code src : Nat) : Prop :=
      t.fld errStat 39 32 = (head + 1) % 256 ∧ t.fld (errLogA (head % 32)) 39 37 = cls ∧
        t.fld (errLogA (head % 32)) 36 29 = code ∧ t.fld (errLogA (head % 32)) 28 21 = src
    (s.inReset = true → (∀ l f, exec (.memoryScrub l f) s = .next s) ∧ ∀ tj, exec (.temperatureUpdate tj) s = .next s) ∧
    (s.inReset = false →
    (∀ a, let src := if a < 0x1000000 then 4 * (a / 0x80000) + a % 0x80000 / 0x20000 else if a < 0x1200000 then 0x80
        else (a - 0x1200000) / 0x2000
      let words := if a < 0x1000000 then 0x8000 else if a < 0x1200000 then 0x40000 else 0x2000
      let unit := if a < 0x1000000 then a / 0x8000 else if a < 0x1200000 then 0x1000 + (a - 0x1000000) / 0x40000
        else 0x2000 + (a - 0x1200000) / 0x2000
      let lateBit := if a < 0x1000000 then 1 else if a < 0x1200000 then 0 else 2
      (0x1300000 ≤ a → ∀ f, exec (.memoryScrub (.word a) f) s = .next s) ∧
      (a < 0x1300000 → a % words + 1 ≠ words → s.bad a = none → exec (.memoryScrub (.word a) .good) s = .next s) ∧
      (a < 0x1300000 → a % words + 1 = words → s.bad a = none → ∃ t, exec (.memoryScrub (.word a) .good) s = .next t ∧
        Touches [.regs, .clk] s t ∧ t.clk.scrubbed.get unit 0 = s.clk.tb.toNat ∧ t.clk.tb = s.clk.tb ∧
        t.fld errScrub 26 3 = (if a = 0x11FFFFF then (s.fld errScrub 26 3 + 1) % 2 ^ 24 else s.fld errScrub 26 3) ∧
        t.flag errScrub lateBit = (s.flag errScrub lateBit ||
          decide (4 * (256 * words) < s.clk.tb.toNat - s.clk.scrubbed.get unit 0))) ∧
      (a < 0x1300000 → s.bad a ≠ some .double → ∃ t, exec (.memoryScrub (.word a) .single) s = .next t ∧ t.bad a = none ∧
        (∀ b, t.peek b = s.peek b) ∧ t.fld errCecnt 39 0 = ce ∧
        (s.flag errCtl 19 = true → logged t 1 1 src) ∧ (s.flag errCtl 19 = false → t.fld errStat 39 32 = head)) ∧
      (a < 0x1300000 → ∃ t, exec (.memoryScrub (.word a) .double) s = .next t ∧ t.bad a = some .double ∧
        (∀ b, t.peek b = s.peek b) ∧ (∀ b, b ≠ a → t.bad b = s.bad b) ∧ logged t 2 5 src ∧ t.flag errSum 2 = true ∧
        bit t.pair.health 1 = true)) ∧
    (∀ r f, damageOf r = none → exec (.memoryScrub (.reg r) f) s = .next s) ∧
    (∀ r, exec (.memoryScrub (.reg r) .good) s = .next s ∧ (damageOf r ≠ none →
      ∃ t, exec (.memoryScrub (.reg r) .single) s = .next t ∧ t.fld errCecnt 39 0 = ce)) ∧
    (∀ u g, u < 1024 → g < 16 → (s.core (u / 8)).tenant < 8 → (s.core (u / 8)).dsu = none →
      (s.core (u / 8)).front.all (fun w => !w.logged) = true →
      ∃ t, exec (.memoryScrub (.reg (segDescA u g)) .double) s = .next t ∧
      t.offline (u / 8) = true ∧ logged t 4 10 (u / 8) ∧ bit t.pair.health 0 = true) ∧
    (∃ t, exec (.memoryScrub (.reg frmCtl) .double) s = .next t ∧ t.fatal = true ∧ t.faultN = true ∧ logged t 5 12 0x82) ∧
    (exec (.memoryScrub .planRecord .good) s = .next s ∧
      ∃ t, exec (.memoryScrub .planRecord .double) s = .next t ∧ t.fatal = true ∧ logged t 5 12 0x83) ∧
    (∀ c : CoreId, ((∀ e ∈ s.patch.ram, e.2.parityOk = true) → exec (.memoryScrub (.microstore c) .good) s = .next s) ∧
      ∀ f, f ≠ .good ∨ (∃ e ∈ s.patch.ram, e.2.parityOk = false) →
        ∃ t, exec (.memoryScrub (.microstore c) f) s = .next t ∧ (t.core c).retest = true ∧
        (t.core c).lastM1 = some s.frame ∧ ((s.core c).lastM1 = none → logged t 3 9 c)) ∧
    ∀ tj : BitVec 16,
      let hot (v : Nat) : Prop := 16 * (s.fld errCtl 17 10 : Int) < signed 16 v
      ∃ t, exec (.temperatureUpdate tj) s = .next t ∧ t.fld devTemp 15 0 = tj.toNat ∧
        (hot tj.toNat → ¬hot (s.fld devTemp 15 0) → t.flag (hstIstat 0) 25 = true) ∧
        (¬(hot tj.toNat ∧ ¬hot (s.fld devTemp 15 0)) → Touches [.regs] s t ∧ t.flag (hstIstat 0) 25 = s.flag (hstIstat 0) 25))

/-- SENTINEL_ROUND, DELAY_CODE_SCRUB, HEAD_LOG_INTERVAL, READ_VOUT_POLL, PMBUS_RESPONSE and VOUT_CONFIRM_TIMEOUT (R301, R303,
R304, R306, R307, R309, R312): the candidate of a round has the need of its worst reading, PSTEP the least of need and CEIL, V
raised by 20 or lowered by 5 mV or held, and each delay code moved by at most one by its slack. A scrub leaves three equal
copies of each majority. Transactions go to AGE_PMB.ADDR; READ_VOUT is ULINEAR16, READ_IOUT LINEAR11 (the rounding is the
model's choice, log entry 90). A READ_VOUT within 10 mV confirms V; a fourth failure sets PMBERR, after which raises continue to
be attempted. -/
def Obligations.PlannerPlans : Prop :=
  ∀ (s : State),
    (∀ rs, rs.length ≠ 136 ∨ s.clk.running = false → exec (.sentinelRound rs) s = .next s) ∧
    (∀ (rs : List (Nat × Nat)) (w : Nat), rs.length = 136 → s.clk.running = true → (∀ r ∈ rs, r.1 ≠ 0) → w < 136 →
      s.age.roundAt + 16384 < 2 ^ 64 →
      let dur (i : Nat) : Nat := ceilDiv 1024000 (rs.getD i (0, 0)).1
      let slack (i : Nat) : Nat := min 255 (rs.getD i (0, 0)).2
      (∀ i, i < 136 → dur i ≤ dur w) → (∀ i, i < w → dur i < dur w) →
      let n := ceilDiv (dur w * (256 + s.fld ageCtl 27 20)) 256
      let ceil := s.fld ageCtl 39 28
      let mode := s.fld agePolicy 13 12
      let lim := s.fld agePolicy 11 0
      let vmax := s.fld ageVlim 29 20
      let vmin := s.fld ageVlim 19 10
      let ceilE := if mode = 1 then min ceil lim else ceil
      let vmaxE := if mode = 2 then max vmin (min vmax lim) else vmax
      let v0 := match s.age.plan with
        | some p => p.v
        | none => s.age.v0
      let dmin := s.fld ageCtl 11 6
      let lowSlack := ∃ i, i < 136 ∧ slack i < dmin
      ∃ t, exec (.sentinelRound rs) s = .next t ∧
        (∀ i, i < 136 → t.fld (ageSent i) 11 0 = dur i % 4096 ∧ t.fld (ageSent i) 30 23 = slack i ∧
          t.age.code i = s.age.record.get i 0x20) ∧
        (mode = 2 → ceil < n → vmaxE ≤ v0 → v0 ≤ vmax → s.age.raising = false ∨ s.age.failed = true →
          (∃ p, t.age.cand = some p ∧ p.v = min (v0 + 20) vmax ∧ p.need = n) ∧ t.flag ageStat 18 = true ∧
            t.fld ageStat 17 16 = 2) ∧
        (s.age.raising = false ∨ s.age.failed = true ∨ s.age.unconfirmed = false ∧ s.age.settle + 16384 ≤ s.clk.tb.toNat → mode ≠ 2 → ceilE < n →
          ∃ p, t.age.cand = some p ∧ p.v = (if v0 < vmaxE then min (v0 + 20) vmaxE else v0) ∧ p.need = n ∧
            p.pstep = min n ceil ∧ p.worst = w) ∧
        (mode ≠ 2 → n ≤ ceilE → ceilE * 256 < n * (256 + s.fld ageCtl 19 12) ∨ v0 ≤ vmin ∨ lowSlack →
          ∃ p, t.age.cand = some p ∧ p.v = v0 ∧ p.need = n ∧ p.pstep = min n ceil ∧ p.worst = w ∧
            ∀ i, i < 136 → p.codes[i]? = some (let k := s.age.record.get i 0x20
              if slack i < dmin then min 63 (k + 1) else if dmin + 8 < slack i then k - 1 else k)) ∧
        (mode ≠ 2 → n * (256 + s.fld ageCtl 19 12) ≤ ceilE * 256 → n ≤ ceilE → vmin < v0 → ¬lowSlack → 5 ≤ v0 →
          (s.age.unconfirmed = true → t.age.cand = s.age.cand) ∧
          (s.age.unconfirmed = false → s.flag ageStat 14 = false → s.age.settle + 216384 ≤ s.clk.tb.toNat →
            ∃ p, t.age.cand = some p ∧ p.v = max (v0 - 5) vmin ∧ p.need = n))) ∧
    (s.inReset = true → ∀ l, exec (.delayCodeScrub l) s = .next s) ∧
    (s.inReset = false → ∃ t, exec (.delayCodeScrub []) s = .next t ∧ Touches [.regs, .age] s t ∧
      (∀ n, n < 136 → t.age.code n = s.age.code n ∧ t.age.copies n = (s.age.code n, s.age.code n, s.age.code n))) ∧
    (∀ (n : Fin 136) (i : Fin 3) (v : BitVec 6), s.inReset = false → (∀ m, m < 136 → ∃ x, s.age.copies m = (x, x, x)) →
      ∃ t, exec (.delayCodeScrub [(n, i, v)]) s = .next t ∧ (∀ m, m < 136 → t.age.copies m = s.age.copies m) ∧
        t.fld ageScrub 39 20 =
          (s.fld ageScrub 39 20 + (if s.age.code n = v.toNat then 0 else 1)) % 2 ^ 20) ∧
    (s.clk.running = false → exec .headLogInterval s = .next s) ∧
    (s.clk.running = true → ∃ t, exec .headLogInterval s = .next t ∧
      ((s.age.intervals + 1) * (1024 * 3600 * 1000000000) < 2 ^ 64 →
        (s.age.intervals + 1) * (1024 * 3600 * 1000000000) ≤ t.clk.tb.toNat) ∧ (∀ n, n < 15 → t.reg (ageLog (n + 1)) = s.reg (ageLog n)) ∧
      t.fld (ageLog 0) 9 0 = s.fld ageHead 9 0 ∧ t.fld (ageLog 0) 39 10 = s.age.intervals % 2 ^ 30 ∧ t.fld ageHead 9 0 = 0x3FF ∧
      t.age.intervals = s.age.intervals + 1 ∧ Touches [.out, .regs, .age, .clk] s t) ∧
    (s.inReset = true ∨ s.age.inFlight ≠ none → exec .readVoutPoll s = .next s) ∧
    (s.inReset = false → s.age.inFlight = none → ∃ t, exec .readVoutPoll s = .next t ∧
      t.out = .pmbus (s.fld agePmb 6 0) (s.flag agePmb 16) .readVout :: s.out ∧
      t.age.inFlight = some .readVout ∧ Touches [.out, .age] s t) ∧
    (∀ v : BitVec 16, s.age.inFlight = some .readIout → s.age.waiting = none →
      ∃ t, exec (.pmbusResponse (.iout v)) s = .next t ∧ t.age.inFlight = none ∧ Touches [.regs, .age] s t ∧
        let e := signed 5 (v.toNat / 2048)
        let m := 100 * signed 11 (v.toNat % 2048)
        t.fld ageIout 15 0 = min 0xFFFF (if e < 0 then m / (2 ^ e.natAbs : Int) else m * (2 ^ e.natAbs : Int)).toNat) ∧
    (∀ code : BitVec 16, s.age.inFlight = some .readVout → s.age.waiting = none → ∃ t,
      exec (.pmbusResponse (.vout code)) s = .next t ∧
        let e := signed 5 (s.fld agePmb 12 8)
        let c : Int := 1000 * (code.toNat : Int)
        let mv := min 1023 (if e < 0 then c / (2 ^ e.natAbs : Int) else c * (2 ^ e.natAbs : Int)).toNat
        t.fld agePlan 17 8 = mv ∧ t.age.inFlight = (if t.age.unconfirmed then none else some .readIout) ∧
        (∀ p, s.age.plan = some p → (mv ≤ p.v + 10 ∧ p.v ≤ mv + 10 → t.age.unconfirmed = false) ∧
          (¬(mv ≤ p.v + 10 ∧ p.v ≤ mv + 10) → t.age.unconfirmed = s.age.unconfirmed)) ∧ Touches [.out, .regs, .age] s t) ∧
    (∀ k, s.age.inFlight = some (.command k) → s.age.waiting = none → ∃ t, exec (.pmbusResponse .written) s = .next t ∧
      t.age.inFlight = none ∧ Touches [.age] s t) ∧
    (∀ w, s.age.inFlight = some w → s.age.waiting = none → ∃ t, exec (.pmbusResponse .failed) s = .next t ∧
      (s.age.tries < 3 → t.out = .pmbus (s.fld agePmb 6 0) (s.flag agePmb 16) w :: s.out ∧ t.age.inFlight = some w ∧ t.age.tries = s.age.tries + 1) ∧
      (3 ≤ s.age.tries → t.age.inFlight = none ∧ t.flag ageStat 14 = true ∧ t.age.failed = true ∧
        (s.flag ageStat 14 = false → t.flag errSum 7 = true))) ∧
    let near : Prop := ∃ v, (v = match s.age.plan with
        | some p => p.v
        | none => s.age.v0) ∧ s.fld agePlan 17 8 ≤ v + 15 ∧ v ≤ s.fld agePlan 17 8 + 15
    (s.clk.running = false ∨ s.age.unconfirmed = false → exec .voutConfirmTimeout s = .next s) ∧
    (s.clk.running = true → s.age.unconfirmed = true → ∃ t, exec .voutConfirmTimeout s = .next t ∧
      (s.age.changedAt + 1000000 < 2 ^ 64 → s.age.changedAt + 1000000 ≤ t.clk.tb.toNat) ∧
      (near → Touches [.out, .clk] s t) ∧ (¬near → t.flag ageStat 14 = true ∧ t.age.failed = true))

/-- PORST_ASSERT, BROWN_OUT, PORST_RELEASE, BROWN_OUT_END, TAP_RESET, VIO33_RETENTION_LOSS, PLL_T_LOCK, REFRDY_TIMEOUT,
REFERENCE_LOSS and REFERENCE_RELOCK (R352, R353, R355, R362 to R364, R383, R384): a reset leaves every register at its Reset
column but CLK_RSTWHY, which records why; start-up samples the balls; the first lock of PLL_T starts the time base and the
loader, and the planner's rounds 1 ms after the release (how long before the lock that was is the model's free value, log
entry 91). A brown-out end records its rails where the record was lost (log entry 93). A lost reference shows READY 0 and LOST,
and takes down what it clocks. -/
def Obligations.ResetsAndReferences : Prop :=
  ∀ (s : State),
    let afresh (t : State) : Prop := (∀ r, r ≠ clkRstwhy → t.reg r = resetVal r) ∧ t.cores = [] ∧ t.ctxs = [] ∧ t.events = 0 ∧
      t.recto = [] ∧ t.verso = [] ∧ t.frm = .reset ∧ t.ldr = .reset ∧ t.pair = .reset ∧ t.age = .reset ∧ t.host = .reset ∧
      t.ports = [] ∧ t.timers = [] ∧ t.clk = .reset ∧ t.patch = ⟨[], []⟩ ∧ t.flash = s.flash ∧ t.mem = s.mem
    let held := s.pins.porstLow = true ∨ s.pins.brown ≠ []
    (∃ t, exec .porstAssert s = .next t ∧ afresh t ∧ t.pins = { s.pins with porstLow := true } ∧
      t.reg clkRstwhy = putBit (s.reg clkRstwhy) 0 true) ∧
    (∀ r, ∃ t, exec (.brownOut r) s = .next t ∧ afresh t ∧ r ∈ t.pins.brown ∧ t.pins.porstLow = s.pins.porstLow ∧
      t.reg clkRstwhy = if s.pins.porstLow then s.reg clkRstwhy else putBit (s.reg clkRstwhy) (match r with
        | .vcore => 1
        | .vmem => 2
        | .vio18 => 3
        | .vio33 => 4
        | .vsd => 5
        | .vsdh => 6) true) ∧
    (∀ (id : Option Bool) (vf : Viofl) (vout : BitVec 16),
      let mv := min 1023 (1000 * vout.toNat / 512)
      let flv := match vf with
        | .v18 => 0
        | .v33 => 1
        | .outOfRange => 3
      let samples (t : State) : Prop := (∃ b, t.pair = { s.pair with ownId := b } ∧ ∀ x, id = some x → b = x) ∧ t.fld devPkg 1 0 = flv ∧
        t.fld agePlan 17 8 = mv ∧ t.age.v0 = mv ∧ t.age.unconfirmed = false ∧ t.pins.viofl = vf ∧
        t.out = .pmbus 0x40 true .readVout :: s.out
      (s.pins.porstLow = false → exec (.porstRelease id vf vout) s = .next s) ∧
      (s.pins.porstLow = true → ∃ t, exec (.porstRelease id vf vout) s = .next t ∧ t.pins.porstLow = false ∧
        t.flag clkRstwhy 0 = true ∧ (s.pins.brown = [] → samples t) ∧ (s.pins.brown ≠ [] → t.pair = s.pair)) ∧
      (s.pins.porstLow = true ∨ s.pins.brown = [] → exec (.brownOutEnd id vf vout) s = .next s) ∧
      (s.pins.porstLow = false → s.pins.brown ≠ [] → ∃ t, exec (.brownOutEnd id vf vout) s = .next t ∧
        t.pins.brown = [] ∧ samples t ∧ (s.reg clkRstwhy ≠ 0 → t.reg clkRstwhy = s.reg clkRstwhy) ∧
        (s.reg clkRstwhy = 0 → ∀ r ∈ s.pins.brown, t.flag clkRstwhy (match r with
          | .vcore => 1
          | .vmem => 2
          | .vio18 => 3
          | .vio33 => 4
          | .vsd => 5
          | .vsdh => 6) = true))) ∧
    exec .tapReset s = .next { s with pins := { s.pins with testReset := true } } ∧
    (∃ t, exec .vio33RetentionLoss s = .next t ∧ t.reg clkRstwhy = 0 ∧ (∀ r, r ≠ clkRstwhy → t.reg r = s.reg r) ∧
      Touches [.regs] s t) ∧
    (held ∨ s.clk.running = true → exec .pllTLock s = .next s ∧ exec .refrdyTimeout s = .next s) ∧
    (¬held → s.clk.running = false → (∃ t, exec .pllTLock s = .next t ∧ t.clk.running = true ∧ t.clk.tb = 0 ∧
      t.flag clkStat 0 = true ∧ 950000 ≤ t.age.roundAt ∧ t.age.roundAt ≤ 1000000 ∧
      (s.ldr.barred = true → t.mem = s.mem ∧ t.fld cfgStat 31 28 = s.fld cfgStat 31 28) ∧
      (s.ldr.barred = false → t.mem = [] ∧ t.check = [] ∧
        (s.pins.viofl ≠ .outOfRange → t.fld cfgStat 31 28 = 1) ∧
        (s.pins.viofl = .outOfRange → t.fld cfgStat 31 28 = 8 ∧ t.fld (cfgWhy 0) 39 32 = 1 ∧ t.fld (cfgWhy 1) 39 32 = 1 ∧
          t.flag (hstIstat 0) 29 = true))) ∧
      exec .refrdyTimeout s = .next { s with ldr := { s.ldr with barred := true } }) ∧
    ∀ r : RefClk,
      let b := match r with
        | .ref => 0
        | .eth => 1
        | .mir => 2
      (s.flag clkStat b = false → exec (.referenceLoss r) s = .next s) ∧
      (s.flag clkStat b = true → ∃ t, exec (.referenceLoss r) s = .next t ∧ t.flag clkStat b = false ∧
        t.flag clkStat (b + 4) = true ∧ (s.flag clkStat (b + 4) = false → t.flag errSum 4 = true) ∧
        (r = .ref → t.flag clkStat 3 = true ∧ t.faultN = true ∧ t.host.rdLatch = [] ∧ t.host.wrLatch = [] ∧ t.host.msix = [] ∧
          t.host.bars = [] ∧ t.fld (hstIen 0) 31 0 = 0 ∧ t.fld hstLink 6 0 = 0) ∧
        (r = .eth → ∀ p, p < 4 → (t.port p).up = false ∧ (t.port p).toSend = [] ∧ (t.port p).sending = none) ∧
        (r = .mir → s.pairMode = true → t.pair.link = .down ∧ t.pair.silent = true)) ∧
      (held ∨ (r = .ref ∧ s.clk.running = false) → exec (.referenceRelock r) s = .next s) ∧
      (¬held → ¬(r = .ref ∧ s.clk.running = false) → ∃ t, exec (.referenceRelock r) s = .next t ∧ t.flag clkStat b = true ∧
        (r = .ref → t.flag clkStat 3 = false) ∧ (r ≠ .ref → t.flag clkStat 3 = s.flag clkStat 3) ∧ Touches [.regs] s t)

/-- PTP time, pulses, captures, CLKOUT and the latched reads of the clocks (R355 to R361): a LOAD or STEP waits for the next count
of the time base; LOAD replaces PTP time, STEP adds to it modulo 2^48 s, and neither moves the time base; the second wraps by
counting, with PPS_OUT, which falls once its width has passed; a capture takes both clocks with VALID and OVR; a write of
CLK_OUTSEL is refused, kept, or begins a switch, during which CLKOUT is low; a read of CLK_TBLO latches CLK_TBHI. A host access is
stated from the state `u` in which its BAR is assigned (log entry 74). -/
def Obligations.ClocksAndPulses : Prop :=
  ∀ (s : State),
    let open' := s.inReset = false ∧ s.flag clkStat 0 = true ∧ s.host.d3 = false
    let u := s.assign .bar0
    let queued (x : PtpCmd) (t : State) : Prop := t.clk = { s.clk with ptpCmds := s.clk.ptpCmds ++ [x] } ∧ Touches [.clk] u t
    let whole (k : Clock) : Int := k.sec.toNat * 1000000000 + k.ns
    (¬open' → exec .ptpLoad s = .next s ∧ exec .ptpStep s = .next s ∧ exec .clkTbloRead s = .next s ∧
      exec .clkPtp0Read s = .next s ∧ ∀ v, exec (.clkOutselWrite v) s = .next s) ∧
    (open' → (∃ t, exec .ptpLoad s = .next t ∧ ∃ sec : BitVec 48, bits sec 47 40 = s.fld clkPtpld0 37 30 ∧
        bits sec 39 0 = s.fld clkPtpld1 39 0 ∧ queued ⟨s.clk.tb.toNat + 1, some (sec, s.fld clkPtpld0 29 0), 0⟩ t) ∧
      (∃ t, exec .ptpStep s = .next t ∧ queued ⟨s.clk.tb.toNat + 1, none, (s.reg clkPtpstep).toInt⟩ t) ∧
      (s.check = [] → (∃ t, exec .clkTbloRead s = .next t ∧
          t.out = .completion (BitVec.ofNat 64 (bits s.clk.tb 39 0)) false :: s.out ∧
          t.clk = { s.clk with tbHi := BitVec.ofNat 24 (bits s.clk.tb 63 40) } ∧ Touches [.out, .clk] u t) ∧
        ∃ t v, exec .clkPtp0Read s = .next t ∧ t.out = .completion v false :: s.out ∧ bits v 37 30 = bits s.clk.sec 47 40 ∧
          bits v 29 0 = s.clk.ns % 2 ^ 30 ∧ t.clk = { s.clk with ptp1 := word (bits s.clk.sec 39 0) } ∧
          Touches [.out, .clk] u t) ∧
      ∀ v : Word,
        let src := bits v 2 0
        let arg := bits v 21 14
        let ok := ¬((src = 1 ∨ src = 4 ∨ src = 6 ∨ src = 7) ∧ s.flag clkStat 0 = false) ∧ ¬(src = 2 ∧ s.flag clkStat 1 = false) ∧
          ¬(src = 3 ∧ s.flag clkStat 2 = false) ∧ (src = 5 → arg ≤ 135) ∧ (src = 7 → arg ≤ 127)
        let kept := putBit (putBits v 39 22 0) 3 false
        ∃ t, exec (.clkOutselWrite v) s = .next t ∧
          (¬ok → t.flag clkStat 7 = true ∧ t.reg clkOutsel = s.reg clkOutsel ∧ t.clk = s.clk) ∧
          (ok → s.clk.switching = true → t.clk.nextSel = some kept ∧ t.regs = u.regs) ∧
          (ok → s.clk.switching = false → t.reg clkOutsel = kept ∧ t.clk.switching = true ∧ t.clkOut = .low)) ∧
    (∀ x : PtpCmd, s.pending = [] → s.clk.running = true → s.clk.owed = 0 → s.clk.ptpCmds = [x] → x.count ≤ s.clk.tb.toNat →
      s.reg clkPtprate = 0 → (∀ p, p < 4 → (s.port p).rxWait = []) →
      let base : Int := match x.load with
        | some (sec, ns) => sec.toNat * 1000000000 + ns
        | none => whole s.clk
      ∃ t, step s = .next t ∧ t.clk.ptpCmds = [] ∧ t.clk.tb = s.clk.tb + 1 ∧
        whole t.clk = (base + x.step + 1) % (2 ^ 48 * 1000000000) ∧ t.clk.ns < 1000000000) ∧
    (s.clk.running = false → exec .ptpSecondWrap s = .next s) ∧
    (s.clk.running = true → s.clk.ns < 1000000000 → s.clk.ptpCmds = [] →
      (∀ x, s.clk.pps = some x → s.clk.tb.toNat + s.untilWrap < x) → ∃ t, exec .ptpSecondWrap s = .next t ∧
      t.clk.sec = s.clk.sec + 1 ∧ t.clk.ns ≤ 1 ∧
      (s.reg clkPtprate = 0 → t.clk.ns = 0 ∧ t.clk.tb = s.clk.tb + BitVec.ofNat 64 (1000000000 - s.clk.ns)) ∧
      (s.fld clkPpsctl 8 0 ≠ 0 → t.clk.pps = some (t.clk.tb.toNat + 1000000 * s.fld clkPpsctl 8 0) ∧
        t.out = if s.clk.pps.isSome then s.out else .ppsOut true :: s.out) ∧
      (s.fld clkPpsctl 8 0 = 0 → t.clk.pps = s.clk.pps ∧ t.out = s.out) ∧ Touches [.out, .clk] s t) ∧
    (s.clk.running = false ∨ s.clk.pps = none → exec .ppsOutFall s = .next s) ∧
    (∀ x, s.clk.running = true → s.clk.pps = some x → s.clk.ns < 1000000000 → s.clk.ptpCmds = [] → x < 2 ^ 64 →
      x < s.clk.tb.toNat + s.untilWrap → ∃ t, exec .ppsOutFall s = .next t ∧ t.clk.pps = none ∧
      t.clk.tb.toNat = max x s.clk.tb.toNat ∧ t.out = .ppsOut false :: s.out ∧ Touches [.out, .clk] s t) ∧
    (¬(s.flag clkPpsctl 9 = true ∧ s.clk.running = true) → exec .ppsInCapture s = .next s) ∧
    (s.flag clkPpsctl 9 = true → s.clk.running = true → ∃ t, exec .ppsInCapture s = .next t ∧
      t.fld clkPpscap0 37 30 = bits s.clk.sec 47 40 ∧ t.fld clkPpscap0 29 0 = s.clk.ns % 2 ^ 30 ∧
      t.fld clkPpscap1 39 0 = bits s.clk.sec 39 0 ∧ t.fld clkPpstb0 39 0 = bits s.clk.tb 39 0 ∧
      t.fld clkPpstb1 23 0 = bits s.clk.tb 63 40 ∧ t.flag clkPpsctl 11 = true ∧
      t.flag clkPpsctl 10 = (s.flag clkPpsctl 10 || s.flag clkPpsctl 11) ∧ Touches [.regs] s t) ∧
    (s.clk.switching = false → exec .clkoutSwitchComplete s = .next s) ∧
    (s.clk.switching = true → ∃ t, exec .clkoutSwitchComplete s = .next t ∧ t.clk.nextSel = none ∧
      (s.clk.nextSel = none → t.clk.switching = false ∧ t.regs = s.regs) ∧
      (∀ v, s.clk.nextSel = some v → t.clk.switching = true ∧ t.reg clkOutsel = v) ∧ Touches [.regs, .clk] s t)

/-! ### The loader -/

/-- The phases of the binding loader (R240, R241, R244 to R256, R311): each command works only in its phase, with no failure
found. A bank that breaks a rule is rejected with its reason, and the other one is loaded; when both are rejected the loader
stops FAILED. A good image is read, verified, relocated and set up, and the part is sealed once the first plan is ready, or
with HOLDFAIL after 10 ms. -/
def Obligations.LoaderPhases : Prop :=
  ∀ (s : State),
    let held := s.pins.porstLow = true ∨ s.pins.brown ≠ []
    let phase (t : State) : Nat := t.fld cfgStat 31 28
    let ready (n : Nat) : Prop := ¬held ∧ phase s = n ∧ s.ldr.fail = none
    let gaveUp (t : State) : Prop := phase t = 8 ∧ t.flag (hstIstat 0) 29 = true
    let fails (t : State) (w : Why) : Prop := t = { s with ldr := { s.ldr with fail := some w } }
    let start (b : Bool) : Nat := if b then s.flashSize / 2 else 0
    let bytes (a n : Nat) : List Byte := (range a n).map s.flashByte
    let at0 := start s.ldr.bank
    (∀ d, ¬ready 1 → exec (.discovery d) s = .next s) ∧
    (∀ d, ready 1 → ∃ t, exec (.discovery d) s = .next t ∧
      ((d = none ∨ ∃ x, d = some x ∧ x.densityMbit < 256) → gaveUp t ∧ t.fld (cfgWhy 0) 39 32 = 1 ∧ t.fld (cfgWhy 1) 39 32 = 1) ∧
      (∀ x, d = some x → 256 ≤ x.densityMbit →
        let fmax := s.fld cfgFuse 23 16
        let limit := min (min x.maxMHz 200) (min (if fmax = 0 then 200 else 4 * fmax) (if s.fld devPkg 1 0 = 1 then 125 else 200))
        phase t = 2 ∧ t.ldr.sfdp = some x ∧ (t.ldr.octal = true ↔ x.octal = true ∧ 50 ≤ limit) ∧
          t.flag cfgStat 23 = !t.ldr.octal)) ∧
    (¬ready 2 → exec .header s = .next s) ∧
    (ready 2 → s.ldr.rejected = [] →
      let h (b : Bool) : List Byte := bytes (start b) 0x1000
      let good (b : Bool) : Prop := fieldAt (h b) 0 4 = 0x5A544249 ∧ fieldAt (h b) 0x18 4 = (crc32c ((h b).take 0x18)).toNat ∧
        fieldAt (h b) 0x1C 4 = 0x1024
      ∃ t, exec .header s = .next t ∧ (∀ b, ¬good b → t.fld (cfgWhy b.toNat) 39 32 = 2 ∧ t.fld (cfgWhy b.toNat) 31 24 = 0xFF) ∧
        (¬good false → ¬good true → gaveUp t) ∧
        (good false ∨ good true → phase t = 3 ∧
          (t.ldr.bank = true ↔ good true ∧ (good false → fieldAt (h false) 8 4 < fieldAt (h true) 8 4)))) ∧
    (¬ready 3 → exec .read s = .next s) ∧
    (ready 3 → ∃ t, exec .read s = .next t ∧
      let h := bytes at0 0x1000
      let len := fieldAt h 0x10 4
      let l := sectsOf h (fieldAt h 0x14 4)
      let sect (x : Sect) : List Byte := bytes (at0 + x.off) x.len
      let sound := (∀ x ∈ l, (crc32c (sect x)).toNat = x.crc) ∧ ∀ x ∈ l, x.ty = 1 → ∀ r ∈ regionsOf (sect x), r.ends ≠ none
      let read (t : State) : Prop := phase t = 4 ∧ t.ldr.fail = none ∧ t.ldr.imgLen = len ∧
        (t.ldr.signed = true ↔ fieldAt h 0xE 2 % 2 = 1) ∧ t.ldr.digest = sha256 (bytes at0 (len - 256)) ∧ t.ldr.sects = l
      (∀ w, s.headerWhy h = some w → fails t w) ∧
      (s.headerWhy h = none → (∃ x ∈ l, x.ty ≠ 2 ∧ (crc32c (sect x)).toNat ≠ x.crc) → phase t = 3 ∧ t.ldr.fail ≠ none) ∧
      (s.headerWhy h = none → sound → (∀ x ∈ l, x.ty ≠ 2) → read t ∧ t.mem = s.mem) ∧
      ∀ pre x post y e, s.headerWhy h = none → sound → l = pre ++ x :: post → x.ty = 2 → (∀ z ∈ pre ++ post, z.ty ≠ 2) →
        l.find? (fun z => z.ty == 1) = some y →
        let bs := sect x
        let n := fieldAt bs 6 4
        let a := e + fieldAt bs 2 4
        bs.length = 10 + 5 * n → (∃ r top, (regionsOf (sect y))[fieldAt bs 0 2]? = some r ∧ r.ends = some (e, top) ∧ a + n ≤ top) →
        read t ∧ (∀ j, j < n → t.peek (a + j) = word (fieldAt bs (10 + 5 * j) 5)) ∧
          ∀ q, q < a ∨ a + n ≤ q → t.peek q = s.peek q) ∧
    (¬ready 4 → exec .verify s = .next s) ∧
    (ready 4 → ∃ t, exec .verify s = .next t ∧
      let tr := bytes (at0 + s.ldr.imgLen - 256) 256
      let part (o n : Nat) : Nat := beNat ((tr.drop o).take n)
      let passes (b : Bool) : Prop := phase t = 5 ∧ t.flag cfgStat 22 = b ∧ t.ldr.fail = none
      let keyOk := s.flag cfgFuse 33 = true → sha256 ((tr.drop 32).take 96) = Config.fuseKeyHash
      let sigOk := ecdsaP384 (part 32 48) (part 80 48) s.ldr.digest.toNat (part 128 48) (part 176 48) = true
      (part 0 32 ≠ s.ldr.digest.toNat → fails t ⟨6, 0xFF, 0⟩) ∧
      (part 0 32 = s.ldr.digest.toNat → s.ldr.signed = false →
        (s.flag cfgFuse 32 = true → fails t ⟨7, 0xFF, 0⟩) ∧ (s.flag cfgFuse 32 = false → passes false)) ∧
      (part 0 32 = s.ldr.digest.toNat → s.ldr.signed = true → (¬keyOk → fails t ⟨7, 0xFF, 0⟩) ∧
        (keyOk → ¬sigOk → fails t ⟨8, 0xFF, 0⟩) ∧ (keyOk → sigOk → passes true))) ∧
    (¬ready 5 → exec .relocate s = .next s) ∧
    (ready 5 → s.ldr.relocs = [] → ∃ t, exec .relocate s = .next t ∧ phase t = 6 ∧ t.mem = s.mem ∧ Touches [.regs, .ldr] s t) ∧
    (∀ i e tb te ab ae, ready 5 → s.ldr.relocs = [(i, e)] → e.tkind = 0 → s.region e.tsel = some (tb, te) →
      s.region e.areg = some (ab, ae) → tb + e.tidx < te → e.field = 0 ∨ e.field = 1 →
      let a := tb + e.tidx
      let hi := if e.field = 0 then 27 else 19
      let sum := bits (s.peek a) hi 0 + ab
      ∃ t, exec .relocate s = .next t ∧
        (sum < 2 ^ (hi + 1) → sum < ae → phase t = 6 ∧ bits (t.peek a) hi 0 = sum ∧
          bits (t.peek a) 39 (hi + 1) = bits (s.peek a) 39 (hi + 1) ∧ ∀ q, q ≠ a → t.peek q = s.peek q) ∧
        (¬(sum < 2 ^ (hi + 1) ∧ sum < ae) → fails t ⟨11, i, 0⟩)) ∧
    (¬(ready 6 ∧ s.ldr.setUp = false) → exec .setUp s = .next s) ∧
    (ready 6 → s.ldr.setUp = false → ∃ t, exec .setUp s = .next t ∧
      let u := s.putRecords s.ordered
      (∀ pre x post, s.ordered = pre ++ x :: post → (∀ y ∈ pre, recOk y = true) → recOk x = false →
        t.ldr.fail = some ⟨10, x.sect, 8 * x.idx⟩ ∧ t.ldr.setUp = false) ∧
      ((∀ y ∈ s.ordered, recOk y = true) →
        (∀ r, u.unreadable = some r → t.ldr.setUp = false ∧ ∃ i, t.ldr.fail = some ⟨12, i, 8 * r⟩) ∧
        (u.unreadable = none → s.ldr.patch = none → t.ldr.setUp = true ∧ t.ldr.fail = none ∧ t.recto = u.recto ∧
          t.verso = u.recto ∧ t.age.setUpAt = some s.clk.tb.toNat ∧
          (∀ v, v < 1024 → t.scheduled v = true → t.fld (frmTstat v) 39 37 = 1) ∧
          ∀ pre x post, s.ordered = pre ++ x :: post → x.ty ≠ 0xC → (∀ y ∈ post, y.idx ≠ x.idx ∨ y.ty = 0xC) →
            t.reg x.idx &&& accMask .sl (layout x.idx) = x.val &&& accMask .sl (layout x.idx)))) ∧
    (let sealable := ready 6 ∧ s.ldr.setUp = true
     let sealed (t : State) : Prop := t.sealed = true ∧ phase t = 7 ∧ t.flag cfgStat 25 = s.ldr.bank ∧
       t.fld cfgImgid 39 32 = s.ldr.svn % 256 ∧ t.flag (hstIstat 0) 29 = true ∧
       (∀ n, n < 7 → t.reg (cfgDig n) = word (s.ldr.digest.toNat / 2 ^ (40 * n))) ∧
       (s.pairMode = true → t.pair.waiting = true)
     (¬(sealable ∧ s.flag ageStat 12 = true) → exec .sealSetUp s = .next s) ∧
     (sealable → s.flag ageStat 12 = true → ∃ t, exec .sealSetUp s = .next t ∧ sealed t) ∧
     (¬(sealable ∧ s.flag ageStat 12 = false) → exec .firstPlanTimeout s = .next s) ∧
     (sealable → s.flag ageStat 12 = false → ∃ t, exec .firstPlanTimeout s = .next t ∧ sealed t ∧ t.flag ageStat 19 = true ∧
       bit t.pair.health 3 = true)) ∧
    (held ∨ s.ldr.fail = none → exec .bankReject s = .next s) ∧
    (∀ w, ¬held → s.ldr.fail = some w → ∃ t, exec .bankReject s = .next t ∧
      let y := cfgWhy s.ldr.bank.toNat
      t.fld y 39 32 = w.code % 256 ∧ t.fld y 31 24 = w.sect % 256 ∧ t.fld y 23 0 = w.detail % 2 ^ 24 ∧ t.flag cfgStat 24 = true ∧
        t.ldr.fail = none ∧ t.mem = [] ∧ t.recto = [] ∧ t.verso = [] ∧ t.patch = ⟨[], []⟩ ∧
        ((!s.ldr.bank) ∈ s.ldr.rejected → gaveUp t) ∧
        ((!s.ldr.bank) ∉ s.ldr.rejected → phase t = 3 ∧ t.ldr.bank = !s.ldr.bank)) ∧
    ∀ a,
      let octal := (ready 2 ∨ ready 3) ∧ s.ldr.octal = true
      let n := if a = s.ldr.retryAt then s.ldr.retries + 1 else 1
      (¬octal → exec (.flashReadRetry a) s = .next s) ∧
      (octal → n < 4 → exec (.flashReadRetry a) s = .next { s with ldr := { s.ldr with retryAt := a, retries := n } }) ∧
      (octal → 4 ≤ n → ∃ t, exec (.flashReadRetry a) s = .next t ∧
        (phase s = 2 → (decide (s.flashSize / 2 ≤ a)) ∈ t.ldr.rejected ∧ t.fld (cfgWhy (decide (s.flashSize / 2 ≤ a)).toNat) 39 32 = 14) ∧
        (phase s = 3 → t.ldr.fail = some ⟨14, 0xFF, a / 8⟩ ∧ phase t = 3))

/-! ### The host -/

/-- BAR_READ (R3, R4, R315, R317 to R321): reads are answered by one completion: a register with its reserved and WO bits 0, a
word of the commons, a result word or CSW of a slot, an MSI-X dword; a reserved offset reads 0. A read of offset 0 latches the
upper byte, which a read of offset 4 then returns. Nothing is answered in reset, without REFCLK or in D3hot. The first access to a
BAR stands for its assignment and for the link that the host brings up (the model's reading, log entry 74), and changes nothing
else. -/
def Obligations.HostReads : Prop :=
  ∀ (s : State),
    let open' := s.inReset = false ∧ s.flag clkStat 0 = true ∧ s.host.d3 = false
    let answers (i : Instr) (v : Nat) : Prop := ∃ t, exec i s = .next t ∧
      t.out = .completion (BitVec.ofNat 64 v) false :: s.out ∧ Touches [.free, .out, .regs, .host, .clk] s t
    (∀ b, (b ∈ s.host.bars → s.assign b = s) ∧ (b ∉ s.host.bars → Touches [.free, .regs, .host] s (s.assign b) ∧
      (s.assign b).host = { s.host with bars := b :: s.host.bars } ∧ (∀ r, r ≠ hstLink → (s.assign b).reg r = s.reg r) ∧
      (s.reg hstLink ≠ 0 → (s.assign b).reg hstLink = s.reg hstLink) ∧
      (s.reg hstLink = 0 → (s.assign b).fld hstLink 6 4 ∈ [1, 2, 4] ∧ 1 ≤ (s.assign b).fld hstLink 2 0 ∧
        (s.assign b).fld hstLink 2 0 ≤ 4))) ∧
    (¬open' → ∀ b off whole, exec (.barRead b off whole) s = .next s) ∧
    (open' → s.check = [] →
      (∀ r, r < 0x200000 →
        let shown := (r % 0x80 = 1 ∧ 0x20000 ≤ r ∧ r < 0x24000) ∨ (0x60200 ≤ r ∧ r < 0x60220) ∨ (0x86800 ≤ r ∧ r < 0x86900) ∨
          (0xC2000 ≤ r ∧ r < 0xC6000) ∨ r = mirStat ∨ (ageSent 0 ≤ r ∧ r < ageSent 136) ∨ (clkTblo ≤ r ∧ r ≤ clkPtp1)
        let names (i : Nat) : Prop := ∃ f ∈ layout r, f.lo ≤ i ∧ i ≤ f.hi ∧ f.acc ≠ .wo
        (layout r = [] → answers (.barRead .bar0 (8 * r) true) 0) ∧
        (layout r ≠ [] → ¬shown → ∃ v : Word, answers (.barRead .bar0 (8 * r) true) v.toNat ∧
          answers (.barRead .bar0 (8 * r) false) (bits v 31 0) ∧
          ∀ i, i < 40 → (names i → bit v i = bit ((s.assign .bar0).reg r) i) ∧ (¬names i → bit v i = false)) ∧
        (layout r ≠ [] → ¬shown → (∀ x ∈ s.host.rdLatch, x.1 ≠ .bar0) →
          answers (.barRead .bar0 (8 * r + 4) false) (bits ((s.assign .bar0).readReg r) 39 32))) ∧
      (∀ a, a < 0x200000 → answers (.barRead .bar2 (8 * a) true) (s.peek (0x1000000 + a)).toNat ∧
        ∃ t, exec (.barRead .bar2 (8 * a) false) s = .next t ∧
          t.out = .completion (BitVec.ofNat 64 (bits (s.peek (0x1000000 + a)) 31 0)) false :: s.out ∧
          ∃ u, exec (.barRead .bar2 (8 * a + 4) false) t = .next u ∧
            u.out = .completion (BitVec.ofNat 64 (bits (s.peek (0x1000000 + a)) 39 32)) false :: t.out) ∧
      (∀ k : SlotId,
        let c := s.cmd k
        answers (.barRead .bar4 (4096 * k) true) 0 ∧
        (∃ v : Word, answers (.barRead .bar4 (4096 * k + 8) true) v.toNat ∧ bits v 31 24 = c.fail % 256 ∧
          bits v 23 16 = c.tag.toNat ∧ bits v 15 0 = c.prog % 65536 ∧ bits v 39 37 = (match c.st with
            | .idle => 0
            | .queued => 1
            | .running => 2
            | .done => 3
            | .failed => 4
            | .aborted => 5)) ∧
        ∀ n, 2 ≤ n → n < 512 → answers (.barRead .bar4 (4096 * k + 8 * n) true) (s.host.bar4.get (512 * k + n) 0).toNat) ∧
      (∀ d, d < 256 → answers (.barRead .bar4 (0x1E000 + 4 * d) false) (s.host.msix.get d 0).toNat) ∧
      answers (.barRead .bar4 0x1E800 true) s.host.pba.toNat)

/-- REGISTER_WRITE, BAR_HIGH_WRITE, BAR2_WRITE, DOORBELL, MSIX_UNMASK and HOST_INTERFACE_RESET (R3, R54, R257, R281, R316 to
R320, R328, R330, R397): a write changes the RW fields, clears W1C bits written as 1, leaves RO and sealed fields, of which a
differing one after the seal counts in SVIOL and is logged, and queues LV fields for the boundary. A commons write needs a
window, no role of its word in the frame, and in a pair waits where the word is shared. A poisoned write counts. A cause sends no
second message before its bit has been cleared. Writes are stated from the state `u` in which the BAR is assigned (log entry 74). -/
def Obligations.HostWrites : Prop :=
  ∀ (s : State),
    let open' := s.inReset = false ∧ s.flag clkStat 0 = true ∧ s.host.d3 = false
    let follows := s.pair.role = .secondary ∨ s.pair.role = .standby
    let special (r : Nat) : Prop := (0x20000 ≤ r ∧ r < 0x24000 ∧ r % 0x80 < 0x40) ∨ r = cfgSwapctl ∨ r = mirCmd ∨ r = clkPtpcmd ∨
      r = clkOutsel ∨ r = hstIen 0 ∨ r = hstIen 1 ∨ r = hstIstat 0 ∨ r = hstIstat 1 ∨ (0xC4000 ≤ r ∧ r < 0xC6000)
    (¬open' → ∀ b off v h q, exec (.registerWrite b off v q) s = .next s ∧ exec (.barHighWrite b off h q) s = .next s ∧
      exec (.bar2Write off v q) s = .next s) ∧
    (open' → ∀ r v, r < 0x200000 → layout r ≠ [] → ¬special r →
      let u := s.assign .bar0
      let w : Word := v.setWidth 40
      let sl := accMask .sl (layout r)
      let breach := s.sealed = true ∧ (s.reg r ^^^ w) &&& sl ≠ 0
      ∃ t, exec (.registerWrite .bar0 (8 * r) (.whole v) .good) s = .next t ∧
        (∀ f ∈ layout r, ∀ i, f.lo ≤ i → i ≤ f.hi → i < 40 →
          (f.acc = .rw → ¬breach → bit (t.reg r) i = bit w i) ∧
          (f.acc = .w1c → ¬breach → bit (t.reg r) i = (bit (s.reg r) i && !bit w i)) ∧
          (f.acc = .sl → bit (t.reg r) i = bit (s.reg r) i) ∧ (f.acc = .lv → bit (t.reg r) i = bit (s.reg r) i) ∧
          (f.acc = .ro → ¬breach → bit (t.reg r) i = bit (u.reg r) i)) ∧
        (breach → t.fld cfgStat 15 0 = (s.fld cfgStat 15 0 + 1) % 2 ^ 16 ∧ t.flag errSum 15 = true ∧
          t.fld (errLogA (s.fld errStat 39 32 % 32)) 36 29 = 7 ∧ t.fld (errLogA (s.fld errStat 39 32 % 32)) 28 21 = 0x81) ∧
        (¬breach → (∀ q, q ≠ r → q ≠ mirCnt1 → t.reg q = u.reg q) ∧
          (accMask .lv (layout r) = 0 → t.reg mirCnt1 = s.reg mirCnt1 ∨ r = mirCnt1) ∧ t.mem = s.mem) ∧
        (accMask .lv (layout r) ≠ 0 → ¬(r = agePolicy ∧ bits w 13 12 = 3) → ¬follows → s.pair.role ≠ .primary →
          t.lv = s.lv ++ [(r, w)] ∧ ∀ x ∈ t.pair.held, x.addr ≠ r)) ∧
    (open' → ∀ n (v : BitVec 64), n < 2 →
      let u := s.assign .bar0
      (∃ t, exec (.registerWrite .bar0 (8 * hstIstat n) (.whole v) .good) s = .next t ∧ Touches [.regs, .host] u t ∧
        ∀ i, i < 32 → t.flag (hstIstat n) i = (s.flag (hstIstat n) i && !bit v i) ∧
          bit t.host.sent (32 * n + i) = (bit s.host.sent (32 * n + i) && !bit v i)) ∧
      ∃ t, exec (.registerWrite .bar0 (8 * hstIen n) (.whole v) .good) s = .next t ∧ Touches [.out, .regs, .host] u t ∧
        ∀ i, i < 32 → t.flag (hstIen n) i = bit v i ∧
          (bit s.host.sent (32 * n + i) = true → .msi (32 * n + i) ∈ t.out → .msi (32 * n + i) ∈ s.out) ∧
          (s.flag (hstIen n) i = false → bit v i = true → s.flag (hstIstat n) i = true → bit s.host.sent (32 * n + i) = false →
            s.masked (32 * n + i) = false → .msi (32 * n + i) ∈ t.out ∧ bit t.host.sent (32 * n + i) = true)) ∧
    (open' → ∀ r v, 0x20000 ≤ r → r < 0x24000 → r % 0x80 < 0x40 → layout r ≠ [] →
      ∃ t, exec (.registerWrite .bar0 (8 * r) (.whole v) .good) s = .next t ∧ t = s.assign .bar0) ∧
    (open' → ∀ b off v h, off / 8 < 0x4000 →
      (∃ t, exec (.registerWrite b off v .poisoned) s = .next t ∧ t.fld hstStat 19 0 = (s.fld hstStat 19 0 + 1) % 2 ^ 20 ∧
        Touches [.regs] (s.assign b) t) ∧
      ∃ t, exec (.barHighWrite b off h .partialBytes) s = .next t ∧ t.fld hstStat 19 0 = (s.fld hstStat 19 0 + 1) % 2 ^ 20 ∧
        t.out = .unsupported :: s.out ∧ t.host.aerUr = true ∧ Touches [.out, .regs, .host] (s.assign b) t) ∧
    (open' → ∀ a (h lo : BitVec 32), a < 0x200000 → ∃ t, exec (.barHighWrite .bar2 (8 * a + 4) h .good) s = .next t ∧
      Touches [.host] (s.assign .bar2) t ∧ t.host.pba = s.host.pba ∧ exec (.bar2Write (8 * a) (.low lo) .good) t =
        exec (.bar2Write (8 * a) (.whole (BitVec.ofNat 64 (bits h 7 0 * 2 ^ 32 + lo.toNat))) .good)
          { t with host := { t.host with wrLatch := t.host.wrLatch.filter (fun x => x.1 != .bar2) } }) ∧
    (open' → ∀ x (v : BitVec 64), x < 0x200000 →
      let u := s.assign .bar2
      let a := 0x1000000 + x
      let w : Word := v.setWidth 40
      let inside := ∃ n, n < 4 ∧ 8 * s.fld (hstBwin n) 17 0 ≤ x ∧ x < 8 * s.fld (hstBwin n) 17 0 + 8 * s.fld (hstBwin n) 35 18
      let shared := s.sharedWord a = true ∨ s.imageWord a = true
      let counts (t : State) : Prop := t.fld hstStat 19 0 = (s.fld hstStat 19 0 + 1) % 2 ^ 20 ∧ Touches [.regs] u t
      ∃ t, exec (.bar2Write (8 * x) (.whole v) .good) s = .next t ∧
        (¬inside → counts t) ∧
        (inside → s.roleBarred a = true → ¬shared ∨ ¬(follows ∨ s.pair.role = .primary) → counts t) ∧
        (inside → s.roleBarred a = false → ¬shared ∨ ¬(follows ∨ s.pair.role = .primary) → t.peek a = w ∧ t.bad a = none ∧
          (∀ b, b ≠ a → t.peek b = s.peek b) ∧ Touches [.mem, .check] u t) ∧
        (inside → shared → follows → t.fld mirCnt1 19 0 = (s.fld mirCnt1 19 0 + 1) % 2 ^ 20 ∧ Touches [.regs] u t) ∧
        (inside → shared → s.pair.role = .primary → (∃ f, t.pair.held = s.pair.held ++ [⟨a, w, f⟩] ∧
          (s.frm.started = true → s.frame < f)) ∧ Touches [.out, .pair] u t)) ∧
    (∀ n : Fin 128, (¬open' → exec (.doorbell n) s = .next s) ∧
      (open' → ∃ t, exec (.doorbell n) s = .next t ∧
        (follows → t.fld mirCnt1 19 0 = (s.fld mirCnt1 19 0 + 1) % 2 ^ 20 ∧ Touches [.regs] (s.assign .bar4) t) ∧
        (s.pair.role = .none ∨ (s.pair.role = .solo ∧ s.pair.joinFrame ≠ some s.frame) → s.flag (evtRoute (512 + n)) 24 = true → bit t.events (512 + n) = true))) ∧
    (∀ v : Fin 64, (¬open' → exec (.msixUnmask v) s = .next s) ∧
      (open' → ∃ t, exec (.msixUnmask v) s = .next t ∧ t.masked v = false ∧ Touches [.out, .host] (s.assign .bar4) t ∧
        (s.masked v = true → bit s.host.pba v = true → bit t.host.pba v = false ∧ bit t.host.sent v = true ∧
          t.out = .msi v :: s.out) ∧
        (s.masked v = false ∨ bit s.host.pba v = false → t.host.pba = s.host.pba ∧ t.out = s.out))) ∧
    ∀ k, (s.pins.porstLow = true ∨ s.pins.brown ≠ [] → exec (.hostInterfaceReset k) s = .next s) ∧
      (s.pins.porstLow = false → s.pins.brown = [] → ∃ t, exec (.hostInterfaceReset k) s = .next t ∧ t.host.rdLatch = [] ∧
        t.host.wrLatch = [] ∧ t.host.bars = [] ∧ t.host.msix = [] ∧ t.host.pba = 0 ∧ t.host.sent = 0 ∧
        (k = .linkDown → t.reg hstLink = 0) ∧ t.host.slots = s.host.slots ∧ t.host.bar4 = s.host.bar4 ∧
        (t.host.d3 = true ↔ k = .d3hot) ∧ (∀ n, n < 2 → t.fld (hstIstat n) 31 0 = 0 ∧ t.fld (hstIen n) 31 0 = 0) ∧
        Touches [.regs, .host] s t)

/-- The command slots (R321 to R327, R378): a CMD write is ignored in reset, without REFCLK or in D3hot, and rejected while its
slot is busy;
else the command is accepted with its arguments and TAG. It ends in DONE or FAILED with its code and its cause, or runs: a
reset and a flush wait for the housekeeping slot, one flash command runs at a time, a self-test waits for the sentry slot. -/
def Obligations.SlotCommandsRun : Prop :=
  ∀ (k : SlotId) (tag : Byte) (irq : Bool) (s : State),
    let open' := s.inReset = false ∧ s.flag clkStat 0 = true ∧ s.host.d3 = false
    let follows := s.pair.role = .secondary ∨ s.pair.role = .standby
    let arg (n : Nat) : Word := s.host.bar4.get (512 * k + 2 + n) 0
    let cmds : List (Nat × Instr) := [(0x01, .nop k tag irq), (0x02, .treset k tag irq), (0x03, .qflush k tag irq),
      (0x10, .flread k tag irq), (0x11, .flerase k tag irq), (0x12, .flprog k tag irq), (0x20, .selftest k tag irq),
      (0x21, .snapshot k tag irq)]
    let ends (t : State) (st : CmdState) (fail prog : Nat) : Prop := (t.cmd k).st = st ∧ (t.cmd k).fail = fail ∧
      (t.cmd k).prog = prog ∧ (t.cmd k).tag = tag ∧ (irq = true → t.flag (hstIstat 0) k = true)
    let runs (t : State) (st : CmdState) : Prop := (t.cmd k).st = st ∧ (t.cmd k).tag = tag ∧ (t.cmd k).fail = 0 ∧
      ∀ n, n < 14 → (t.cmd k).args[n]? = some (arg n)
    (∀ x ∈ cmds, (¬open' → exec x.2 s = .next s) ∧
      (open' → (s.cmd k).busy = true → ∃ t, exec x.2 s = .next t ∧
        t.fld hstStat 39 20 = (s.fld hstStat 39 20 + 1) % 2 ^ 20 ∧ Touches [.regs] (s.assign .bar4) t) ∧
      (open' → (s.cmd k).busy = false → ∃ t, exec x.2 s = .next t ∧ (t.cmd k).op = x.1 ∧
        ∀ j, j ≠ k.val → t.cmd j = s.cmd j)) ∧
    (open' → (s.cmd k).busy = false →
      (∃ t, exec (.nop k tag irq) s = .next t ∧ ends t .done 0 0) ∧
      (let u := bits (arg 0) 9 0
       ∃ t, exec (.treset k tag irq) s = .next t ∧ (follows → ends t .failed 6 0) ∧
         (¬follows → s.scheduled u = false → ends t .failed 3 0) ∧
         (¬follows → s.scheduled u = true → runs t .running ∧ t.frm.resets = s.frm.resets ++ [⟨u, if s.pair.role = .primary then
           (if s.frm.started then s.frame + 1 else 0) else s.frame, some k⟩])) ∧
      (let h := bits (arg 0) 27 0
       let ok := 0x1000000 ≤ h ∧ h < 0x1200000 ∧ h % 8 = 0
       ∃ t, exec (.qflush k tag irq) s = .next t ∧ (follows → ends t .failed 6 0) ∧ (¬follows → ¬ok → ends t .failed 2 0) ∧
         (¬follows → ok → runs t .running ∧
           t.frm.flushes = s.frm.flushes ++ [⟨h, if s.frm.started then s.frame + 1 else 0, some k⟩])) ∧
      (let a := (arg 0).toNat
       let n := (arg 1).toNat
       let closed := s.fld cfgStat 31 28 ≤ 6 ∨ s.ldr.sfdp = none
       let small := 1 ≤ n ∧ n ≤ 1984
       let waits (t : State) : Prop := t.host.flashQ = s.host.flashQ ++ [k.val] ∧
         runs t (if s.host.flashQ = [] then .running else .queued)
       let guarded := s.protectedRange a n = true
       (∃ t, exec (.flread k tag irq) s = .next t ∧ t.flash = s.flash ∧ (closed → ends t .failed 5 0) ∧
         (¬closed → ¬(a + n ≤ s.flashSize ∧ small) → ends t .failed 2 0) ∧
         (¬closed → a + n ≤ s.flashSize → small → waits t)) ∧
       (∃ t, exec (.flerase k tag irq) s = .next t ∧ t.flash = s.flash ∧ (closed → ends t .failed 5 0) ∧
         (¬closed → ¬(a + n ≤ s.flashSize ∧ a % s.eraseSize = 0 ∧ n % s.eraseSize = 0) → ends t .failed 2 0) ∧
         (¬closed → a + n ≤ s.flashSize → a % s.eraseSize = 0 → n % s.eraseSize = 0 →
           (guarded → ends t .failed 4 0) ∧ (¬guarded → waits t))) ∧
       (∃ t, exec (.flprog k tag irq) s = .next t ∧ t.flash = s.flash ∧ (closed → ends t .failed 5 0) ∧
         (¬closed → ¬(a + n ≤ s.flashSize ∧ a % s.pageSize = 0 ∧ small) → ends t .failed 2 0) ∧
         (¬closed → a + n ≤ s.flashSize → a % s.pageSize = 0 → small →
           (guarded → ends t .failed 4 0) ∧ (¬guarded → waits t)))) ∧
      (let c := bits (arg 0) 6 0
       let code := bits (arg 0) 10 8
       let steps := if code = 1 then 2400 else if code = 2 then 4400 else if code = 3 then 600 else 400
       let ok := 1 ≤ code ∧ code ≤ 4 ∧ steps ≤ s.fld (frmSlotC c 8) 31 0 ∧ (s.core c).tests.length < 4
       ∃ t, exec (.selftest k tag irq) s = .next t ∧ (¬ok → ends t .failed 2 0) ∧
         (ok → runs t .running ∧ (t.core c).tests = (s.core c).tests ++ [⟨code, .host k⟩])) ∧
      ∃ t, exec (.snapshot k tag irq) s = .next t ∧ ends t .done 0 7 ∧ (s.snap.length = 28 → ∀ i, i < 28 →
        s.snap[i]? = some (BitVec.ofNat 8 (bits (t.host.bar4.get (512 * k + 16 + i / 4) 0) (8 * (i % 4) + 7) (8 * (i % 4)))))) ∧
    (let c := s.cmd k
     (¬open' → exec (.abort k) s = .next s) ∧
     (open' → ∃ t, exec (.abort k) s = .next t ∧
       (c.busy = false → t.fld hstStat 39 20 = (s.fld hstStat 39 20 + 1) % 2 ^ 20 ∧ Touches [.regs] (s.assign .bar4) t) ∧
       (c.st = .queued → (t.cmd k).st = .aborted ∧ k.val ∉ t.host.flashQ) ∧
       (c.st = .running → c.op = 0x20 →
         let q := bits (c.args.getD 0 0) 6 0
         let mine (x : Test) : Prop := x.src = .host k
         (∃ x ∈ (s.core q).tests, mine x) → (∀ x ∈ (s.core q).running, ¬mine x) →
           (t.cmd k).st = .aborted ∧ ∀ x ∈ (t.core q).tests, ¬mine x) ∧
       (c.st = .running → c.op = 0x10 ∨ c.op = 0x11 ∨ c.op = 0x12 → t.cmd k = { c with abort := true }) ∧
       (c.st = .running → c.op = 0x01 ∨ c.op = 0x02 ∨ c.op = 0x03 → t = s.assign .bar4))) ∧
    ∀ e,
      let c := s.cmd k
      let a := (c.args.getD 0 0).toNat
      let n := (c.args.getD 1 0).toNat
      let now := c.st = .running ∧ s.host.flashQ.head? = some k.val
      let byte (t : State) (i : Nat) : Byte := t.flash.get i 0xFF
      (¬now → exec (.commandCompletion k e) s = .next s) ∧
      (now → ∃ t, exec (.commandCompletion k e) s = .next t ∧ (t.cmd k).tag = c.tag ∧
        (e = .finished → (t.cmd k).st = .done ∧ (t.cmd k).fail = 0 ∧ k.val ∉ t.host.flashQ ∧
          (c.irq = true → t.flag (hstIstat 0) k = true) ∧
          (c.op = 0x10 → t.flash = s.flash ∧ (t.cmd k).prog = (n + 3) / 4 ∧ ∀ i, i < n →
            byte s (a + i) = BitVec.ofNat 8 (bits (t.host.bar4.get (512 * k + 16 + i / 4) 0) (8 * (i % 4) + 7) (8 * (i % 4)))) ∧
          (c.op = 0x11 → (t.cmd k).prog = 0 ∧ (∀ i, i < n → byte t (a + i) = 0xFF) ∧
            ∀ i, i < a ∨ a + n ≤ i → byte t i = byte s i) ∧
          (c.op = 0x12 → c.data.length = 496 → n ≤ 1984 → (∀ i, i < n →
            byte t (a + i) = BitVec.ofNat 8 (bits (c.data.getD (i / 4) 0) (8 * (i % 4) + 7) (8 * (i % 4)))) ∧
            ∀ i, i < a ∨ a + n ≤ i → byte t i = byte s i)) ∧
        (e = .deviceError → (t.cmd k).st = .failed ∧ (t.cmd k).fail = 7 ∧ k.val ∉ t.host.flashQ ∧
          ∀ i, i < a ∨ a + n ≤ i → byte t i = byte s i) ∧
        (∀ u, e = .aborted u → c.abort = false → t = s) ∧
        (∀ u, e = .aborted u → c.abort = true → (t.cmd k).st = .aborted ∧ k.val ∉ t.host.flashQ))

/-! ### Swap, mirror commands, snapshots -/

/-- The swap, mirror and snapshot commands (R263 to R266, R281, R282, R291, R297, R299, R331, R332): ARM refuses a target not
in the future and a busy swap, else the check begins, whose end arms or refuses; CANCEL and COPY act only in their states; a
host drops, hands over or joins the pair, which R294 can refuse; a block read is answered, or NACKed without the PEC that it
needs. The register commands act from the state in which BAR0 is assigned (log entry 74); the PEC byte is that of log entry 89. -/
def Obligations.SwapMirrorAndSnapshotCommands : Prop :=
  ∀ (s : State),
    let open' := s.inReset = false ∧ s.flag clkStat 0 = true ∧ s.host.d3 = false
    let u := s.assign .bar0
    let follows := s.pair.role = .secondary ∨ s.pair.role = .standby
    let on (b : Nat) : Prop := s.flag cfgSwstat b = true
    let partner := s.pair.role = .primary ∧ s.pair.partner = true
    let refused (t : State) (why : Nat) : Prop := t.fld cfgSwstat 23 20 = why ∧ t.flag cfgSwstat 2 = true ∧
      t.flag (hstIstat 0) 24 = true ∧ ∀ b, b = 4 ∨ b = 5 ∨ b = 6 ∨ b = 7 → t.flag cfgSwstat b = s.flag cfgSwstat b
    (¬open' → exec .arm s = .next s ∧ exec .cancel s = .next s ∧ exec .copy s = .next s ∧ exec .mirDrop s = .next s ∧
      exec .mirHandover s = .next s ∧ exec .mirJoin s = .next s) ∧
    (open' → (∃ t, exec .arm s = .next t ∧ t.recto = s.recto ∧ t.verso = s.verso ∧
        (follows → t.fld mirCnt1 19 0 = (s.fld mirCnt1 19 0 + 1) % 2 ^ 20 ∧ Touches [.regs] u t) ∧
        (¬follows → s.fld cfgSwapf 39 0 ≤ s.frame → refused t 1) ∧
        (¬follows → s.frame < s.fld cfgSwapf 39 0 → on 4 ∨ on 5 ∨ on 6 ∨ on 7 → refused t 4) ∧
        (¬follows → s.frame < s.fld cfgSwapf 39 0 → ¬(on 4 ∨ on 5 ∨ on 6 ∨ on 7) → t.flag cfgSwstat 5 = true ∧
          (¬partner → Touches [.regs] u t) ∧
          (partner → s.fatal = false → s.pair.link = .up → s.pair.unacked = [] → t.pair.swapAck = none ∧
            t.lastSent ⟨s.pair.txSeq, s.frameByte, .swap (s.fld cfgSwapf 39 0) (s.setCrc s.shadow)⟩ s.ackOut))) ∧
      (∃ t, exec .cancel s = .next t ∧
        (on 4 ∨ on 5 → t.flag cfgSwstat 4 = false ∧ t.flag cfgSwstat 5 = false ∧ t.flag cfgSwstat 3 = true ∧
          t.flag (hstIstat 0) 24 = true) ∧ (¬(on 4 ∨ on 5) → refused t 5)) ∧
      (∃ t, exec .copy s = .next t ∧ (on 4 ∨ on 5 ∨ on 6 → refused t 5) ∧
        (¬(on 4 ∨ on 5 ∨ on 6) → t.flag cfgSwstat 7 = true ∧ Touches [.regs] u t)) ∧
      (∃ t, exec .mirDrop s = .next t ∧ (s.pairMode = false ∨ s.pair.role = .dropped → t = u) ∧
        (s.pairMode = true → s.pair.role ≠ .dropped → (t.pair.role = .dropped ∨ t.pair.role = .joining) ∧
          bit t.pair.health 5 = true ∧ t.flag (hstIstat 0) 26 = true ∧
          ∀ p, p < 4 → (t.port p).toSend = [] ∧ (t.port p).sending = none)) ∧
      (let h := s.fld mirHandf 39 0
       ∃ t, exec .mirHandover s = .next t ∧ (s.pairMode = false → t = u) ∧
         (s.pairMode = true → ¬(partner ∧ s.frame + 2 ≤ h) → t.fld mirWhy 39 32 = 9 ∧ t.pair.handFrame = s.pair.handFrame ∧
           t.flag (hstIstat 0) 26 = true) ∧
         (s.pairMode = true → partner → s.frame + 2 ≤ h → t.pair.handFrame = some h ∧ bit t.pair.health 5 = true ∧
           (s.fatal = false → s.pair.link = .up → s.pair.unacked = [] →
             t.lastSent ⟨s.pair.txSeq, s.frameByte, .handover h⟩ s.ackOut))) ∧
      ∃ t, exec .mirJoin s = .next t ∧ (s.pair.role ≠ .dropped → t = u) ∧
        (s.pair.role = .dropped → s.pair.link = .up → s.pair.identRx.bind s.refusal = none → t.pair.role = .joining) ∧
        (s.pair.role = .dropped → s.pair.link = .up → ∀ r, s.pair.identRx.bind s.refusal = some r →
          t.fld mirWhy 39 32 = r ∧ t.pair.role = .dropped ∧ t.pair.wantJoin = true) ∧
        (s.pair.role = .dropped → s.pair.link ≠ .up → t.pair.wantJoin = true ∧ t.pair.role = .dropped)) ∧
    (s.flag cfgSwstat 5 = false → exec .swapCheckComplete s = .next s) ∧
    (s.flag cfgSwstat 5 = true →
      let ok := s.tableOk s.shadow = true ∧ (partner → s.pair.swapAck = some true)
      ∃ t, exec .swapCheckComplete s = .next t ∧ t.flag cfgSwstat 5 = false ∧ (ok → t.flag cfgSwstat 4 = true ∧
        Touches [.regs] s t) ∧ (¬ok → t.fld cfgSwstat 23 20 = 2 ∧ t.flag cfgSwstat 2 = true ∧
        t.flag cfgSwstat 4 = s.flag cfgSwstat 4 ∧ t.flag (hstIstat 0) 24 = true)) ∧
    (s.flag cfgSwstat 7 = false → exec .copyComplete s = .next s) ∧
    (s.flag cfgSwstat 7 = true → ∃ t, exec .copyComplete s = .next t ∧ t.shadow = s.active ∧ t.active = s.active ∧
      t.flag cfgSwstat 7 = false ∧ Touches [.regs, .recto, .verso] s t) ∧
    (s.clk.running = false → exec .snapshotBuild s = .next s) ∧
    (s.clk.running = true → ∃ t, exec .snapshotBuild s = .next t ∧ Touches [.regs, .snap] s t ∧ t.snap.length = 28 ∧
      let at' (off n : Nat) : Nat := leNat ((t.snap.drop off).take n)
      let seq := (s.fld mgtStat 31 16 + 1) % 2 ^ 16
      t.fld mgtStat 31 16 = seq ∧ at' 0 2 = seq ∧ at' 2 4 = (if s.frm.started then s.frame else 0xFFFFFFFF) % 2 ^ 32 ∧
        at' 6 1 = s.fld cfgStat 31 28 + 16 * s.sealed.toNat + 32 * (s.flag cfgStat 24).toNat + 64 * s.faultN.toNat +
          128 * (s.flag cfgStat 23).toNat ∧
        at' 9 2 = s.fld agePlan 39 28 ∧ at' 11 2 = s.fld agePlan 27 18 ∧ at' 13 2 = s.fld ageHead 19 10 ∧
        at' 18 2 = s.fld devTemp 15 0 ∧ at' 24 2 = s.fld errSum 15 0) ∧
    ∀ pec,
      let nacked := s.flag mgtCtl 7 = true ∧ pec ≠ .correct
      let answered (i : Instr) (code : Nat) (bs : List Byte) : Prop :=
        (s.inReset = true → exec i s = .next s) ∧
        (s.inReset = false → ∃ t, exec i s = .next t ∧ Touches [.out, .regs] s t ∧
          (nacked → t.out = .smbusNack :: s.out ∧ t.fld mgtStat 15 8 = (s.fld mgtStat 15 8 + 1) % 256) ∧
          (¬nacked → t.out = .block bs (blockPec (s.fld mgtCtl 6 0) code bs) :: s.out ∧ t.fld mgtStat 7 0 = (s.fld mgtStat 7 0 + 1) % 256))
      answered (.smbusSnapshot pec) 1 s.snap ∧
        ∃ bs, answered (.smbusIdentity pec) 2 bs ∧ bs.length = 16 ∧ leNat (bs.take 4) = s.fld devId 31 0 ∧
          leNat ((bs.drop 4).take 4) = s.fld cfgImgid 31 0 ∧ bs[8]? = some (BitVec.ofNat 8 (s.fld cfgImgid 39 32)) ∧
          bs[9]? = some (BitVec.ofNat 8 s.pair.ownId.toNat) ∧ leNat ((bs.drop 10).take 5) = (s.active.get 0 0).toNat

/-! ### Reset, and an entry undone -/

/-- Right after reset every register holds its Reset column, FRM_COUNT is 0 and no frame has begun, the part is not sealed and
not in a role, each core has no slot open and CORE_MODE 11, each tenant is at the user level of the S-world with CPRI 16 and
DEPTH 0, no command waits, and memory is in canonical form. What no rule gives (contexts and memory 0) is the model's choice,
log entries 1 and 2. -/
def Obligations.ResetValues : Prop :=
  let s := State.reset
  s.wf = true ∧ s.pending = [] ∧ (∀ r, s.reg r = resetVal r) ∧ s.frame = 0 ∧ s.frm.started = false ∧ s.sealed = false ∧
    s.fld cfgStat 31 28 = 0 ∧ s.pair.role = .none ∧ s.pair.link = .down ∧ s.clk.running = false ∧ s.faultN = true ∧
    (∀ c : CoreId, s.fld (coreMode c) 3 0 = 11 ∧ (s.core c).phase = .closed ∧ (s.core c).slot = 15) ∧
    (∀ t, t < 1024 → s.level t = 0 ∧ s.fld (evtTctx t) 36 32 = 16 ∧ s.fld (evtTctx t) 27 24 = 0 ∧
      s.fld (frmTstat t) 39 37 = 0 ∧ s.fld (frmTstat t) 19 0 = 0xFFFFF) ∧
    (∀ n, n < 136 → s.age.code n = 0x20) ∧ (∀ t n, s.sock t n = 0) ∧ ∀ a, s.peek a = 0

/-- An ERET undoes an entry (R199, R212, R213, R215): where a trap or an event has been entered and the handler's last word,
an ERET alone, issues with the frame and the tenant's control registers as the entry left them, FLG, IMM, LINK's address, the
predicates, the level, CPRI, TOPSEG and DEPTH are those before the entry, and the next word is the one that the entry put off.
-/
def Obligations.EretUndoesEntry : Prop :=
  ∀ (c : CoreId) (held : Nat) (i : Instr) (s t u v : State) (r : Ready) (m : Move) (w : Word),
    let T := s.tenant c
    let tc := evtTctx T
    i = .trapAcceptance c held ∨ i = .eventAcceptance c held → exec i s = .next t → s.check = [] → (s.core c).tenant < 8 →
    (s.core c).gathers = [] → (s.core c).dsu = none →
    s.flag tc 38 = s.flag tc 39 → t.fld tc 27 24 = s.fld tc 27 24 + 1 →
    u.tenant c = T → u.reg tc = t.reg tc → (∀ q, 0x40000 ≤ q → q < 0x48000 → u.reg q = t.reg q) →
    (∀ a, u.peek a = t.peek a) → u.check = [] → (u.core c).buffer = [] → (u.core c).retired = [] → u.populated c T →
    (u.core c).gathers = [] → (u.core c).dsu = none →
    prepare (issues (.ctl .eret)) c u = .ready r → r.vs = [(m, some w)] → sockOf m.mv.dst.toNat = .trig (.ctl .eret) →
    exec (.eret c) u = .next v →
    v.sock T 0x22 = s.sock T 0x22 &&& 0x7F ∧ v.sock T 0x20 = s.sock T 0x20 ∧
      bits (v.sock T 0x30) 23 0 = bits (s.sock T 0x30) 23 0 ∧
      (∀ j, j < 8 → bit (v.sock T (0x380 + j)) 0 = bit (s.sock T (0x380 + j)) 0) ∧ (v.core c).pc = (s.core c).retpc ∧
      v.level T = s.level T ∧ v.fld tc 36 32 = s.fld tc 36 32 ∧ v.fld tc 31 28 = s.fld tc 31 28 ∧
      v.fld tc 27 24 = s.fld tc 27 24 ∧ v.fld tc 39 39 = s.fld tc 39 39
end

