-- ==== Sys2Proof/Laws/Bits.lean ====
section
/-!
SUPPORT. The laws of bit fields: reading a field or a bit after writing one.
-/
namespace Sys2Proof.Machine
set_option Elab.async false

theorem bits_lt {n : Nat} (w : BitVec n) (hi lo : Nat) : bits w hi lo < 2 ^ (hi + 1 - lo) := Nat.mod_lt _ (Nat.two_pow_pos _)

/-- A bit of a number that fits its width. -/
theorem testBit_of_lt {x n i : Nat} (h : x < 2 ^ n) (hi : n ≤ i) : x.testBit i = false :=
  Nat.testBit_lt_two_pow (Nat.lt_of_lt_of_le h (Nat.pow_le_pow_right (by omega) hi))

/-- The bits of a field. -/
theorem bits_testBit {n : Nat} (w : BitVec n) (hi lo i : Nat) :
    (bits w hi lo).testBit i = (decide (i < hi + 1 - lo) && w.getLsbD (lo + i)) := by
  simp [bits, Nat.testBit_mod_two_pow, Nat.testBit_shiftRight, BitVec.getLsbD]

theorem bit_eq {n : Nat} (w : BitVec n) (i : Nat) : bit w i = w.getLsbD i := rfl

/-- The bits of a word with a field replaced. -/
theorem putBits_getLsbD {n : Nat} (w : BitVec n) (hi lo v i : Nat) :
    (putBits w hi lo v).getLsbD i =
      (decide (i < n) && if lo ≤ i ∧ i < hi + 1 then v.testBit (i - lo) else w.getLsbD i) := by
  unfold putBits
  simp only [BitVec.getLsbD_or, BitVec.getLsbD_and, BitVec.getLsbD_not, BitVec.getLsbD_ofNat, Nat.testBit_shiftLeft,
    Nat.testBit_two_pow_sub_one]
  by_cases hn : i < n
  · by_cases h : lo ≤ i ∧ i < hi + 1
    · have h1 : decide (i - lo < hi + 1 - lo) = true := by simp; omega
      have h2 : lo ≤ i := h.1
      simp [hn, h2, h.2, h1]
    · have : ¬ (lo ≤ i ∧ i - lo < hi + 1 - lo) := by omega
      by_cases h2 : lo ≤ i
      · have h3 : ¬ i - lo < hi + 1 - lo := by omega
        have h4 : ¬ i < hi + 1 := by omega
        simp [hn, h2, h3, h4]
      · simp [hn, h2]
  · have : w.getLsbD i = false := BitVec.getLsbD_of_ge w i (by omega)
    simp [hn, this]

/-- A field reads what was written to it. -/
theorem bits_putBits_self {n : Nat} (w : BitVec n) {hi lo : Nat} (v : Nat) (h : hi < n) :
    bits (putBits w hi lo v) hi lo = v % 2 ^ (hi + 1 - lo) := by
  apply Nat.eq_of_testBit_eq
  intro i
  rw [bits_testBit, putBits_getLsbD, Nat.testBit_mod_two_pow]
  by_cases hi' : i < hi + 1 - lo
  · have h1 : lo + i < n := by omega
    have h2 : lo + i < hi + 1 := by omega
    simp [hi', h1, h2]
  · simp [hi']

/-- A field that does not meet the one written reads as before. -/
theorem bits_putBits_disj {n : Nat} (w : BitVec n) {hi lo hi' lo' : Nat} (v : Nat) (h : hi' < lo ∨ hi < lo') :
    bits (putBits w hi lo v) hi' lo' = bits w hi' lo' := by
  apply Nat.eq_of_testBit_eq
  intro i
  rw [bits_testBit, bits_testBit, putBits_getLsbD]
  by_cases hi2 : i < hi' + 1 - lo'
  · have : ¬ (lo ≤ lo' + i ∧ lo' + i < hi + 1) := by omega
    by_cases hn : lo' + i < n
    · rw [if_neg this, decide_eq_true hn, Bool.true_and]
    · have : w.getLsbD (lo' + i) = false := BitVec.getLsbD_of_ge w _ (by omega)
      simp [hn, this]
  · simp [hi2]

/-- A bit outside the field written reads as before. -/
theorem bit_putBits_disj {n : Nat} (w : BitVec n) {hi lo i : Nat} (v : Nat) (h : i < lo ∨ hi < i) :
    bit (putBits w hi lo v) i = bit w i := by
  rw [bit_eq, bit_eq, putBits_getLsbD]
  have : ¬ (lo ≤ i ∧ i < hi + 1) := by omega
  by_cases hn : i < n
  · rw [if_neg this, decide_eq_true hn, Bool.true_and]
  · have : w.getLsbD i = false := BitVec.getLsbD_of_ge w _ (by omega)
    simp [hn, this]

/-- A bit of the field written. -/
theorem bit_putBits_in {n : Nat} (w : BitVec n) {hi lo i : Nat} (v : Nat) (h1 : lo ≤ i) (h2 : i ≤ hi) (hn : i < n) :
    bit (putBits w hi lo v) i = v.testBit (i - lo) := by
  rw [bit_eq, putBits_getLsbD]
  have : i < hi + 1 := by omega
  simp [hn, h1, this]

@[simp] theorem bit_putBit_self {n : Nat} (w : BitVec n) {i : Nat} (b : Bool) (h : i < n) : bit (putBit w i b) i = b := by
  unfold putBit
  rw [bit_putBits_in w _ (Nat.le_refl i) (Nat.le_refl i) h]
  cases b <;> simp

theorem bit_putBit_ne {n : Nat} (w : BitVec n) {i j : Nat} (b : Bool) (h : j ≠ i) : bit (putBit w i b) j = bit w j :=
  bit_putBits_disj w _ (by omega)

theorem bits_putBit_disj {n : Nat} (w : BitVec n) {hi lo i : Nat} (b : Bool) (h : hi < i ∨ i < lo) :
    bits (putBit w i b) hi lo = bits w hi lo :=
  bits_putBits_disj w _ (by omega)

@[simp] theorem bits_zero {n : Nat} (hi lo : Nat) : bits (0 : BitVec n) hi lo = 0 := by simp [bits]

@[simp] theorem bit_zero {n : Nat} (i : Nat) : bit (0 : BitVec n) i = false := by simp [bit]

/-- A number in a list of consecutive ones. -/
@[simp] theorem mem_range {a n x : Nat} : x ∈ range a n ↔ a ≤ x ∧ x < a + n := by
  induction n generalizing a with
  | zero => simp [range]
  | succ n ih => simp only [range, List.mem_cons, ih]; omega

@[simp] theorem length_range (a n : Nat) : (range a n).length = n := by
  induction n generalizing a with
  | zero => rfl
  | succ n ih => simp [range, ih]

theorem getD_range (a n i d : Nat) (h : i < n) : (range a n).getD i d = a + i := by
  induction n generalizing a i with
  | zero => omega
  | succ n ih =>
    cases i with
    | zero => simp [range]
    | succ i =>
      have := ih (a + 1) i (by omega)
      simp only [range, List.getD_cons_succ, this]
      omega

end Sys2Proof.Machine
end

