-- ==== Sys2Proof/Laws/Map.lean ====
section
/-!
SUPPORT. The laws of sparse maps: reading after writing, and the canonical form.
-/
namespace Sys2Proof.Machine
set_option Elab.async false

variable {α : Type}

theorem Map.get_erase (m : Map α) (k j : Nat) (d : α) :
    Map.get (Map.erase m k) j d = if j = k then d else Map.get m j d := by
  induction m with
  | nil => simp [Map.erase, Map.get]
  | cons x m ih =>
    obtain ⟨a, v⟩ := x
    by_cases h : a = k
    · subst h
      simp only [Map.erase, ↓reduceIte, ih, Map.get]
      by_cases hj : j = a
      · simp [hj]
      · have : ¬ a = j := fun e => hj e.symm
        simp [hj, this]
    · simp only [Map.erase, h, ↓reduceIte, Map.get, ih]
      by_cases ha : a = j
      · subst ha
        simp [h]
      · simp [ha]

/-- A read of an erased key answers what an unlisted key reads as. -/
theorem Map.get_erase_self (m : Map α) (k : Nat) (d : α) : Map.get (Map.erase m k) k d = d := by
  simp [Map.get_erase]

theorem Map.above_trans {j k : Nat} (h : j < k) (m : Map α) (hm : Map.above k m = true) : Map.above j m = true := by
  cases m with
  | nil => rfl
  | cons x m =>
    obtain ⟨a, v⟩ := x
    simp only [Map.above, decide_eq_true_eq] at hm ⊢
    omega

variable [DecidableEq α]

/-- A read after a write: the value at the key written, everything else as before. -/
theorem Map.get_set (m : Map α) (k j : Nat) (d v : α) :
    Map.get (Map.set m k d v) j d = if j = k then v else Map.get m j d := by
  induction m with
  | nil =>
    by_cases hv : v = d
    · simp only [Map.set, hv, ↓reduceIte, Map.get]
      split <;> rfl
    · simp only [Map.set, hv, ↓reduceIte, Map.get]
      by_cases hj : j = k
      · simp [hj]
      · have : ¬ k = j := fun e => hj e.symm
        simp [hj, this]
  | cons x m ih =>
    obtain ⟨a, w⟩ := x
    unfold Map.set
    by_cases ha : a = k
    · subst ha
      simp only [↓reduceIte]
      by_cases hv : v = d
      · simp only [hv, ↓reduceIte, Map.get_erase, Map.get]
        by_cases hj : j = a
        · simp [hj]
        · have : ¬ a = j := fun e => hj e.symm
          simp [hj, this]
      · simp only [hv, ↓reduceIte, Map.get]
        by_cases hj : j = a
        · simp [hj]
        · have : ¬ a = j := fun e => hj e.symm
          simp [hj, this]
    · simp only [ha, ↓reduceIte]
      by_cases hk : k < a
      · simp only [hk, ↓reduceIte]
        by_cases hv : v = d
        · simp only [hv, ↓reduceIte, Map.get, Map.get_erase]
          by_cases hj : a = j
          · subst hj
            simp [ha]
          · simp [hj]
        · simp only [hv, ↓reduceIte, Map.get]
          by_cases hj : j = k
          · simp [hj]
          · have : ¬ k = j := fun e => hj e.symm
            simp [hj, this]
      · simp only [hk, ↓reduceIte, Map.get, ih]
        by_cases hj : a = j
        · subst hj
          simp [ha]
        · simp [hj]

theorem Map.get_set_self (m : Map α) (k : Nat) (d v : α) : Map.get (Map.set m k d v) k d = v := by
  simp [Map.get_set]

/-- Another key reads as before, whatever an unlisted key reads as. -/
theorem Map.get_set_ne (m : Map α) (d e v : α) {k j : Nat} (h : j ≠ k) :
    Map.get (Map.set m k d v) j e = Map.get m j e := by
  have hne : ¬ k = j := fun q => h q.symm
  induction m with
  | nil =>
    by_cases hv : v = d <;> simp [Map.set, hv, Map.get, hne]
  | cons x m ih =>
    obtain ⟨a, w⟩ := x
    unfold Map.set
    by_cases ha : a = k
    · subst ha
      by_cases hv : v = d <;> simp [hv, Map.get, hne, Map.get_erase, h]
    · by_cases hk : k < a
      · by_cases hv : v = d <;> simp [ha, hk, hv, Map.get, hne, Map.get_erase, h]
      · simp [ha, hk, Map.get, ih]

theorem Map.wf_above_erase (d : α) (k j : Nat) (m : Map α) (hm : Map.wf d m = true) (ha : Map.above j m = true) :
    Map.above j (Map.erase m k) = true ∧ Map.wf d (Map.erase m k) = true := by
  induction m generalizing j with
  | nil => exact ⟨rfl, rfl⟩
  | cons x m ih =>
    obtain ⟨a, v⟩ := x
    simp only [Map.wf, Bool.and_eq_true, decide_eq_true_eq] at hm
    obtain ⟨⟨hv, hab⟩, hw⟩ := hm
    simp only [Map.above, decide_eq_true_eq] at ha
    by_cases h : a = k
    · simp only [Map.erase, h, ↓reduceIte]
      exact ih j hw (Map.above_trans (by omega) m (h ▸ hab))
    · simp only [Map.erase, h, ↓reduceIte]
      have := ih a hw hab
      refine ⟨by simp [Map.above, ha], ?_⟩
      simp [Map.wf, hv, this.1, this.2]

/-- Erasing a key keeps the canonical form. -/
theorem Map.wf_erase (d : α) (k : Nat) (m : Map α) (hm : Map.wf d m = true) : Map.wf d (Map.erase m k) = true := by
  cases m with
  | nil => rfl
  | cons x m =>
    obtain ⟨a, v⟩ := x
    simp only [Map.wf, Bool.and_eq_true, decide_eq_true_eq] at hm
    obtain ⟨⟨hv, hab⟩, hw⟩ := hm
    by_cases h : a = k
    · simp only [Map.erase, h, ↓reduceIte]
      exact (Map.wf_above_erase d k a m hw hab |>.2) |> (h ▸ ·)
    · simp only [Map.erase, h, ↓reduceIte]
      have := Map.wf_above_erase d k a m hw hab
      simp [Map.wf, hv, this.1, this.2]

theorem Map.above_set (d v : α) {k j : Nat} (m : Map α) (hk : j < k) (hm : Map.wf d m = true)
    (ha : Map.above j m = true) : Map.above j (Map.set m k d v) = true := by
  cases m with
  | nil =>
    by_cases hv : v = d <;> simp [Map.set, hv, Map.above, hk]
  | cons x m =>
    obtain ⟨a, w⟩ := x
    have ha' : j < a := by simpa [Map.above] using ha
    unfold Map.set
    by_cases h : a = k
    · simp only [h, ↓reduceIte]
      by_cases hv : v = d
      · simp only [hv, ↓reduceIte]
        simp only [Map.wf, Bool.and_eq_true, decide_eq_true_eq] at hm
        exact (Map.wf_above_erase d k j m hm.2 (Map.above_trans ha' m hm.1.2)).1
      · simp [hv, Map.above, hk]
    · simp only [h, ↓reduceIte]
      by_cases hlt : k < a
      · by_cases hv : v = d <;> simp [hlt, hv, Map.above, hk, ha']
      · simp [hlt, Map.above, ha']

/-- A write keeps the canonical form. -/
theorem Map.wf_set (d v : α) (k : Nat) (m : Map α) (hm : Map.wf d m = true) : Map.wf d (Map.set m k d v) = true := by
  induction m with
  | nil =>
    by_cases hv : v = d <;> simp [Map.set, hv, Map.wf, Map.above]
  | cons x m ih =>
    obtain ⟨a, w⟩ := x
    have hm' := hm
    simp only [Map.wf, Bool.and_eq_true, decide_eq_true_eq] at hm
    obtain ⟨⟨hw, hab⟩, hwf⟩ := hm
    unfold Map.set
    by_cases h : a = k
    · subst h
      simp only [↓reduceIte]
      by_cases hv : v = d
      · simp only [hv, ↓reduceIte]
        exact Map.wf_erase d a m hwf
      · simp [hv, Map.wf, hab, hwf]
    · simp only [h, ↓reduceIte]
      by_cases hlt : k < a
      · simp only [hlt, ↓reduceIte]
        by_cases hv : v = d
        · simp only [hv, ↓reduceIte]
          have := Map.wf_above_erase d k a m hwf hab
          simp [Map.wf, hw, this.1, this.2]
        · have hka : Map.above k ((a, w) :: m) = true := by simp [Map.above, hlt]
          simp only [hv, ↓reduceIte, Map.wf, hwf, hab, hka, ne_eq, not_false_eq_true, decide_true, Bool.and_self, hw]
      · have hka : a < k := by omega
        simp only [hlt, ↓reduceIte]
        simp [Map.wf, hw, ih hwf, Map.above_set d v m hka hwf hab]

/-- Writing what a key reads as already changes no read. -/
theorem Map.get_set_get (m : Map α) (k j : Nat) (d : α) : Map.get (Map.set m k d (Map.get m k d)) j d = Map.get m j d := by
  rw [Map.get_set]
  split
  · next h => rw [h]
  · rfl

end Sys2Proof.Machine
end

