-- ==== Sys2Proof/Laws/Regs.lean ====
section
/-!
SUPPORT. The laws of the register file: what a register, a field and a flag read after one was written.
-/
namespace Sys2Proof.Machine
set_option Elab.async false

/-- A register read after a register write. -/
theorem State.reg_setReg (s : State) (r q : Nat) (v : Word) :
    (s.setReg r v).reg q = if q = r then v else s.reg q := by
  by_cases h : q = r
  · subst h
    simp [State.reg, State.setReg, Map.get_set_self]
  · simp [State.reg, State.setReg, Map.get_set_ne _ _ _ _ h, h]

@[simp] theorem State.reg_setReg_self (s : State) (r : Nat) (v : Word) : (s.setReg r v).reg r = v := by
  simp [State.reg_setReg]

theorem State.reg_setReg_ne (s : State) {r q : Nat} (v : Word) (h : q ≠ r) : (s.setReg r v).reg q = s.reg q := by
  simp [State.reg_setReg, h]

theorem State.reg_setFld (s : State) (r q hi lo v : Nat) :
    (s.setFld r hi lo v).reg q = if q = r then putBits (s.reg r) hi lo v else s.reg q := s.reg_setReg r q _

theorem State.reg_setFlag (s : State) (r q b : Nat) (v : Bool) :
    (s.setFlag r b v).reg q = if q = r then putBit (s.reg r) b v else s.reg q := s.reg_setReg r q _

theorem State.reg_count (s : State) (r q hi lo n : Nat) :
    (s.count r hi lo n).reg q = if q = r then putBits (s.reg r) hi lo (s.fld r hi lo + n) else s.reg q :=
  s.reg_setFld r q hi lo _

/-- A field reads what was written to it. -/
theorem State.fld_setFld_self (s : State) (r : Nat) {hi lo : Nat} (v : Nat) (h : hi < 40) :
    (s.setFld r hi lo v).fld r hi lo = v % 2 ^ (hi + 1 - lo) := by
  simp [State.fld, State.reg_setFld, bits_putBits_self _ _ h]

/-- Another field of a register reads as before. -/
theorem State.fld_setFld_disj (s : State) (r q : Nat) {hi lo hi' lo' : Nat} (v : Nat) (h : hi' < lo ∨ hi < lo') :
    (s.setFld r hi lo v).fld q hi' lo' = s.fld q hi' lo' := by
  by_cases hq : q = r
  · subst hq
    simp [State.fld, State.reg_setFld, bits_putBits_disj _ _ h]
  · simp [State.fld, State.reg_setFld, hq]

/-- A field of another register reads as before. -/
theorem State.fld_setFld_ne (s : State) {r q : Nat} (hi lo hi' lo' v : Nat) (h : q ≠ r) :
    (s.setFld r hi lo v).fld q hi' lo' = s.fld q hi' lo' := by
  simp [State.fld, State.reg_setFld, h]

/-- A flag reads what was written to it. -/
theorem State.flag_setFlag_self (s : State) (r : Nat) {b : Nat} (v : Bool) (h : b < 40) :
    (s.setFlag r b v).flag r b = v := by
  simp [State.flag, State.reg_setFlag, h]

/-- Another flag reads as before. -/
theorem State.flag_setFlag_ne (s : State) {r q b b' : Nat} (v : Bool) (h : q ≠ r ∨ b' ≠ b) :
    (s.setFlag r b v).flag q b' = s.flag q b' := by
  by_cases hq : q = r
  · subst hq
    simp [State.flag, State.reg_setFlag, bit_putBit_ne _ _ (h.resolve_left (fun k => k rfl))]
  · simp [State.flag, State.reg_setFlag, hq]

/-- A flag of another register, or outside the field, reads as before. -/
theorem State.flag_setFld_disj (s : State) (r q : Nat) {hi lo b : Nat} (v : Nat) (h : q ≠ r ∨ b < lo ∨ hi < b) :
    (s.setFld r hi lo v).flag q b = s.flag q b := by
  by_cases hq : q = r
  · subst hq
    simp [State.flag, State.reg_setFld, bit_putBits_disj _ _ (h.resolve_left (fun k => k rfl))]
  · simp [State.flag, State.reg_setFld, hq]

/-- A field that does not hold the flag written reads as before. -/
theorem State.fld_setFlag_disj (s : State) (r q : Nat) {hi lo b : Nat} (v : Bool) (h : q ≠ r ∨ hi < b ∨ b < lo) :
    (s.setFlag r b v).fld q hi lo = s.fld q hi lo := by
  by_cases hq : q = r
  · subst hq
    simp [State.fld, State.reg_setFlag, bits_putBit_disj _ _ (h.resolve_left (fun k => k rfl))]
  · simp [State.fld, State.reg_setFlag, hq]

/-- A counter field counts, modulo its width. -/
theorem State.fld_count_self (s : State) (r : Nat) {hi lo : Nat} (n : Nat) (h : hi < 40) :
    (s.count r hi lo n).fld r hi lo = (s.fld r hi lo + n) % 2 ^ (hi + 1 - lo) :=
  s.fld_setFld_self r _ h

end Sys2Proof.Machine
end

