-- ==== Sys2Proof/Laws/State.lean ====
section
/-!
SUPPORT. What each update of the state leaves: one lemma for each field and each accessor that an update does not touch,
and the reads after a write.
-/
namespace Sys2Proof.Machine
set_option Elab.async false

/-! ### setReg -/

@[simp] theorem State.setReg_pending (s : State) (r : Nat) (v : Word) : (s.setReg r v).pending = s.pending := rfl
@[simp] theorem State.setReg_free (s : State) (r : Nat) (v : Word) : (s.setReg r v).free = s.free := rfl
@[simp] theorem State.setReg_out (s : State) (r : Nat) (v : Word) : (s.setReg r v).out = s.out := rfl
@[simp] theorem State.setReg_pins (s : State) (r : Nat) (v : Word) : (s.setReg r v).pins = s.pins := rfl
@[simp] theorem State.setReg_lv (s : State) (r : Nat) (v : Word) : (s.setReg r v).lv = s.lv := rfl
@[simp] theorem State.setReg_recto (s : State) (r : Nat) (v : Word) : (s.setReg r v).recto = s.recto := rfl
@[simp] theorem State.setReg_verso (s : State) (r : Nat) (v : Word) : (s.setReg r v).verso = s.verso := rfl
@[simp] theorem State.setReg_mem (s : State) (r : Nat) (v : Word) : (s.setReg r v).mem = s.mem := rfl
@[simp] theorem State.setReg_check (s : State) (r : Nat) (v : Word) : (s.setReg r v).check = s.check := rfl
@[simp] theorem State.setReg_flash (s : State) (r : Nat) (v : Word) : (s.setReg r v).flash = s.flash := rfl
@[simp] theorem State.setReg_cores (s : State) (r : Nat) (v : Word) : (s.setReg r v).cores = s.cores := rfl
@[simp] theorem State.setReg_ctxs (s : State) (r : Nat) (v : Word) : (s.setReg r v).ctxs = s.ctxs := rfl
@[simp] theorem State.setReg_patch (s : State) (r : Nat) (v : Word) : (s.setReg r v).patch = s.patch := rfl
@[simp] theorem State.setReg_events (s : State) (r : Nat) (v : Word) : (s.setReg r v).events = s.events := rfl
@[simp] theorem State.setReg_deliver (s : State) (r : Nat) (v : Word) : (s.setReg r v).deliver = s.deliver := rfl
@[simp] theorem State.setReg_frm (s : State) (r : Nat) (v : Word) : (s.setReg r v).frm = s.frm := rfl
@[simp] theorem State.setReg_ldr (s : State) (r : Nat) (v : Word) : (s.setReg r v).ldr = s.ldr := rfl
@[simp] theorem State.setReg_pair (s : State) (r : Nat) (v : Word) : (s.setReg r v).pair = s.pair := rfl
@[simp] theorem State.setReg_age (s : State) (r : Nat) (v : Word) : (s.setReg r v).age = s.age := rfl
@[simp] theorem State.setReg_host (s : State) (r : Nat) (v : Word) : (s.setReg r v).host = s.host := rfl
@[simp] theorem State.setReg_snap (s : State) (r : Nat) (v : Word) : (s.setReg r v).snap = s.snap := rfl
@[simp] theorem State.setReg_ports (s : State) (r : Nat) (v : Word) : (s.setReg r v).ports = s.ports := rfl
@[simp] theorem State.setReg_timers (s : State) (r : Nat) (v : Word) : (s.setReg r v).timers = s.timers := rfl
@[simp] theorem State.setReg_clk (s : State) (r : Nat) (v : Word) : (s.setReg r v).clk = s.clk := rfl
@[simp] theorem State.setReg_peek (s : State) (r : Nat) (v : Word) (b' : Nat) :
    (s.setReg r v).peek b' = s.peek b' := rfl
@[simp] theorem State.setReg_bad (s : State) (r : Nat) (v : Word) (b' : Nat) :
    (s.setReg r v).bad b' = s.bad b' := rfl
@[simp] theorem State.setReg_core (s : State) (r : Nat) (v : Word) (d : Nat) :
    (s.setReg r v).core d = s.core d := rfl
@[simp] theorem State.setReg_tenant (s : State) (r : Nat) (v : Word) (d : Nat) :
    (s.setReg r v).tenant d = s.tenant d := rfl
@[simp] theorem State.setReg_ctx (s : State) (r : Nat) (v : Word) (u : Nat) :
    (s.setReg r v).ctx u = s.ctx u := rfl
@[simp] theorem State.setReg_sock (s : State) (r : Nat) (v : Word) (u m : Nat) :
    (s.setReg r v).sock u m = s.sock u m := rfl
@[simp] theorem State.setReg_port (s : State) (r : Nat) (v : Word) (p' : Nat) :
    (s.setReg r v).port p' = s.port p' := rfl
@[simp] theorem State.setReg_cmd (s : State) (r : Nat) (v : Word) (k' : Nat) :
    (s.setReg r v).cmd k' = s.cmd k' := rfl

/-! ### setFld -/

@[simp] theorem State.setFld_pending (s : State) (r hi lo v : Nat) : (s.setFld r hi lo v).pending = s.pending := rfl
@[simp] theorem State.setFld_free (s : State) (r hi lo v : Nat) : (s.setFld r hi lo v).free = s.free := rfl
@[simp] theorem State.setFld_out (s : State) (r hi lo v : Nat) : (s.setFld r hi lo v).out = s.out := rfl
@[simp] theorem State.setFld_pins (s : State) (r hi lo v : Nat) : (s.setFld r hi lo v).pins = s.pins := rfl
@[simp] theorem State.setFld_lv (s : State) (r hi lo v : Nat) : (s.setFld r hi lo v).lv = s.lv := rfl
@[simp] theorem State.setFld_recto (s : State) (r hi lo v : Nat) : (s.setFld r hi lo v).recto = s.recto := rfl
@[simp] theorem State.setFld_verso (s : State) (r hi lo v : Nat) : (s.setFld r hi lo v).verso = s.verso := rfl
@[simp] theorem State.setFld_mem (s : State) (r hi lo v : Nat) : (s.setFld r hi lo v).mem = s.mem := rfl
@[simp] theorem State.setFld_check (s : State) (r hi lo v : Nat) : (s.setFld r hi lo v).check = s.check := rfl
@[simp] theorem State.setFld_flash (s : State) (r hi lo v : Nat) : (s.setFld r hi lo v).flash = s.flash := rfl
@[simp] theorem State.setFld_cores (s : State) (r hi lo v : Nat) : (s.setFld r hi lo v).cores = s.cores := rfl
@[simp] theorem State.setFld_ctxs (s : State) (r hi lo v : Nat) : (s.setFld r hi lo v).ctxs = s.ctxs := rfl
@[simp] theorem State.setFld_patch (s : State) (r hi lo v : Nat) : (s.setFld r hi lo v).patch = s.patch := rfl
@[simp] theorem State.setFld_events (s : State) (r hi lo v : Nat) : (s.setFld r hi lo v).events = s.events := rfl
@[simp] theorem State.setFld_deliver (s : State) (r hi lo v : Nat) : (s.setFld r hi lo v).deliver = s.deliver := rfl
@[simp] theorem State.setFld_frm (s : State) (r hi lo v : Nat) : (s.setFld r hi lo v).frm = s.frm := rfl
@[simp] theorem State.setFld_ldr (s : State) (r hi lo v : Nat) : (s.setFld r hi lo v).ldr = s.ldr := rfl
@[simp] theorem State.setFld_pair (s : State) (r hi lo v : Nat) : (s.setFld r hi lo v).pair = s.pair := rfl
@[simp] theorem State.setFld_age (s : State) (r hi lo v : Nat) : (s.setFld r hi lo v).age = s.age := rfl
@[simp] theorem State.setFld_host (s : State) (r hi lo v : Nat) : (s.setFld r hi lo v).host = s.host := rfl
@[simp] theorem State.setFld_snap (s : State) (r hi lo v : Nat) : (s.setFld r hi lo v).snap = s.snap := rfl
@[simp] theorem State.setFld_ports (s : State) (r hi lo v : Nat) : (s.setFld r hi lo v).ports = s.ports := rfl
@[simp] theorem State.setFld_timers (s : State) (r hi lo v : Nat) : (s.setFld r hi lo v).timers = s.timers := rfl
@[simp] theorem State.setFld_clk (s : State) (r hi lo v : Nat) : (s.setFld r hi lo v).clk = s.clk := rfl
@[simp] theorem State.setFld_peek (s : State) (r hi lo v : Nat) (b' : Nat) :
    (s.setFld r hi lo v).peek b' = s.peek b' := rfl
@[simp] theorem State.setFld_bad (s : State) (r hi lo v : Nat) (b' : Nat) :
    (s.setFld r hi lo v).bad b' = s.bad b' := rfl
@[simp] theorem State.setFld_core (s : State) (r hi lo v : Nat) (d : Nat) :
    (s.setFld r hi lo v).core d = s.core d := rfl
@[simp] theorem State.setFld_tenant (s : State) (r hi lo v : Nat) (d : Nat) :
    (s.setFld r hi lo v).tenant d = s.tenant d := rfl
@[simp] theorem State.setFld_ctx (s : State) (r hi lo v : Nat) (u : Nat) :
    (s.setFld r hi lo v).ctx u = s.ctx u := rfl
@[simp] theorem State.setFld_sock (s : State) (r hi lo v : Nat) (u m : Nat) :
    (s.setFld r hi lo v).sock u m = s.sock u m := rfl
@[simp] theorem State.setFld_port (s : State) (r hi lo v : Nat) (p' : Nat) :
    (s.setFld r hi lo v).port p' = s.port p' := rfl
@[simp] theorem State.setFld_cmd (s : State) (r hi lo v : Nat) (k' : Nat) :
    (s.setFld r hi lo v).cmd k' = s.cmd k' := rfl

/-! ### setFlag -/

@[simp] theorem State.setFlag_pending (s : State) (r b : Nat) (v : Bool) : (s.setFlag r b v).pending = s.pending := rfl
@[simp] theorem State.setFlag_free (s : State) (r b : Nat) (v : Bool) : (s.setFlag r b v).free = s.free := rfl
@[simp] theorem State.setFlag_out (s : State) (r b : Nat) (v : Bool) : (s.setFlag r b v).out = s.out := rfl
@[simp] theorem State.setFlag_pins (s : State) (r b : Nat) (v : Bool) : (s.setFlag r b v).pins = s.pins := rfl
@[simp] theorem State.setFlag_lv (s : State) (r b : Nat) (v : Bool) : (s.setFlag r b v).lv = s.lv := rfl
@[simp] theorem State.setFlag_recto (s : State) (r b : Nat) (v : Bool) : (s.setFlag r b v).recto = s.recto := rfl
@[simp] theorem State.setFlag_verso (s : State) (r b : Nat) (v : Bool) : (s.setFlag r b v).verso = s.verso := rfl
@[simp] theorem State.setFlag_mem (s : State) (r b : Nat) (v : Bool) : (s.setFlag r b v).mem = s.mem := rfl
@[simp] theorem State.setFlag_check (s : State) (r b : Nat) (v : Bool) : (s.setFlag r b v).check = s.check := rfl
@[simp] theorem State.setFlag_flash (s : State) (r b : Nat) (v : Bool) : (s.setFlag r b v).flash = s.flash := rfl
@[simp] theorem State.setFlag_cores (s : State) (r b : Nat) (v : Bool) : (s.setFlag r b v).cores = s.cores := rfl
@[simp] theorem State.setFlag_ctxs (s : State) (r b : Nat) (v : Bool) : (s.setFlag r b v).ctxs = s.ctxs := rfl
@[simp] theorem State.setFlag_patch (s : State) (r b : Nat) (v : Bool) : (s.setFlag r b v).patch = s.patch := rfl
@[simp] theorem State.setFlag_events (s : State) (r b : Nat) (v : Bool) : (s.setFlag r b v).events = s.events := rfl
@[simp] theorem State.setFlag_deliver (s : State) (r b : Nat) (v : Bool) : (s.setFlag r b v).deliver = s.deliver := rfl
@[simp] theorem State.setFlag_frm (s : State) (r b : Nat) (v : Bool) : (s.setFlag r b v).frm = s.frm := rfl
@[simp] theorem State.setFlag_ldr (s : State) (r b : Nat) (v : Bool) : (s.setFlag r b v).ldr = s.ldr := rfl
@[simp] theorem State.setFlag_pair (s : State) (r b : Nat) (v : Bool) : (s.setFlag r b v).pair = s.pair := rfl
@[simp] theorem State.setFlag_age (s : State) (r b : Nat) (v : Bool) : (s.setFlag r b v).age = s.age := rfl
@[simp] theorem State.setFlag_host (s : State) (r b : Nat) (v : Bool) : (s.setFlag r b v).host = s.host := rfl
@[simp] theorem State.setFlag_snap (s : State) (r b : Nat) (v : Bool) : (s.setFlag r b v).snap = s.snap := rfl
@[simp] theorem State.setFlag_ports (s : State) (r b : Nat) (v : Bool) : (s.setFlag r b v).ports = s.ports := rfl
@[simp] theorem State.setFlag_timers (s : State) (r b : Nat) (v : Bool) : (s.setFlag r b v).timers = s.timers := rfl
@[simp] theorem State.setFlag_clk (s : State) (r b : Nat) (v : Bool) : (s.setFlag r b v).clk = s.clk := rfl
@[simp] theorem State.setFlag_peek (s : State) (r b : Nat) (v : Bool) (b' : Nat) :
    (s.setFlag r b v).peek b' = s.peek b' := rfl
@[simp] theorem State.setFlag_bad (s : State) (r b : Nat) (v : Bool) (b' : Nat) :
    (s.setFlag r b v).bad b' = s.bad b' := rfl
@[simp] theorem State.setFlag_core (s : State) (r b : Nat) (v : Bool) (d : Nat) :
    (s.setFlag r b v).core d = s.core d := rfl
@[simp] theorem State.setFlag_tenant (s : State) (r b : Nat) (v : Bool) (d : Nat) :
    (s.setFlag r b v).tenant d = s.tenant d := rfl
@[simp] theorem State.setFlag_ctx (s : State) (r b : Nat) (v : Bool) (u : Nat) :
    (s.setFlag r b v).ctx u = s.ctx u := rfl
@[simp] theorem State.setFlag_sock (s : State) (r b : Nat) (v : Bool) (u m : Nat) :
    (s.setFlag r b v).sock u m = s.sock u m := rfl
@[simp] theorem State.setFlag_port (s : State) (r b : Nat) (v : Bool) (p' : Nat) :
    (s.setFlag r b v).port p' = s.port p' := rfl
@[simp] theorem State.setFlag_cmd (s : State) (r b : Nat) (v : Bool) (k' : Nat) :
    (s.setFlag r b v).cmd k' = s.cmd k' := rfl

/-! ### count -/

@[simp] theorem State.count_pending (s : State) (r hi lo n : Nat) : (s.count r hi lo n).pending = s.pending := rfl
@[simp] theorem State.count_free (s : State) (r hi lo n : Nat) : (s.count r hi lo n).free = s.free := rfl
@[simp] theorem State.count_out (s : State) (r hi lo n : Nat) : (s.count r hi lo n).out = s.out := rfl
@[simp] theorem State.count_pins (s : State) (r hi lo n : Nat) : (s.count r hi lo n).pins = s.pins := rfl
@[simp] theorem State.count_lv (s : State) (r hi lo n : Nat) : (s.count r hi lo n).lv = s.lv := rfl
@[simp] theorem State.count_recto (s : State) (r hi lo n : Nat) : (s.count r hi lo n).recto = s.recto := rfl
@[simp] theorem State.count_verso (s : State) (r hi lo n : Nat) : (s.count r hi lo n).verso = s.verso := rfl
@[simp] theorem State.count_mem (s : State) (r hi lo n : Nat) : (s.count r hi lo n).mem = s.mem := rfl
@[simp] theorem State.count_check (s : State) (r hi lo n : Nat) : (s.count r hi lo n).check = s.check := rfl
@[simp] theorem State.count_flash (s : State) (r hi lo n : Nat) : (s.count r hi lo n).flash = s.flash := rfl
@[simp] theorem State.count_cores (s : State) (r hi lo n : Nat) : (s.count r hi lo n).cores = s.cores := rfl
@[simp] theorem State.count_ctxs (s : State) (r hi lo n : Nat) : (s.count r hi lo n).ctxs = s.ctxs := rfl
@[simp] theorem State.count_patch (s : State) (r hi lo n : Nat) : (s.count r hi lo n).patch = s.patch := rfl
@[simp] theorem State.count_events (s : State) (r hi lo n : Nat) : (s.count r hi lo n).events = s.events := rfl
@[simp] theorem State.count_deliver (s : State) (r hi lo n : Nat) : (s.count r hi lo n).deliver = s.deliver := rfl
@[simp] theorem State.count_frm (s : State) (r hi lo n : Nat) : (s.count r hi lo n).frm = s.frm := rfl
@[simp] theorem State.count_ldr (s : State) (r hi lo n : Nat) : (s.count r hi lo n).ldr = s.ldr := rfl
@[simp] theorem State.count_pair (s : State) (r hi lo n : Nat) : (s.count r hi lo n).pair = s.pair := rfl
@[simp] theorem State.count_age (s : State) (r hi lo n : Nat) : (s.count r hi lo n).age = s.age := rfl
@[simp] theorem State.count_host (s : State) (r hi lo n : Nat) : (s.count r hi lo n).host = s.host := rfl
@[simp] theorem State.count_snap (s : State) (r hi lo n : Nat) : (s.count r hi lo n).snap = s.snap := rfl
@[simp] theorem State.count_ports (s : State) (r hi lo n : Nat) : (s.count r hi lo n).ports = s.ports := rfl
@[simp] theorem State.count_timers (s : State) (r hi lo n : Nat) : (s.count r hi lo n).timers = s.timers := rfl
@[simp] theorem State.count_clk (s : State) (r hi lo n : Nat) : (s.count r hi lo n).clk = s.clk := rfl
@[simp] theorem State.count_peek (s : State) (r hi lo n : Nat) (b' : Nat) :
    (s.count r hi lo n).peek b' = s.peek b' := rfl
@[simp] theorem State.count_bad (s : State) (r hi lo n : Nat) (b' : Nat) :
    (s.count r hi lo n).bad b' = s.bad b' := rfl
@[simp] theorem State.count_core (s : State) (r hi lo n : Nat) (d : Nat) :
    (s.count r hi lo n).core d = s.core d := rfl
@[simp] theorem State.count_tenant (s : State) (r hi lo n : Nat) (d : Nat) :
    (s.count r hi lo n).tenant d = s.tenant d := rfl
@[simp] theorem State.count_ctx (s : State) (r hi lo n : Nat) (u : Nat) :
    (s.count r hi lo n).ctx u = s.ctx u := rfl
@[simp] theorem State.count_sock (s : State) (r hi lo n : Nat) (u m : Nat) :
    (s.count r hi lo n).sock u m = s.sock u m := rfl
@[simp] theorem State.count_port (s : State) (r hi lo n : Nat) (p' : Nat) :
    (s.count r hi lo n).port p' = s.port p' := rfl
@[simp] theorem State.count_cmd (s : State) (r hi lo n : Nat) (k' : Nat) :
    (s.count r hi lo n).cmd k' = s.cmd k' := rfl

/-! ### setCore -/

@[simp] theorem State.setCore_pending (s : State) (c : Nat) (k : Core) : (s.setCore c k).pending = s.pending := rfl
@[simp] theorem State.setCore_free (s : State) (c : Nat) (k : Core) : (s.setCore c k).free = s.free := rfl
@[simp] theorem State.setCore_out (s : State) (c : Nat) (k : Core) : (s.setCore c k).out = s.out := rfl
@[simp] theorem State.setCore_pins (s : State) (c : Nat) (k : Core) : (s.setCore c k).pins = s.pins := rfl
@[simp] theorem State.setCore_regs (s : State) (c : Nat) (k : Core) : (s.setCore c k).regs = s.regs := rfl
@[simp] theorem State.setCore_lv (s : State) (c : Nat) (k : Core) : (s.setCore c k).lv = s.lv := rfl
@[simp] theorem State.setCore_recto (s : State) (c : Nat) (k : Core) : (s.setCore c k).recto = s.recto := rfl
@[simp] theorem State.setCore_verso (s : State) (c : Nat) (k : Core) : (s.setCore c k).verso = s.verso := rfl
@[simp] theorem State.setCore_mem (s : State) (c : Nat) (k : Core) : (s.setCore c k).mem = s.mem := rfl
@[simp] theorem State.setCore_check (s : State) (c : Nat) (k : Core) : (s.setCore c k).check = s.check := rfl
@[simp] theorem State.setCore_flash (s : State) (c : Nat) (k : Core) : (s.setCore c k).flash = s.flash := rfl
@[simp] theorem State.setCore_ctxs (s : State) (c : Nat) (k : Core) : (s.setCore c k).ctxs = s.ctxs := rfl
@[simp] theorem State.setCore_patch (s : State) (c : Nat) (k : Core) : (s.setCore c k).patch = s.patch := rfl
@[simp] theorem State.setCore_events (s : State) (c : Nat) (k : Core) : (s.setCore c k).events = s.events := rfl
@[simp] theorem State.setCore_deliver (s : State) (c : Nat) (k : Core) : (s.setCore c k).deliver = s.deliver := rfl
@[simp] theorem State.setCore_frm (s : State) (c : Nat) (k : Core) : (s.setCore c k).frm = s.frm := rfl
@[simp] theorem State.setCore_ldr (s : State) (c : Nat) (k : Core) : (s.setCore c k).ldr = s.ldr := rfl
@[simp] theorem State.setCore_pair (s : State) (c : Nat) (k : Core) : (s.setCore c k).pair = s.pair := rfl
@[simp] theorem State.setCore_age (s : State) (c : Nat) (k : Core) : (s.setCore c k).age = s.age := rfl
@[simp] theorem State.setCore_host (s : State) (c : Nat) (k : Core) : (s.setCore c k).host = s.host := rfl
@[simp] theorem State.setCore_snap (s : State) (c : Nat) (k : Core) : (s.setCore c k).snap = s.snap := rfl
@[simp] theorem State.setCore_ports (s : State) (c : Nat) (k : Core) : (s.setCore c k).ports = s.ports := rfl
@[simp] theorem State.setCore_timers (s : State) (c : Nat) (k : Core) : (s.setCore c k).timers = s.timers := rfl
@[simp] theorem State.setCore_clk (s : State) (c : Nat) (k : Core) : (s.setCore c k).clk = s.clk := rfl
@[simp] theorem State.setCore_reg (s : State) (c : Nat) (k : Core) (q' : Nat) :
    (s.setCore c k).reg q' = s.reg q' := rfl
@[simp] theorem State.setCore_fld (s : State) (c : Nat) (k : Core) (q' i j : Nat) :
    (s.setCore c k).fld q' i j = s.fld q' i j := rfl
@[simp] theorem State.setCore_flag (s : State) (c : Nat) (k : Core) (q' i : Nat) :
    (s.setCore c k).flag q' i = s.flag q' i := rfl
@[simp] theorem State.setCore_peek (s : State) (c : Nat) (k : Core) (b' : Nat) :
    (s.setCore c k).peek b' = s.peek b' := rfl
@[simp] theorem State.setCore_bad (s : State) (c : Nat) (k : Core) (b' : Nat) :
    (s.setCore c k).bad b' = s.bad b' := rfl
@[simp] theorem State.setCore_ctx (s : State) (c : Nat) (k : Core) (u : Nat) :
    (s.setCore c k).ctx u = s.ctx u := rfl
@[simp] theorem State.setCore_sock (s : State) (c : Nat) (k : Core) (u m : Nat) :
    (s.setCore c k).sock u m = s.sock u m := rfl
@[simp] theorem State.setCore_port (s : State) (c : Nat) (k : Core) (p' : Nat) :
    (s.setCore c k).port p' = s.port p' := rfl
@[simp] theorem State.setCore_cmd (s : State) (c : Nat) (k : Core) (k' : Nat) :
    (s.setCore c k).cmd k' = s.cmd k' := rfl
@[simp] theorem State.setCore_level (s : State) (c : Nat) (k : Core) (u : Nat) :
    (s.setCore c k).level u = s.level u := rfl
@[simp] theorem State.setCore_det (s : State) (c : Nat) (k : Core) (d : Nat) :
    (s.setCore c k).det d = s.det d := rfl
@[simp] theorem State.setCore_frame (s : State) (c : Nat) (k : Core) :
    (s.setCore c k).frame = s.frame := rfl
@[simp] theorem State.setCore_offline (s : State) (c : Nat) (k : Core) (d : Nat) :
    (s.setCore c k).offline d = s.offline d := rfl
@[simp] theorem State.setCore_fatal (s : State) (c : Nat) (k : Core) :
    (s.setCore c k).fatal = s.fatal := rfl
@[simp] theorem State.setCore_sealed (s : State) (c : Nat) (k : Core) :
    (s.setCore c k).sealed = s.sealed := rfl
@[simp] theorem State.setCore_pairMode (s : State) (c : Nat) (k : Core) :
    (s.setCore c k).pairMode = s.pairMode := rfl
@[simp] theorem State.setCore_seg (s : State) (c : Nat) (k : Core) (u g : Nat) :
    (s.setCore c k).seg u g = s.seg u g := rfl
@[simp] theorem State.setCore_faultN (s : State) (c : Nat) (k : Core) :
    (s.setCore c k).faultN = s.faultN := rfl

/-! ### onCore -/

@[simp] theorem State.onCore_pending (s : State) (c : Nat) (f : Core → Core) : (s.onCore c f).pending = s.pending := rfl
@[simp] theorem State.onCore_free (s : State) (c : Nat) (f : Core → Core) : (s.onCore c f).free = s.free := rfl
@[simp] theorem State.onCore_out (s : State) (c : Nat) (f : Core → Core) : (s.onCore c f).out = s.out := rfl
@[simp] theorem State.onCore_pins (s : State) (c : Nat) (f : Core → Core) : (s.onCore c f).pins = s.pins := rfl
@[simp] theorem State.onCore_regs (s : State) (c : Nat) (f : Core → Core) : (s.onCore c f).regs = s.regs := rfl
@[simp] theorem State.onCore_lv (s : State) (c : Nat) (f : Core → Core) : (s.onCore c f).lv = s.lv := rfl
@[simp] theorem State.onCore_recto (s : State) (c : Nat) (f : Core → Core) : (s.onCore c f).recto = s.recto := rfl
@[simp] theorem State.onCore_verso (s : State) (c : Nat) (f : Core → Core) : (s.onCore c f).verso = s.verso := rfl
@[simp] theorem State.onCore_mem (s : State) (c : Nat) (f : Core → Core) : (s.onCore c f).mem = s.mem := rfl
@[simp] theorem State.onCore_check (s : State) (c : Nat) (f : Core → Core) : (s.onCore c f).check = s.check := rfl
@[simp] theorem State.onCore_flash (s : State) (c : Nat) (f : Core → Core) : (s.onCore c f).flash = s.flash := rfl
@[simp] theorem State.onCore_ctxs (s : State) (c : Nat) (f : Core → Core) : (s.onCore c f).ctxs = s.ctxs := rfl
@[simp] theorem State.onCore_patch (s : State) (c : Nat) (f : Core → Core) : (s.onCore c f).patch = s.patch := rfl
@[simp] theorem State.onCore_events (s : State) (c : Nat) (f : Core → Core) : (s.onCore c f).events = s.events := rfl
@[simp] theorem State.onCore_deliver (s : State) (c : Nat) (f : Core → Core) : (s.onCore c f).deliver = s.deliver := rfl
@[simp] theorem State.onCore_frm (s : State) (c : Nat) (f : Core → Core) : (s.onCore c f).frm = s.frm := rfl
@[simp] theorem State.onCore_ldr (s : State) (c : Nat) (f : Core → Core) : (s.onCore c f).ldr = s.ldr := rfl
@[simp] theorem State.onCore_pair (s : State) (c : Nat) (f : Core → Core) : (s.onCore c f).pair = s.pair := rfl
@[simp] theorem State.onCore_age (s : State) (c : Nat) (f : Core → Core) : (s.onCore c f).age = s.age := rfl
@[simp] theorem State.onCore_host (s : State) (c : Nat) (f : Core → Core) : (s.onCore c f).host = s.host := rfl
@[simp] theorem State.onCore_snap (s : State) (c : Nat) (f : Core → Core) : (s.onCore c f).snap = s.snap := rfl
@[simp] theorem State.onCore_ports (s : State) (c : Nat) (f : Core → Core) : (s.onCore c f).ports = s.ports := rfl
@[simp] theorem State.onCore_timers (s : State) (c : Nat) (f : Core → Core) : (s.onCore c f).timers = s.timers := rfl
@[simp] theorem State.onCore_clk (s : State) (c : Nat) (f : Core → Core) : (s.onCore c f).clk = s.clk := rfl
@[simp] theorem State.onCore_reg (s : State) (c : Nat) (f : Core → Core) (q' : Nat) :
    (s.onCore c f).reg q' = s.reg q' := rfl
@[simp] theorem State.onCore_fld (s : State) (c : Nat) (f : Core → Core) (q' i j : Nat) :
    (s.onCore c f).fld q' i j = s.fld q' i j := rfl
@[simp] theorem State.onCore_flag (s : State) (c : Nat) (f : Core → Core) (q' i : Nat) :
    (s.onCore c f).flag q' i = s.flag q' i := rfl
@[simp] theorem State.onCore_peek (s : State) (c : Nat) (f : Core → Core) (b' : Nat) :
    (s.onCore c f).peek b' = s.peek b' := rfl
@[simp] theorem State.onCore_bad (s : State) (c : Nat) (f : Core → Core) (b' : Nat) :
    (s.onCore c f).bad b' = s.bad b' := rfl
@[simp] theorem State.onCore_ctx (s : State) (c : Nat) (f : Core → Core) (u : Nat) :
    (s.onCore c f).ctx u = s.ctx u := rfl
@[simp] theorem State.onCore_sock (s : State) (c : Nat) (f : Core → Core) (u m : Nat) :
    (s.onCore c f).sock u m = s.sock u m := rfl
@[simp] theorem State.onCore_port (s : State) (c : Nat) (f : Core → Core) (p' : Nat) :
    (s.onCore c f).port p' = s.port p' := rfl
@[simp] theorem State.onCore_cmd (s : State) (c : Nat) (f : Core → Core) (k' : Nat) :
    (s.onCore c f).cmd k' = s.cmd k' := rfl
@[simp] theorem State.onCore_level (s : State) (c : Nat) (f : Core → Core) (u : Nat) :
    (s.onCore c f).level u = s.level u := rfl
@[simp] theorem State.onCore_det (s : State) (c : Nat) (f : Core → Core) (d : Nat) :
    (s.onCore c f).det d = s.det d := rfl
@[simp] theorem State.onCore_frame (s : State) (c : Nat) (f : Core → Core) :
    (s.onCore c f).frame = s.frame := rfl
@[simp] theorem State.onCore_offline (s : State) (c : Nat) (f : Core → Core) (d : Nat) :
    (s.onCore c f).offline d = s.offline d := rfl
@[simp] theorem State.onCore_fatal (s : State) (c : Nat) (f : Core → Core) :
    (s.onCore c f).fatal = s.fatal := rfl
@[simp] theorem State.onCore_sealed (s : State) (c : Nat) (f : Core → Core) :
    (s.onCore c f).sealed = s.sealed := rfl
@[simp] theorem State.onCore_pairMode (s : State) (c : Nat) (f : Core → Core) :
    (s.onCore c f).pairMode = s.pairMode := rfl
@[simp] theorem State.onCore_seg (s : State) (c : Nat) (f : Core → Core) (u g : Nat) :
    (s.onCore c f).seg u g = s.seg u g := rfl
@[simp] theorem State.onCore_faultN (s : State) (c : Nat) (f : Core → Core) :
    (s.onCore c f).faultN = s.faultN := rfl

/-! ### setCtx -/

@[simp] theorem State.setCtx_pending (s : State) (t : Nat) (x : Ctx) : (s.setCtx t x).pending = s.pending := rfl
@[simp] theorem State.setCtx_free (s : State) (t : Nat) (x : Ctx) : (s.setCtx t x).free = s.free := rfl
@[simp] theorem State.setCtx_out (s : State) (t : Nat) (x : Ctx) : (s.setCtx t x).out = s.out := rfl
@[simp] theorem State.setCtx_pins (s : State) (t : Nat) (x : Ctx) : (s.setCtx t x).pins = s.pins := rfl
@[simp] theorem State.setCtx_regs (s : State) (t : Nat) (x : Ctx) : (s.setCtx t x).regs = s.regs := rfl
@[simp] theorem State.setCtx_lv (s : State) (t : Nat) (x : Ctx) : (s.setCtx t x).lv = s.lv := rfl
@[simp] theorem State.setCtx_recto (s : State) (t : Nat) (x : Ctx) : (s.setCtx t x).recto = s.recto := rfl
@[simp] theorem State.setCtx_verso (s : State) (t : Nat) (x : Ctx) : (s.setCtx t x).verso = s.verso := rfl
@[simp] theorem State.setCtx_mem (s : State) (t : Nat) (x : Ctx) : (s.setCtx t x).mem = s.mem := rfl
@[simp] theorem State.setCtx_check (s : State) (t : Nat) (x : Ctx) : (s.setCtx t x).check = s.check := rfl
@[simp] theorem State.setCtx_flash (s : State) (t : Nat) (x : Ctx) : (s.setCtx t x).flash = s.flash := rfl
@[simp] theorem State.setCtx_cores (s : State) (t : Nat) (x : Ctx) : (s.setCtx t x).cores = s.cores := rfl
@[simp] theorem State.setCtx_patch (s : State) (t : Nat) (x : Ctx) : (s.setCtx t x).patch = s.patch := rfl
@[simp] theorem State.setCtx_events (s : State) (t : Nat) (x : Ctx) : (s.setCtx t x).events = s.events := rfl
@[simp] theorem State.setCtx_deliver (s : State) (t : Nat) (x : Ctx) : (s.setCtx t x).deliver = s.deliver := rfl
@[simp] theorem State.setCtx_frm (s : State) (t : Nat) (x : Ctx) : (s.setCtx t x).frm = s.frm := rfl
@[simp] theorem State.setCtx_ldr (s : State) (t : Nat) (x : Ctx) : (s.setCtx t x).ldr = s.ldr := rfl
@[simp] theorem State.setCtx_pair (s : State) (t : Nat) (x : Ctx) : (s.setCtx t x).pair = s.pair := rfl
@[simp] theorem State.setCtx_age (s : State) (t : Nat) (x : Ctx) : (s.setCtx t x).age = s.age := rfl
@[simp] theorem State.setCtx_host (s : State) (t : Nat) (x : Ctx) : (s.setCtx t x).host = s.host := rfl
@[simp] theorem State.setCtx_snap (s : State) (t : Nat) (x : Ctx) : (s.setCtx t x).snap = s.snap := rfl
@[simp] theorem State.setCtx_ports (s : State) (t : Nat) (x : Ctx) : (s.setCtx t x).ports = s.ports := rfl
@[simp] theorem State.setCtx_timers (s : State) (t : Nat) (x : Ctx) : (s.setCtx t x).timers = s.timers := rfl
@[simp] theorem State.setCtx_clk (s : State) (t : Nat) (x : Ctx) : (s.setCtx t x).clk = s.clk := rfl
@[simp] theorem State.setCtx_reg (s : State) (t : Nat) (x : Ctx) (q' : Nat) :
    (s.setCtx t x).reg q' = s.reg q' := rfl
@[simp] theorem State.setCtx_fld (s : State) (t : Nat) (x : Ctx) (q' i j : Nat) :
    (s.setCtx t x).fld q' i j = s.fld q' i j := rfl
@[simp] theorem State.setCtx_flag (s : State) (t : Nat) (x : Ctx) (q' i : Nat) :
    (s.setCtx t x).flag q' i = s.flag q' i := rfl
@[simp] theorem State.setCtx_peek (s : State) (t : Nat) (x : Ctx) (b' : Nat) :
    (s.setCtx t x).peek b' = s.peek b' := rfl
@[simp] theorem State.setCtx_bad (s : State) (t : Nat) (x : Ctx) (b' : Nat) :
    (s.setCtx t x).bad b' = s.bad b' := rfl
@[simp] theorem State.setCtx_core (s : State) (t : Nat) (x : Ctx) (d : Nat) :
    (s.setCtx t x).core d = s.core d := rfl
@[simp] theorem State.setCtx_tenant (s : State) (t : Nat) (x : Ctx) (d : Nat) :
    (s.setCtx t x).tenant d = s.tenant d := rfl
@[simp] theorem State.setCtx_port (s : State) (t : Nat) (x : Ctx) (p' : Nat) :
    (s.setCtx t x).port p' = s.port p' := rfl
@[simp] theorem State.setCtx_cmd (s : State) (t : Nat) (x : Ctx) (k' : Nat) :
    (s.setCtx t x).cmd k' = s.cmd k' := rfl
@[simp] theorem State.setCtx_level (s : State) (t : Nat) (x : Ctx) (u : Nat) :
    (s.setCtx t x).level u = s.level u := rfl
@[simp] theorem State.setCtx_det (s : State) (t : Nat) (x : Ctx) (d : Nat) :
    (s.setCtx t x).det d = s.det d := rfl
@[simp] theorem State.setCtx_frame (s : State) (t : Nat) (x : Ctx) :
    (s.setCtx t x).frame = s.frame := rfl
@[simp] theorem State.setCtx_offline (s : State) (t : Nat) (x : Ctx) (d : Nat) :
    (s.setCtx t x).offline d = s.offline d := rfl
@[simp] theorem State.setCtx_fatal (s : State) (t : Nat) (x : Ctx) :
    (s.setCtx t x).fatal = s.fatal := rfl
@[simp] theorem State.setCtx_sealed (s : State) (t : Nat) (x : Ctx) :
    (s.setCtx t x).sealed = s.sealed := rfl
@[simp] theorem State.setCtx_pairMode (s : State) (t : Nat) (x : Ctx) :
    (s.setCtx t x).pairMode = s.pairMode := rfl
@[simp] theorem State.setCtx_seg (s : State) (t : Nat) (x : Ctx) (u g : Nat) :
    (s.setCtx t x).seg u g = s.seg u g := rfl
@[simp] theorem State.setCtx_faultN (s : State) (t : Nat) (x : Ctx) :
    (s.setCtx t x).faultN = s.faultN := rfl

/-! ### setSock -/

@[simp] theorem State.setSock_pending (s : State) (t n : Nat) (v : Word) : (s.setSock t n v).pending = s.pending := rfl
@[simp] theorem State.setSock_free (s : State) (t n : Nat) (v : Word) : (s.setSock t n v).free = s.free := rfl
@[simp] theorem State.setSock_out (s : State) (t n : Nat) (v : Word) : (s.setSock t n v).out = s.out := rfl
@[simp] theorem State.setSock_pins (s : State) (t n : Nat) (v : Word) : (s.setSock t n v).pins = s.pins := rfl
@[simp] theorem State.setSock_regs (s : State) (t n : Nat) (v : Word) : (s.setSock t n v).regs = s.regs := rfl
@[simp] theorem State.setSock_lv (s : State) (t n : Nat) (v : Word) : (s.setSock t n v).lv = s.lv := rfl
@[simp] theorem State.setSock_recto (s : State) (t n : Nat) (v : Word) : (s.setSock t n v).recto = s.recto := rfl
@[simp] theorem State.setSock_verso (s : State) (t n : Nat) (v : Word) : (s.setSock t n v).verso = s.verso := rfl
@[simp] theorem State.setSock_mem (s : State) (t n : Nat) (v : Word) : (s.setSock t n v).mem = s.mem := rfl
@[simp] theorem State.setSock_check (s : State) (t n : Nat) (v : Word) : (s.setSock t n v).check = s.check := rfl
@[simp] theorem State.setSock_flash (s : State) (t n : Nat) (v : Word) : (s.setSock t n v).flash = s.flash := rfl
@[simp] theorem State.setSock_cores (s : State) (t n : Nat) (v : Word) : (s.setSock t n v).cores = s.cores := rfl
@[simp] theorem State.setSock_patch (s : State) (t n : Nat) (v : Word) : (s.setSock t n v).patch = s.patch := rfl
@[simp] theorem State.setSock_events (s : State) (t n : Nat) (v : Word) : (s.setSock t n v).events = s.events := rfl
@[simp] theorem State.setSock_deliver (s : State) (t n : Nat) (v : Word) : (s.setSock t n v).deliver = s.deliver := rfl
@[simp] theorem State.setSock_frm (s : State) (t n : Nat) (v : Word) : (s.setSock t n v).frm = s.frm := rfl
@[simp] theorem State.setSock_ldr (s : State) (t n : Nat) (v : Word) : (s.setSock t n v).ldr = s.ldr := rfl
@[simp] theorem State.setSock_pair (s : State) (t n : Nat) (v : Word) : (s.setSock t n v).pair = s.pair := rfl
@[simp] theorem State.setSock_age (s : State) (t n : Nat) (v : Word) : (s.setSock t n v).age = s.age := rfl
@[simp] theorem State.setSock_host (s : State) (t n : Nat) (v : Word) : (s.setSock t n v).host = s.host := rfl
@[simp] theorem State.setSock_snap (s : State) (t n : Nat) (v : Word) : (s.setSock t n v).snap = s.snap := rfl
@[simp] theorem State.setSock_ports (s : State) (t n : Nat) (v : Word) : (s.setSock t n v).ports = s.ports := rfl
@[simp] theorem State.setSock_timers (s : State) (t n : Nat) (v : Word) : (s.setSock t n v).timers = s.timers := rfl
@[simp] theorem State.setSock_clk (s : State) (t n : Nat) (v : Word) : (s.setSock t n v).clk = s.clk := rfl
@[simp] theorem State.setSock_reg (s : State) (t n : Nat) (v : Word) (q' : Nat) :
    (s.setSock t n v).reg q' = s.reg q' := rfl
@[simp] theorem State.setSock_fld (s : State) (t n : Nat) (v : Word) (q' i j : Nat) :
    (s.setSock t n v).fld q' i j = s.fld q' i j := rfl
@[simp] theorem State.setSock_flag (s : State) (t n : Nat) (v : Word) (q' i : Nat) :
    (s.setSock t n v).flag q' i = s.flag q' i := rfl
@[simp] theorem State.setSock_peek (s : State) (t n : Nat) (v : Word) (b' : Nat) :
    (s.setSock t n v).peek b' = s.peek b' := rfl
@[simp] theorem State.setSock_bad (s : State) (t n : Nat) (v : Word) (b' : Nat) :
    (s.setSock t n v).bad b' = s.bad b' := rfl
@[simp] theorem State.setSock_core (s : State) (t n : Nat) (v : Word) (d : Nat) :
    (s.setSock t n v).core d = s.core d := rfl
@[simp] theorem State.setSock_tenant (s : State) (t n : Nat) (v : Word) (d : Nat) :
    (s.setSock t n v).tenant d = s.tenant d := rfl
@[simp] theorem State.setSock_port (s : State) (t n : Nat) (v : Word) (p' : Nat) :
    (s.setSock t n v).port p' = s.port p' := rfl
@[simp] theorem State.setSock_cmd (s : State) (t n : Nat) (v : Word) (k' : Nat) :
    (s.setSock t n v).cmd k' = s.cmd k' := rfl
@[simp] theorem State.setSock_level (s : State) (t n : Nat) (v : Word) (u : Nat) :
    (s.setSock t n v).level u = s.level u := rfl
@[simp] theorem State.setSock_det (s : State) (t n : Nat) (v : Word) (d : Nat) :
    (s.setSock t n v).det d = s.det d := rfl
@[simp] theorem State.setSock_frame (s : State) (t n : Nat) (v : Word) :
    (s.setSock t n v).frame = s.frame := rfl
@[simp] theorem State.setSock_offline (s : State) (t n : Nat) (v : Word) (d : Nat) :
    (s.setSock t n v).offline d = s.offline d := rfl
@[simp] theorem State.setSock_fatal (s : State) (t n : Nat) (v : Word) :
    (s.setSock t n v).fatal = s.fatal := rfl
@[simp] theorem State.setSock_sealed (s : State) (t n : Nat) (v : Word) :
    (s.setSock t n v).sealed = s.sealed := rfl
@[simp] theorem State.setSock_pairMode (s : State) (t n : Nat) (v : Word) :
    (s.setSock t n v).pairMode = s.pairMode := rfl
@[simp] theorem State.setSock_seg (s : State) (t n : Nat) (v : Word) (u g : Nat) :
    (s.setSock t n v).seg u g = s.seg u g := rfl
@[simp] theorem State.setSock_faultN (s : State) (t n : Nat) (v : Word) :
    (s.setSock t n v).faultN = s.faultN := rfl

/-! ### spend -/

@[simp] theorem State.spend_pending (s : State) : (s.spend).pending = s.pending := rfl
@[simp] theorem State.spend_out (s : State) : (s.spend).out = s.out := rfl
@[simp] theorem State.spend_pins (s : State) : (s.spend).pins = s.pins := rfl
@[simp] theorem State.spend_regs (s : State) : (s.spend).regs = s.regs := rfl
@[simp] theorem State.spend_lv (s : State) : (s.spend).lv = s.lv := rfl
@[simp] theorem State.spend_recto (s : State) : (s.spend).recto = s.recto := rfl
@[simp] theorem State.spend_verso (s : State) : (s.spend).verso = s.verso := rfl
@[simp] theorem State.spend_mem (s : State) : (s.spend).mem = s.mem := rfl
@[simp] theorem State.spend_check (s : State) : (s.spend).check = s.check := rfl
@[simp] theorem State.spend_flash (s : State) : (s.spend).flash = s.flash := rfl
@[simp] theorem State.spend_cores (s : State) : (s.spend).cores = s.cores := rfl
@[simp] theorem State.spend_ctxs (s : State) : (s.spend).ctxs = s.ctxs := rfl
@[simp] theorem State.spend_patch (s : State) : (s.spend).patch = s.patch := rfl
@[simp] theorem State.spend_events (s : State) : (s.spend).events = s.events := rfl
@[simp] theorem State.spend_deliver (s : State) : (s.spend).deliver = s.deliver := rfl
@[simp] theorem State.spend_frm (s : State) : (s.spend).frm = s.frm := rfl
@[simp] theorem State.spend_ldr (s : State) : (s.spend).ldr = s.ldr := rfl
@[simp] theorem State.spend_pair (s : State) : (s.spend).pair = s.pair := rfl
@[simp] theorem State.spend_age (s : State) : (s.spend).age = s.age := rfl
@[simp] theorem State.spend_host (s : State) : (s.spend).host = s.host := rfl
@[simp] theorem State.spend_snap (s : State) : (s.spend).snap = s.snap := rfl
@[simp] theorem State.spend_ports (s : State) : (s.spend).ports = s.ports := rfl
@[simp] theorem State.spend_timers (s : State) : (s.spend).timers = s.timers := rfl
@[simp] theorem State.spend_clk (s : State) : (s.spend).clk = s.clk := rfl
@[simp] theorem State.spend_reg (s : State) (q' : Nat) :
    (s.spend).reg q' = s.reg q' := rfl
@[simp] theorem State.spend_fld (s : State) (q' i j : Nat) :
    (s.spend).fld q' i j = s.fld q' i j := rfl
@[simp] theorem State.spend_flag (s : State) (q' i : Nat) :
    (s.spend).flag q' i = s.flag q' i := rfl
@[simp] theorem State.spend_peek (s : State) (b' : Nat) :
    (s.spend).peek b' = s.peek b' := rfl
@[simp] theorem State.spend_bad (s : State) (b' : Nat) :
    (s.spend).bad b' = s.bad b' := rfl
@[simp] theorem State.spend_core (s : State) (d : Nat) :
    (s.spend).core d = s.core d := rfl
@[simp] theorem State.spend_tenant (s : State) (d : Nat) :
    (s.spend).tenant d = s.tenant d := rfl
@[simp] theorem State.spend_ctx (s : State) (u : Nat) :
    (s.spend).ctx u = s.ctx u := rfl
@[simp] theorem State.spend_sock (s : State) (u m : Nat) :
    (s.spend).sock u m = s.sock u m := rfl
@[simp] theorem State.spend_port (s : State) (p' : Nat) :
    (s.spend).port p' = s.port p' := rfl
@[simp] theorem State.spend_cmd (s : State) (k' : Nat) :
    (s.spend).cmd k' = s.cmd k' := rfl
@[simp] theorem State.spend_level (s : State) (u : Nat) :
    (s.spend).level u = s.level u := rfl
@[simp] theorem State.spend_det (s : State) (d : Nat) :
    (s.spend).det d = s.det d := rfl
@[simp] theorem State.spend_frame (s : State) :
    (s.spend).frame = s.frame := rfl
@[simp] theorem State.spend_offline (s : State) (d : Nat) :
    (s.spend).offline d = s.offline d := rfl
@[simp] theorem State.spend_fatal (s : State) :
    (s.spend).fatal = s.fatal := rfl
@[simp] theorem State.spend_sealed (s : State) :
    (s.spend).sealed = s.sealed := rfl
@[simp] theorem State.spend_pairMode (s : State) :
    (s.spend).pairMode = s.pairMode := rfl
@[simp] theorem State.spend_seg (s : State) (u g : Nat) :
    (s.spend).seg u g = s.seg u g := rfl
@[simp] theorem State.spend_faultN (s : State) :
    (s.spend).faultN = s.faultN := rfl

/-! ### emit -/

@[simp] theorem State.emit_pending (s : State) (o : Out) : (s.emit o).pending = s.pending := rfl
@[simp] theorem State.emit_free (s : State) (o : Out) : (s.emit o).free = s.free := rfl
@[simp] theorem State.emit_pins (s : State) (o : Out) : (s.emit o).pins = s.pins := rfl
@[simp] theorem State.emit_regs (s : State) (o : Out) : (s.emit o).regs = s.regs := rfl
@[simp] theorem State.emit_lv (s : State) (o : Out) : (s.emit o).lv = s.lv := rfl
@[simp] theorem State.emit_recto (s : State) (o : Out) : (s.emit o).recto = s.recto := rfl
@[simp] theorem State.emit_verso (s : State) (o : Out) : (s.emit o).verso = s.verso := rfl
@[simp] theorem State.emit_mem (s : State) (o : Out) : (s.emit o).mem = s.mem := rfl
@[simp] theorem State.emit_check (s : State) (o : Out) : (s.emit o).check = s.check := rfl
@[simp] theorem State.emit_flash (s : State) (o : Out) : (s.emit o).flash = s.flash := rfl
@[simp] theorem State.emit_cores (s : State) (o : Out) : (s.emit o).cores = s.cores := rfl
@[simp] theorem State.emit_ctxs (s : State) (o : Out) : (s.emit o).ctxs = s.ctxs := rfl
@[simp] theorem State.emit_patch (s : State) (o : Out) : (s.emit o).patch = s.patch := rfl
@[simp] theorem State.emit_events (s : State) (o : Out) : (s.emit o).events = s.events := rfl
@[simp] theorem State.emit_deliver (s : State) (o : Out) : (s.emit o).deliver = s.deliver := rfl
@[simp] theorem State.emit_frm (s : State) (o : Out) : (s.emit o).frm = s.frm := rfl
@[simp] theorem State.emit_ldr (s : State) (o : Out) : (s.emit o).ldr = s.ldr := rfl
@[simp] theorem State.emit_pair (s : State) (o : Out) : (s.emit o).pair = s.pair := rfl
@[simp] theorem State.emit_age (s : State) (o : Out) : (s.emit o).age = s.age := rfl
@[simp] theorem State.emit_host (s : State) (o : Out) : (s.emit o).host = s.host := rfl
@[simp] theorem State.emit_snap (s : State) (o : Out) : (s.emit o).snap = s.snap := rfl
@[simp] theorem State.emit_ports (s : State) (o : Out) : (s.emit o).ports = s.ports := rfl
@[simp] theorem State.emit_timers (s : State) (o : Out) : (s.emit o).timers = s.timers := rfl
@[simp] theorem State.emit_clk (s : State) (o : Out) : (s.emit o).clk = s.clk := rfl
@[simp] theorem State.emit_reg (s : State) (o : Out) (q' : Nat) :
    (s.emit o).reg q' = s.reg q' := rfl
@[simp] theorem State.emit_fld (s : State) (o : Out) (q' i j : Nat) :
    (s.emit o).fld q' i j = s.fld q' i j := rfl
@[simp] theorem State.emit_flag (s : State) (o : Out) (q' i : Nat) :
    (s.emit o).flag q' i = s.flag q' i := rfl
@[simp] theorem State.emit_peek (s : State) (o : Out) (b' : Nat) :
    (s.emit o).peek b' = s.peek b' := rfl
@[simp] theorem State.emit_bad (s : State) (o : Out) (b' : Nat) :
    (s.emit o).bad b' = s.bad b' := rfl
@[simp] theorem State.emit_core (s : State) (o : Out) (d : Nat) :
    (s.emit o).core d = s.core d := rfl
@[simp] theorem State.emit_tenant (s : State) (o : Out) (d : Nat) :
    (s.emit o).tenant d = s.tenant d := rfl
@[simp] theorem State.emit_ctx (s : State) (o : Out) (u : Nat) :
    (s.emit o).ctx u = s.ctx u := rfl
@[simp] theorem State.emit_sock (s : State) (o : Out) (u m : Nat) :
    (s.emit o).sock u m = s.sock u m := rfl
@[simp] theorem State.emit_port (s : State) (o : Out) (p' : Nat) :
    (s.emit o).port p' = s.port p' := rfl
@[simp] theorem State.emit_cmd (s : State) (o : Out) (k' : Nat) :
    (s.emit o).cmd k' = s.cmd k' := rfl
@[simp] theorem State.emit_level (s : State) (o : Out) (u : Nat) :
    (s.emit o).level u = s.level u := rfl
@[simp] theorem State.emit_det (s : State) (o : Out) (d : Nat) :
    (s.emit o).det d = s.det d := rfl
@[simp] theorem State.emit_frame (s : State) (o : Out) :
    (s.emit o).frame = s.frame := rfl
@[simp] theorem State.emit_offline (s : State) (o : Out) (d : Nat) :
    (s.emit o).offline d = s.offline d := rfl
@[simp] theorem State.emit_fatal (s : State) (o : Out) :
    (s.emit o).fatal = s.fatal := rfl
@[simp] theorem State.emit_sealed (s : State) (o : Out) :
    (s.emit o).sealed = s.sealed := rfl
@[simp] theorem State.emit_pairMode (s : State) (o : Out) :
    (s.emit o).pairMode = s.pairMode := rfl
@[simp] theorem State.emit_seg (s : State) (o : Out) (u g : Nat) :
    (s.emit o).seg u g = s.seg u g := rfl
@[simp] theorem State.emit_faultN (s : State) (o : Out) :
    (s.emit o).faultN = s.faultN := rfl

/-! ### poke -/

@[simp] theorem State.poke_pending (s : State) (a : Nat) (v : Word) : (s.poke a v).pending = s.pending := rfl
@[simp] theorem State.poke_free (s : State) (a : Nat) (v : Word) : (s.poke a v).free = s.free := rfl
@[simp] theorem State.poke_out (s : State) (a : Nat) (v : Word) : (s.poke a v).out = s.out := rfl
@[simp] theorem State.poke_pins (s : State) (a : Nat) (v : Word) : (s.poke a v).pins = s.pins := rfl
@[simp] theorem State.poke_regs (s : State) (a : Nat) (v : Word) : (s.poke a v).regs = s.regs := rfl
@[simp] theorem State.poke_lv (s : State) (a : Nat) (v : Word) : (s.poke a v).lv = s.lv := rfl
@[simp] theorem State.poke_recto (s : State) (a : Nat) (v : Word) : (s.poke a v).recto = s.recto := rfl
@[simp] theorem State.poke_verso (s : State) (a : Nat) (v : Word) : (s.poke a v).verso = s.verso := rfl
@[simp] theorem State.poke_flash (s : State) (a : Nat) (v : Word) : (s.poke a v).flash = s.flash := rfl
@[simp] theorem State.poke_cores (s : State) (a : Nat) (v : Word) : (s.poke a v).cores = s.cores := rfl
@[simp] theorem State.poke_ctxs (s : State) (a : Nat) (v : Word) : (s.poke a v).ctxs = s.ctxs := rfl
@[simp] theorem State.poke_patch (s : State) (a : Nat) (v : Word) : (s.poke a v).patch = s.patch := rfl
@[simp] theorem State.poke_events (s : State) (a : Nat) (v : Word) : (s.poke a v).events = s.events := rfl
@[simp] theorem State.poke_deliver (s : State) (a : Nat) (v : Word) : (s.poke a v).deliver = s.deliver := rfl
@[simp] theorem State.poke_frm (s : State) (a : Nat) (v : Word) : (s.poke a v).frm = s.frm := rfl
@[simp] theorem State.poke_ldr (s : State) (a : Nat) (v : Word) : (s.poke a v).ldr = s.ldr := rfl
@[simp] theorem State.poke_pair (s : State) (a : Nat) (v : Word) : (s.poke a v).pair = s.pair := rfl
@[simp] theorem State.poke_age (s : State) (a : Nat) (v : Word) : (s.poke a v).age = s.age := rfl
@[simp] theorem State.poke_host (s : State) (a : Nat) (v : Word) : (s.poke a v).host = s.host := rfl
@[simp] theorem State.poke_snap (s : State) (a : Nat) (v : Word) : (s.poke a v).snap = s.snap := rfl
@[simp] theorem State.poke_ports (s : State) (a : Nat) (v : Word) : (s.poke a v).ports = s.ports := rfl
@[simp] theorem State.poke_timers (s : State) (a : Nat) (v : Word) : (s.poke a v).timers = s.timers := rfl
@[simp] theorem State.poke_clk (s : State) (a : Nat) (v : Word) : (s.poke a v).clk = s.clk := rfl
@[simp] theorem State.poke_reg (s : State) (a : Nat) (v : Word) (q' : Nat) :
    (s.poke a v).reg q' = s.reg q' := rfl
@[simp] theorem State.poke_fld (s : State) (a : Nat) (v : Word) (q' i j : Nat) :
    (s.poke a v).fld q' i j = s.fld q' i j := rfl
@[simp] theorem State.poke_flag (s : State) (a : Nat) (v : Word) (q' i : Nat) :
    (s.poke a v).flag q' i = s.flag q' i := rfl
@[simp] theorem State.poke_core (s : State) (a : Nat) (v : Word) (d : Nat) :
    (s.poke a v).core d = s.core d := rfl
@[simp] theorem State.poke_tenant (s : State) (a : Nat) (v : Word) (d : Nat) :
    (s.poke a v).tenant d = s.tenant d := rfl
@[simp] theorem State.poke_ctx (s : State) (a : Nat) (v : Word) (u : Nat) :
    (s.poke a v).ctx u = s.ctx u := rfl
@[simp] theorem State.poke_sock (s : State) (a : Nat) (v : Word) (u m : Nat) :
    (s.poke a v).sock u m = s.sock u m := rfl
@[simp] theorem State.poke_port (s : State) (a : Nat) (v : Word) (p' : Nat) :
    (s.poke a v).port p' = s.port p' := rfl
@[simp] theorem State.poke_cmd (s : State) (a : Nat) (v : Word) (k' : Nat) :
    (s.poke a v).cmd k' = s.cmd k' := rfl
@[simp] theorem State.poke_level (s : State) (a : Nat) (v : Word) (u : Nat) :
    (s.poke a v).level u = s.level u := rfl
@[simp] theorem State.poke_det (s : State) (a : Nat) (v : Word) (d : Nat) :
    (s.poke a v).det d = s.det d := rfl
@[simp] theorem State.poke_frame (s : State) (a : Nat) (v : Word) :
    (s.poke a v).frame = s.frame := rfl
@[simp] theorem State.poke_offline (s : State) (a : Nat) (v : Word) (d : Nat) :
    (s.poke a v).offline d = s.offline d := rfl
@[simp] theorem State.poke_fatal (s : State) (a : Nat) (v : Word) :
    (s.poke a v).fatal = s.fatal := rfl
@[simp] theorem State.poke_sealed (s : State) (a : Nat) (v : Word) :
    (s.poke a v).sealed = s.sealed := rfl
@[simp] theorem State.poke_pairMode (s : State) (a : Nat) (v : Word) :
    (s.poke a v).pairMode = s.pairMode := rfl
@[simp] theorem State.poke_seg (s : State) (a : Nat) (v : Word) (u g : Nat) :
    (s.poke a v).seg u g = s.seg u g := rfl
@[simp] theorem State.poke_faultN (s : State) (a : Nat) (v : Word) :
    (s.poke a v).faultN = s.faultN := rfl

/-! ### onPair -/

@[simp] theorem State.onPair_pending (s : State) (f : Pair → Pair) : (s.onPair f).pending = s.pending := rfl
@[simp] theorem State.onPair_free (s : State) (f : Pair → Pair) : (s.onPair f).free = s.free := rfl
@[simp] theorem State.onPair_out (s : State) (f : Pair → Pair) : (s.onPair f).out = s.out := rfl
@[simp] theorem State.onPair_pins (s : State) (f : Pair → Pair) : (s.onPair f).pins = s.pins := rfl
@[simp] theorem State.onPair_regs (s : State) (f : Pair → Pair) : (s.onPair f).regs = s.regs := rfl
@[simp] theorem State.onPair_lv (s : State) (f : Pair → Pair) : (s.onPair f).lv = s.lv := rfl
@[simp] theorem State.onPair_recto (s : State) (f : Pair → Pair) : (s.onPair f).recto = s.recto := rfl
@[simp] theorem State.onPair_verso (s : State) (f : Pair → Pair) : (s.onPair f).verso = s.verso := rfl
@[simp] theorem State.onPair_mem (s : State) (f : Pair → Pair) : (s.onPair f).mem = s.mem := rfl
@[simp] theorem State.onPair_check (s : State) (f : Pair → Pair) : (s.onPair f).check = s.check := rfl
@[simp] theorem State.onPair_flash (s : State) (f : Pair → Pair) : (s.onPair f).flash = s.flash := rfl
@[simp] theorem State.onPair_cores (s : State) (f : Pair → Pair) : (s.onPair f).cores = s.cores := rfl
@[simp] theorem State.onPair_ctxs (s : State) (f : Pair → Pair) : (s.onPair f).ctxs = s.ctxs := rfl
@[simp] theorem State.onPair_patch (s : State) (f : Pair → Pair) : (s.onPair f).patch = s.patch := rfl
@[simp] theorem State.onPair_events (s : State) (f : Pair → Pair) : (s.onPair f).events = s.events := rfl
@[simp] theorem State.onPair_deliver (s : State) (f : Pair → Pair) : (s.onPair f).deliver = s.deliver := rfl
@[simp] theorem State.onPair_frm (s : State) (f : Pair → Pair) : (s.onPair f).frm = s.frm := rfl
@[simp] theorem State.onPair_ldr (s : State) (f : Pair → Pair) : (s.onPair f).ldr = s.ldr := rfl
@[simp] theorem State.onPair_age (s : State) (f : Pair → Pair) : (s.onPair f).age = s.age := rfl
@[simp] theorem State.onPair_host (s : State) (f : Pair → Pair) : (s.onPair f).host = s.host := rfl
@[simp] theorem State.onPair_snap (s : State) (f : Pair → Pair) : (s.onPair f).snap = s.snap := rfl
@[simp] theorem State.onPair_ports (s : State) (f : Pair → Pair) : (s.onPair f).ports = s.ports := rfl
@[simp] theorem State.onPair_timers (s : State) (f : Pair → Pair) : (s.onPair f).timers = s.timers := rfl
@[simp] theorem State.onPair_clk (s : State) (f : Pair → Pair) : (s.onPair f).clk = s.clk := rfl
@[simp] theorem State.onPair_reg (s : State) (f : Pair → Pair) (q' : Nat) :
    (s.onPair f).reg q' = s.reg q' := rfl
@[simp] theorem State.onPair_fld (s : State) (f : Pair → Pair) (q' i j : Nat) :
    (s.onPair f).fld q' i j = s.fld q' i j := rfl
@[simp] theorem State.onPair_flag (s : State) (f : Pair → Pair) (q' i : Nat) :
    (s.onPair f).flag q' i = s.flag q' i := rfl
@[simp] theorem State.onPair_peek (s : State) (f : Pair → Pair) (b' : Nat) :
    (s.onPair f).peek b' = s.peek b' := rfl
@[simp] theorem State.onPair_bad (s : State) (f : Pair → Pair) (b' : Nat) :
    (s.onPair f).bad b' = s.bad b' := rfl
@[simp] theorem State.onPair_core (s : State) (f : Pair → Pair) (d : Nat) :
    (s.onPair f).core d = s.core d := rfl
@[simp] theorem State.onPair_tenant (s : State) (f : Pair → Pair) (d : Nat) :
    (s.onPair f).tenant d = s.tenant d := rfl
@[simp] theorem State.onPair_ctx (s : State) (f : Pair → Pair) (u : Nat) :
    (s.onPair f).ctx u = s.ctx u := rfl
@[simp] theorem State.onPair_sock (s : State) (f : Pair → Pair) (u m : Nat) :
    (s.onPair f).sock u m = s.sock u m := rfl
@[simp] theorem State.onPair_port (s : State) (f : Pair → Pair) (p' : Nat) :
    (s.onPair f).port p' = s.port p' := rfl
@[simp] theorem State.onPair_cmd (s : State) (f : Pair → Pair) (k' : Nat) :
    (s.onPair f).cmd k' = s.cmd k' := rfl
@[simp] theorem State.onPair_level (s : State) (f : Pair → Pair) (u : Nat) :
    (s.onPair f).level u = s.level u := rfl
@[simp] theorem State.onPair_det (s : State) (f : Pair → Pair) (d : Nat) :
    (s.onPair f).det d = s.det d := rfl
@[simp] theorem State.onPair_frame (s : State) (f : Pair → Pair) :
    (s.onPair f).frame = s.frame := rfl
@[simp] theorem State.onPair_offline (s : State) (f : Pair → Pair) (d : Nat) :
    (s.onPair f).offline d = s.offline d := rfl
@[simp] theorem State.onPair_fatal (s : State) (f : Pair → Pair) :
    (s.onPair f).fatal = s.fatal := rfl
@[simp] theorem State.onPair_sealed (s : State) (f : Pair → Pair) :
    (s.onPair f).sealed = s.sealed := rfl
@[simp] theorem State.onPair_pairMode (s : State) (f : Pair → Pair) :
    (s.onPair f).pairMode = s.pairMode := rfl
@[simp] theorem State.onPair_seg (s : State) (f : Pair → Pair) (u g : Nat) :
    (s.onPair f).seg u g = s.seg u g := rfl
@[simp] theorem State.onPair_faultN (s : State) (f : Pair → Pair) :
    (s.onPair f).faultN = s.faultN := rfl

/-! ### onAge -/

@[simp] theorem State.onAge_pending (s : State) (f : Planner → Planner) : (s.onAge f).pending = s.pending := rfl
@[simp] theorem State.onAge_free (s : State) (f : Planner → Planner) : (s.onAge f).free = s.free := rfl
@[simp] theorem State.onAge_out (s : State) (f : Planner → Planner) : (s.onAge f).out = s.out := rfl
@[simp] theorem State.onAge_pins (s : State) (f : Planner → Planner) : (s.onAge f).pins = s.pins := rfl
@[simp] theorem State.onAge_regs (s : State) (f : Planner → Planner) : (s.onAge f).regs = s.regs := rfl
@[simp] theorem State.onAge_lv (s : State) (f : Planner → Planner) : (s.onAge f).lv = s.lv := rfl
@[simp] theorem State.onAge_recto (s : State) (f : Planner → Planner) : (s.onAge f).recto = s.recto := rfl
@[simp] theorem State.onAge_verso (s : State) (f : Planner → Planner) : (s.onAge f).verso = s.verso := rfl
@[simp] theorem State.onAge_mem (s : State) (f : Planner → Planner) : (s.onAge f).mem = s.mem := rfl
@[simp] theorem State.onAge_check (s : State) (f : Planner → Planner) : (s.onAge f).check = s.check := rfl
@[simp] theorem State.onAge_flash (s : State) (f : Planner → Planner) : (s.onAge f).flash = s.flash := rfl
@[simp] theorem State.onAge_cores (s : State) (f : Planner → Planner) : (s.onAge f).cores = s.cores := rfl
@[simp] theorem State.onAge_ctxs (s : State) (f : Planner → Planner) : (s.onAge f).ctxs = s.ctxs := rfl
@[simp] theorem State.onAge_patch (s : State) (f : Planner → Planner) : (s.onAge f).patch = s.patch := rfl
@[simp] theorem State.onAge_events (s : State) (f : Planner → Planner) : (s.onAge f).events = s.events := rfl
@[simp] theorem State.onAge_deliver (s : State) (f : Planner → Planner) : (s.onAge f).deliver = s.deliver := rfl
@[simp] theorem State.onAge_frm (s : State) (f : Planner → Planner) : (s.onAge f).frm = s.frm := rfl
@[simp] theorem State.onAge_ldr (s : State) (f : Planner → Planner) : (s.onAge f).ldr = s.ldr := rfl
@[simp] theorem State.onAge_pair (s : State) (f : Planner → Planner) : (s.onAge f).pair = s.pair := rfl
@[simp] theorem State.onAge_host (s : State) (f : Planner → Planner) : (s.onAge f).host = s.host := rfl
@[simp] theorem State.onAge_snap (s : State) (f : Planner → Planner) : (s.onAge f).snap = s.snap := rfl
@[simp] theorem State.onAge_ports (s : State) (f : Planner → Planner) : (s.onAge f).ports = s.ports := rfl
@[simp] theorem State.onAge_timers (s : State) (f : Planner → Planner) : (s.onAge f).timers = s.timers := rfl
@[simp] theorem State.onAge_clk (s : State) (f : Planner → Planner) : (s.onAge f).clk = s.clk := rfl
@[simp] theorem State.onAge_reg (s : State) (f : Planner → Planner) (q' : Nat) :
    (s.onAge f).reg q' = s.reg q' := rfl
@[simp] theorem State.onAge_fld (s : State) (f : Planner → Planner) (q' i j : Nat) :
    (s.onAge f).fld q' i j = s.fld q' i j := rfl
@[simp] theorem State.onAge_flag (s : State) (f : Planner → Planner) (q' i : Nat) :
    (s.onAge f).flag q' i = s.flag q' i := rfl
@[simp] theorem State.onAge_peek (s : State) (f : Planner → Planner) (b' : Nat) :
    (s.onAge f).peek b' = s.peek b' := rfl
@[simp] theorem State.onAge_bad (s : State) (f : Planner → Planner) (b' : Nat) :
    (s.onAge f).bad b' = s.bad b' := rfl
@[simp] theorem State.onAge_core (s : State) (f : Planner → Planner) (d : Nat) :
    (s.onAge f).core d = s.core d := rfl
@[simp] theorem State.onAge_tenant (s : State) (f : Planner → Planner) (d : Nat) :
    (s.onAge f).tenant d = s.tenant d := rfl
@[simp] theorem State.onAge_ctx (s : State) (f : Planner → Planner) (u : Nat) :
    (s.onAge f).ctx u = s.ctx u := rfl
@[simp] theorem State.onAge_sock (s : State) (f : Planner → Planner) (u m : Nat) :
    (s.onAge f).sock u m = s.sock u m := rfl
@[simp] theorem State.onAge_port (s : State) (f : Planner → Planner) (p' : Nat) :
    (s.onAge f).port p' = s.port p' := rfl
@[simp] theorem State.onAge_cmd (s : State) (f : Planner → Planner) (k' : Nat) :
    (s.onAge f).cmd k' = s.cmd k' := rfl
@[simp] theorem State.onAge_level (s : State) (f : Planner → Planner) (u : Nat) :
    (s.onAge f).level u = s.level u := rfl
@[simp] theorem State.onAge_det (s : State) (f : Planner → Planner) (d : Nat) :
    (s.onAge f).det d = s.det d := rfl
@[simp] theorem State.onAge_frame (s : State) (f : Planner → Planner) :
    (s.onAge f).frame = s.frame := rfl
@[simp] theorem State.onAge_offline (s : State) (f : Planner → Planner) (d : Nat) :
    (s.onAge f).offline d = s.offline d := rfl
@[simp] theorem State.onAge_fatal (s : State) (f : Planner → Planner) :
    (s.onAge f).fatal = s.fatal := rfl
@[simp] theorem State.onAge_sealed (s : State) (f : Planner → Planner) :
    (s.onAge f).sealed = s.sealed := rfl
@[simp] theorem State.onAge_pairMode (s : State) (f : Planner → Planner) :
    (s.onAge f).pairMode = s.pairMode := rfl
@[simp] theorem State.onAge_seg (s : State) (f : Planner → Planner) (u g : Nat) :
    (s.onAge f).seg u g = s.seg u g := rfl
@[simp] theorem State.onAge_faultN (s : State) (f : Planner → Planner) :
    (s.onAge f).faultN = s.faultN := rfl

/-! ### onClk -/

@[simp] theorem State.onClk_pending (s : State) (f : Clock → Clock) : (s.onClk f).pending = s.pending := rfl
@[simp] theorem State.onClk_free (s : State) (f : Clock → Clock) : (s.onClk f).free = s.free := rfl
@[simp] theorem State.onClk_out (s : State) (f : Clock → Clock) : (s.onClk f).out = s.out := rfl
@[simp] theorem State.onClk_pins (s : State) (f : Clock → Clock) : (s.onClk f).pins = s.pins := rfl
@[simp] theorem State.onClk_regs (s : State) (f : Clock → Clock) : (s.onClk f).regs = s.regs := rfl
@[simp] theorem State.onClk_lv (s : State) (f : Clock → Clock) : (s.onClk f).lv = s.lv := rfl
@[simp] theorem State.onClk_recto (s : State) (f : Clock → Clock) : (s.onClk f).recto = s.recto := rfl
@[simp] theorem State.onClk_verso (s : State) (f : Clock → Clock) : (s.onClk f).verso = s.verso := rfl
@[simp] theorem State.onClk_mem (s : State) (f : Clock → Clock) : (s.onClk f).mem = s.mem := rfl
@[simp] theorem State.onClk_check (s : State) (f : Clock → Clock) : (s.onClk f).check = s.check := rfl
@[simp] theorem State.onClk_flash (s : State) (f : Clock → Clock) : (s.onClk f).flash = s.flash := rfl
@[simp] theorem State.onClk_cores (s : State) (f : Clock → Clock) : (s.onClk f).cores = s.cores := rfl
@[simp] theorem State.onClk_ctxs (s : State) (f : Clock → Clock) : (s.onClk f).ctxs = s.ctxs := rfl
@[simp] theorem State.onClk_patch (s : State) (f : Clock → Clock) : (s.onClk f).patch = s.patch := rfl
@[simp] theorem State.onClk_events (s : State) (f : Clock → Clock) : (s.onClk f).events = s.events := rfl
@[simp] theorem State.onClk_deliver (s : State) (f : Clock → Clock) : (s.onClk f).deliver = s.deliver := rfl
@[simp] theorem State.onClk_frm (s : State) (f : Clock → Clock) : (s.onClk f).frm = s.frm := rfl
@[simp] theorem State.onClk_ldr (s : State) (f : Clock → Clock) : (s.onClk f).ldr = s.ldr := rfl
@[simp] theorem State.onClk_pair (s : State) (f : Clock → Clock) : (s.onClk f).pair = s.pair := rfl
@[simp] theorem State.onClk_age (s : State) (f : Clock → Clock) : (s.onClk f).age = s.age := rfl
@[simp] theorem State.onClk_host (s : State) (f : Clock → Clock) : (s.onClk f).host = s.host := rfl
@[simp] theorem State.onClk_snap (s : State) (f : Clock → Clock) : (s.onClk f).snap = s.snap := rfl
@[simp] theorem State.onClk_ports (s : State) (f : Clock → Clock) : (s.onClk f).ports = s.ports := rfl
@[simp] theorem State.onClk_timers (s : State) (f : Clock → Clock) : (s.onClk f).timers = s.timers := rfl
@[simp] theorem State.onClk_reg (s : State) (f : Clock → Clock) (q' : Nat) :
    (s.onClk f).reg q' = s.reg q' := rfl
@[simp] theorem State.onClk_fld (s : State) (f : Clock → Clock) (q' i j : Nat) :
    (s.onClk f).fld q' i j = s.fld q' i j := rfl
@[simp] theorem State.onClk_flag (s : State) (f : Clock → Clock) (q' i : Nat) :
    (s.onClk f).flag q' i = s.flag q' i := rfl
@[simp] theorem State.onClk_peek (s : State) (f : Clock → Clock) (b' : Nat) :
    (s.onClk f).peek b' = s.peek b' := rfl
@[simp] theorem State.onClk_bad (s : State) (f : Clock → Clock) (b' : Nat) :
    (s.onClk f).bad b' = s.bad b' := rfl
@[simp] theorem State.onClk_core (s : State) (f : Clock → Clock) (d : Nat) :
    (s.onClk f).core d = s.core d := rfl
@[simp] theorem State.onClk_tenant (s : State) (f : Clock → Clock) (d : Nat) :
    (s.onClk f).tenant d = s.tenant d := rfl
@[simp] theorem State.onClk_ctx (s : State) (f : Clock → Clock) (u : Nat) :
    (s.onClk f).ctx u = s.ctx u := rfl
@[simp] theorem State.onClk_sock (s : State) (f : Clock → Clock) (u m : Nat) :
    (s.onClk f).sock u m = s.sock u m := rfl
@[simp] theorem State.onClk_port (s : State) (f : Clock → Clock) (p' : Nat) :
    (s.onClk f).port p' = s.port p' := rfl
@[simp] theorem State.onClk_cmd (s : State) (f : Clock → Clock) (k' : Nat) :
    (s.onClk f).cmd k' = s.cmd k' := rfl
@[simp] theorem State.onClk_level (s : State) (f : Clock → Clock) (u : Nat) :
    (s.onClk f).level u = s.level u := rfl
@[simp] theorem State.onClk_det (s : State) (f : Clock → Clock) (d : Nat) :
    (s.onClk f).det d = s.det d := rfl
@[simp] theorem State.onClk_frame (s : State) (f : Clock → Clock) :
    (s.onClk f).frame = s.frame := rfl
@[simp] theorem State.onClk_offline (s : State) (f : Clock → Clock) (d : Nat) :
    (s.onClk f).offline d = s.offline d := rfl
@[simp] theorem State.onClk_fatal (s : State) (f : Clock → Clock) :
    (s.onClk f).fatal = s.fatal := rfl
@[simp] theorem State.onClk_sealed (s : State) (f : Clock → Clock) :
    (s.onClk f).sealed = s.sealed := rfl
@[simp] theorem State.onClk_pairMode (s : State) (f : Clock → Clock) :
    (s.onClk f).pairMode = s.pairMode := rfl
@[simp] theorem State.onClk_seg (s : State) (f : Clock → Clock) (u g : Nat) :
    (s.onClk f).seg u g = s.seg u g := rfl
@[simp] theorem State.onClk_faultN (s : State) (f : Clock → Clock) :
    (s.onClk f).faultN = s.faultN := rfl

/-! ### onLdr -/

@[simp] theorem State.onLdr_pending (s : State) (f : Loader → Loader) : (s.onLdr f).pending = s.pending := rfl
@[simp] theorem State.onLdr_free (s : State) (f : Loader → Loader) : (s.onLdr f).free = s.free := rfl
@[simp] theorem State.onLdr_out (s : State) (f : Loader → Loader) : (s.onLdr f).out = s.out := rfl
@[simp] theorem State.onLdr_pins (s : State) (f : Loader → Loader) : (s.onLdr f).pins = s.pins := rfl
@[simp] theorem State.onLdr_regs (s : State) (f : Loader → Loader) : (s.onLdr f).regs = s.regs := rfl
@[simp] theorem State.onLdr_lv (s : State) (f : Loader → Loader) : (s.onLdr f).lv = s.lv := rfl
@[simp] theorem State.onLdr_recto (s : State) (f : Loader → Loader) : (s.onLdr f).recto = s.recto := rfl
@[simp] theorem State.onLdr_verso (s : State) (f : Loader → Loader) : (s.onLdr f).verso = s.verso := rfl
@[simp] theorem State.onLdr_mem (s : State) (f : Loader → Loader) : (s.onLdr f).mem = s.mem := rfl
@[simp] theorem State.onLdr_check (s : State) (f : Loader → Loader) : (s.onLdr f).check = s.check := rfl
@[simp] theorem State.onLdr_flash (s : State) (f : Loader → Loader) : (s.onLdr f).flash = s.flash := rfl
@[simp] theorem State.onLdr_cores (s : State) (f : Loader → Loader) : (s.onLdr f).cores = s.cores := rfl
@[simp] theorem State.onLdr_ctxs (s : State) (f : Loader → Loader) : (s.onLdr f).ctxs = s.ctxs := rfl
@[simp] theorem State.onLdr_patch (s : State) (f : Loader → Loader) : (s.onLdr f).patch = s.patch := rfl
@[simp] theorem State.onLdr_events (s : State) (f : Loader → Loader) : (s.onLdr f).events = s.events := rfl
@[simp] theorem State.onLdr_deliver (s : State) (f : Loader → Loader) : (s.onLdr f).deliver = s.deliver := rfl
@[simp] theorem State.onLdr_frm (s : State) (f : Loader → Loader) : (s.onLdr f).frm = s.frm := rfl
@[simp] theorem State.onLdr_pair (s : State) (f : Loader → Loader) : (s.onLdr f).pair = s.pair := rfl
@[simp] theorem State.onLdr_age (s : State) (f : Loader → Loader) : (s.onLdr f).age = s.age := rfl
@[simp] theorem State.onLdr_host (s : State) (f : Loader → Loader) : (s.onLdr f).host = s.host := rfl
@[simp] theorem State.onLdr_snap (s : State) (f : Loader → Loader) : (s.onLdr f).snap = s.snap := rfl
@[simp] theorem State.onLdr_ports (s : State) (f : Loader → Loader) : (s.onLdr f).ports = s.ports := rfl
@[simp] theorem State.onLdr_timers (s : State) (f : Loader → Loader) : (s.onLdr f).timers = s.timers := rfl
@[simp] theorem State.onLdr_clk (s : State) (f : Loader → Loader) : (s.onLdr f).clk = s.clk := rfl
@[simp] theorem State.onLdr_reg (s : State) (f : Loader → Loader) (q' : Nat) :
    (s.onLdr f).reg q' = s.reg q' := rfl
@[simp] theorem State.onLdr_fld (s : State) (f : Loader → Loader) (q' i j : Nat) :
    (s.onLdr f).fld q' i j = s.fld q' i j := rfl
@[simp] theorem State.onLdr_flag (s : State) (f : Loader → Loader) (q' i : Nat) :
    (s.onLdr f).flag q' i = s.flag q' i := rfl
@[simp] theorem State.onLdr_peek (s : State) (f : Loader → Loader) (b' : Nat) :
    (s.onLdr f).peek b' = s.peek b' := rfl
@[simp] theorem State.onLdr_bad (s : State) (f : Loader → Loader) (b' : Nat) :
    (s.onLdr f).bad b' = s.bad b' := rfl
@[simp] theorem State.onLdr_core (s : State) (f : Loader → Loader) (d : Nat) :
    (s.onLdr f).core d = s.core d := rfl
@[simp] theorem State.onLdr_tenant (s : State) (f : Loader → Loader) (d : Nat) :
    (s.onLdr f).tenant d = s.tenant d := rfl
@[simp] theorem State.onLdr_ctx (s : State) (f : Loader → Loader) (u : Nat) :
    (s.onLdr f).ctx u = s.ctx u := rfl
@[simp] theorem State.onLdr_sock (s : State) (f : Loader → Loader) (u m : Nat) :
    (s.onLdr f).sock u m = s.sock u m := rfl
@[simp] theorem State.onLdr_port (s : State) (f : Loader → Loader) (p' : Nat) :
    (s.onLdr f).port p' = s.port p' := rfl
@[simp] theorem State.onLdr_cmd (s : State) (f : Loader → Loader) (k' : Nat) :
    (s.onLdr f).cmd k' = s.cmd k' := rfl
@[simp] theorem State.onLdr_level (s : State) (f : Loader → Loader) (u : Nat) :
    (s.onLdr f).level u = s.level u := rfl
@[simp] theorem State.onLdr_det (s : State) (f : Loader → Loader) (d : Nat) :
    (s.onLdr f).det d = s.det d := rfl
@[simp] theorem State.onLdr_frame (s : State) (f : Loader → Loader) :
    (s.onLdr f).frame = s.frame := rfl
@[simp] theorem State.onLdr_offline (s : State) (f : Loader → Loader) (d : Nat) :
    (s.onLdr f).offline d = s.offline d := rfl
@[simp] theorem State.onLdr_fatal (s : State) (f : Loader → Loader) :
    (s.onLdr f).fatal = s.fatal := rfl
@[simp] theorem State.onLdr_sealed (s : State) (f : Loader → Loader) :
    (s.onLdr f).sealed = s.sealed := rfl
@[simp] theorem State.onLdr_pairMode (s : State) (f : Loader → Loader) :
    (s.onLdr f).pairMode = s.pairMode := rfl
@[simp] theorem State.onLdr_seg (s : State) (f : Loader → Loader) (u g : Nat) :
    (s.onLdr f).seg u g = s.seg u g := rfl
@[simp] theorem State.onLdr_faultN (s : State) (f : Loader → Loader) :
    (s.onLdr f).faultN = s.faultN := rfl

/-! ### setPort -/

@[simp] theorem State.setPort_pending (s : State) (p : Nat) (q : Port) : (s.setPort p q).pending = s.pending := rfl
@[simp] theorem State.setPort_free (s : State) (p : Nat) (q : Port) : (s.setPort p q).free = s.free := rfl
@[simp] theorem State.setPort_out (s : State) (p : Nat) (q : Port) : (s.setPort p q).out = s.out := rfl
@[simp] theorem State.setPort_pins (s : State) (p : Nat) (q : Port) : (s.setPort p q).pins = s.pins := rfl
@[simp] theorem State.setPort_regs (s : State) (p : Nat) (q : Port) : (s.setPort p q).regs = s.regs := rfl
@[simp] theorem State.setPort_lv (s : State) (p : Nat) (q : Port) : (s.setPort p q).lv = s.lv := rfl
@[simp] theorem State.setPort_recto (s : State) (p : Nat) (q : Port) : (s.setPort p q).recto = s.recto := rfl
@[simp] theorem State.setPort_verso (s : State) (p : Nat) (q : Port) : (s.setPort p q).verso = s.verso := rfl
@[simp] theorem State.setPort_mem (s : State) (p : Nat) (q : Port) : (s.setPort p q).mem = s.mem := rfl
@[simp] theorem State.setPort_check (s : State) (p : Nat) (q : Port) : (s.setPort p q).check = s.check := rfl
@[simp] theorem State.setPort_flash (s : State) (p : Nat) (q : Port) : (s.setPort p q).flash = s.flash := rfl
@[simp] theorem State.setPort_cores (s : State) (p : Nat) (q : Port) : (s.setPort p q).cores = s.cores := rfl
@[simp] theorem State.setPort_ctxs (s : State) (p : Nat) (q : Port) : (s.setPort p q).ctxs = s.ctxs := rfl
@[simp] theorem State.setPort_patch (s : State) (p : Nat) (q : Port) : (s.setPort p q).patch = s.patch := rfl
@[simp] theorem State.setPort_events (s : State) (p : Nat) (q : Port) : (s.setPort p q).events = s.events := rfl
@[simp] theorem State.setPort_deliver (s : State) (p : Nat) (q : Port) : (s.setPort p q).deliver = s.deliver := rfl
@[simp] theorem State.setPort_frm (s : State) (p : Nat) (q : Port) : (s.setPort p q).frm = s.frm := rfl
@[simp] theorem State.setPort_ldr (s : State) (p : Nat) (q : Port) : (s.setPort p q).ldr = s.ldr := rfl
@[simp] theorem State.setPort_pair (s : State) (p : Nat) (q : Port) : (s.setPort p q).pair = s.pair := rfl
@[simp] theorem State.setPort_age (s : State) (p : Nat) (q : Port) : (s.setPort p q).age = s.age := rfl
@[simp] theorem State.setPort_host (s : State) (p : Nat) (q : Port) : (s.setPort p q).host = s.host := rfl
@[simp] theorem State.setPort_snap (s : State) (p : Nat) (q : Port) : (s.setPort p q).snap = s.snap := rfl
@[simp] theorem State.setPort_timers (s : State) (p : Nat) (q : Port) : (s.setPort p q).timers = s.timers := rfl
@[simp] theorem State.setPort_clk (s : State) (p : Nat) (q : Port) : (s.setPort p q).clk = s.clk := rfl
@[simp] theorem State.setPort_reg (s : State) (p : Nat) (q : Port) (q' : Nat) :
    (s.setPort p q).reg q' = s.reg q' := rfl
@[simp] theorem State.setPort_fld (s : State) (p : Nat) (q : Port) (q' i j : Nat) :
    (s.setPort p q).fld q' i j = s.fld q' i j := rfl
@[simp] theorem State.setPort_flag (s : State) (p : Nat) (q : Port) (q' i : Nat) :
    (s.setPort p q).flag q' i = s.flag q' i := rfl
@[simp] theorem State.setPort_peek (s : State) (p : Nat) (q : Port) (b' : Nat) :
    (s.setPort p q).peek b' = s.peek b' := rfl
@[simp] theorem State.setPort_bad (s : State) (p : Nat) (q : Port) (b' : Nat) :
    (s.setPort p q).bad b' = s.bad b' := rfl
@[simp] theorem State.setPort_core (s : State) (p : Nat) (q : Port) (d : Nat) :
    (s.setPort p q).core d = s.core d := rfl
@[simp] theorem State.setPort_tenant (s : State) (p : Nat) (q : Port) (d : Nat) :
    (s.setPort p q).tenant d = s.tenant d := rfl
@[simp] theorem State.setPort_ctx (s : State) (p : Nat) (q : Port) (u : Nat) :
    (s.setPort p q).ctx u = s.ctx u := rfl
@[simp] theorem State.setPort_sock (s : State) (p : Nat) (q : Port) (u m : Nat) :
    (s.setPort p q).sock u m = s.sock u m := rfl
@[simp] theorem State.setPort_cmd (s : State) (p : Nat) (q : Port) (k' : Nat) :
    (s.setPort p q).cmd k' = s.cmd k' := rfl
@[simp] theorem State.setPort_level (s : State) (p : Nat) (q : Port) (u : Nat) :
    (s.setPort p q).level u = s.level u := rfl
@[simp] theorem State.setPort_det (s : State) (p : Nat) (q : Port) (d : Nat) :
    (s.setPort p q).det d = s.det d := rfl
@[simp] theorem State.setPort_frame (s : State) (p : Nat) (q : Port) :
    (s.setPort p q).frame = s.frame := rfl
@[simp] theorem State.setPort_offline (s : State) (p : Nat) (q : Port) (d : Nat) :
    (s.setPort p q).offline d = s.offline d := rfl
@[simp] theorem State.setPort_fatal (s : State) (p : Nat) (q : Port) :
    (s.setPort p q).fatal = s.fatal := rfl
@[simp] theorem State.setPort_sealed (s : State) (p : Nat) (q : Port) :
    (s.setPort p q).sealed = s.sealed := rfl
@[simp] theorem State.setPort_pairMode (s : State) (p : Nat) (q : Port) :
    (s.setPort p q).pairMode = s.pairMode := rfl
@[simp] theorem State.setPort_seg (s : State) (p : Nat) (q : Port) (u g : Nat) :
    (s.setPort p q).seg u g = s.seg u g := rfl
@[simp] theorem State.setPort_faultN (s : State) (p : Nat) (q : Port) :
    (s.setPort p q).faultN = s.faultN := rfl

/-! ### onPort -/

@[simp] theorem State.onPort_pending (s : State) (p : Nat) (f : Port → Port) : (s.onPort p f).pending = s.pending := rfl
@[simp] theorem State.onPort_free (s : State) (p : Nat) (f : Port → Port) : (s.onPort p f).free = s.free := rfl
@[simp] theorem State.onPort_out (s : State) (p : Nat) (f : Port → Port) : (s.onPort p f).out = s.out := rfl
@[simp] theorem State.onPort_pins (s : State) (p : Nat) (f : Port → Port) : (s.onPort p f).pins = s.pins := rfl
@[simp] theorem State.onPort_regs (s : State) (p : Nat) (f : Port → Port) : (s.onPort p f).regs = s.regs := rfl
@[simp] theorem State.onPort_lv (s : State) (p : Nat) (f : Port → Port) : (s.onPort p f).lv = s.lv := rfl
@[simp] theorem State.onPort_recto (s : State) (p : Nat) (f : Port → Port) : (s.onPort p f).recto = s.recto := rfl
@[simp] theorem State.onPort_verso (s : State) (p : Nat) (f : Port → Port) : (s.onPort p f).verso = s.verso := rfl
@[simp] theorem State.onPort_mem (s : State) (p : Nat) (f : Port → Port) : (s.onPort p f).mem = s.mem := rfl
@[simp] theorem State.onPort_check (s : State) (p : Nat) (f : Port → Port) : (s.onPort p f).check = s.check := rfl
@[simp] theorem State.onPort_flash (s : State) (p : Nat) (f : Port → Port) : (s.onPort p f).flash = s.flash := rfl
@[simp] theorem State.onPort_cores (s : State) (p : Nat) (f : Port → Port) : (s.onPort p f).cores = s.cores := rfl
@[simp] theorem State.onPort_ctxs (s : State) (p : Nat) (f : Port → Port) : (s.onPort p f).ctxs = s.ctxs := rfl
@[simp] theorem State.onPort_patch (s : State) (p : Nat) (f : Port → Port) : (s.onPort p f).patch = s.patch := rfl
@[simp] theorem State.onPort_events (s : State) (p : Nat) (f : Port → Port) : (s.onPort p f).events = s.events := rfl
@[simp] theorem State.onPort_deliver (s : State) (p : Nat) (f : Port → Port) : (s.onPort p f).deliver = s.deliver := rfl
@[simp] theorem State.onPort_frm (s : State) (p : Nat) (f : Port → Port) : (s.onPort p f).frm = s.frm := rfl
@[simp] theorem State.onPort_ldr (s : State) (p : Nat) (f : Port → Port) : (s.onPort p f).ldr = s.ldr := rfl
@[simp] theorem State.onPort_pair (s : State) (p : Nat) (f : Port → Port) : (s.onPort p f).pair = s.pair := rfl
@[simp] theorem State.onPort_age (s : State) (p : Nat) (f : Port → Port) : (s.onPort p f).age = s.age := rfl
@[simp] theorem State.onPort_host (s : State) (p : Nat) (f : Port → Port) : (s.onPort p f).host = s.host := rfl
@[simp] theorem State.onPort_snap (s : State) (p : Nat) (f : Port → Port) : (s.onPort p f).snap = s.snap := rfl
@[simp] theorem State.onPort_timers (s : State) (p : Nat) (f : Port → Port) : (s.onPort p f).timers = s.timers := rfl
@[simp] theorem State.onPort_clk (s : State) (p : Nat) (f : Port → Port) : (s.onPort p f).clk = s.clk := rfl
@[simp] theorem State.onPort_reg (s : State) (p : Nat) (f : Port → Port) (q' : Nat) :
    (s.onPort p f).reg q' = s.reg q' := rfl
@[simp] theorem State.onPort_fld (s : State) (p : Nat) (f : Port → Port) (q' i j : Nat) :
    (s.onPort p f).fld q' i j = s.fld q' i j := rfl
@[simp] theorem State.onPort_flag (s : State) (p : Nat) (f : Port → Port) (q' i : Nat) :
    (s.onPort p f).flag q' i = s.flag q' i := rfl
@[simp] theorem State.onPort_peek (s : State) (p : Nat) (f : Port → Port) (b' : Nat) :
    (s.onPort p f).peek b' = s.peek b' := rfl
@[simp] theorem State.onPort_bad (s : State) (p : Nat) (f : Port → Port) (b' : Nat) :
    (s.onPort p f).bad b' = s.bad b' := rfl
@[simp] theorem State.onPort_core (s : State) (p : Nat) (f : Port → Port) (d : Nat) :
    (s.onPort p f).core d = s.core d := rfl
@[simp] theorem State.onPort_tenant (s : State) (p : Nat) (f : Port → Port) (d : Nat) :
    (s.onPort p f).tenant d = s.tenant d := rfl
@[simp] theorem State.onPort_ctx (s : State) (p : Nat) (f : Port → Port) (u : Nat) :
    (s.onPort p f).ctx u = s.ctx u := rfl
@[simp] theorem State.onPort_sock (s : State) (p : Nat) (f : Port → Port) (u m : Nat) :
    (s.onPort p f).sock u m = s.sock u m := rfl
@[simp] theorem State.onPort_cmd (s : State) (p : Nat) (f : Port → Port) (k' : Nat) :
    (s.onPort p f).cmd k' = s.cmd k' := rfl
@[simp] theorem State.onPort_level (s : State) (p : Nat) (f : Port → Port) (u : Nat) :
    (s.onPort p f).level u = s.level u := rfl
@[simp] theorem State.onPort_det (s : State) (p : Nat) (f : Port → Port) (d : Nat) :
    (s.onPort p f).det d = s.det d := rfl
@[simp] theorem State.onPort_frame (s : State) (p : Nat) (f : Port → Port) :
    (s.onPort p f).frame = s.frame := rfl
@[simp] theorem State.onPort_offline (s : State) (p : Nat) (f : Port → Port) (d : Nat) :
    (s.onPort p f).offline d = s.offline d := rfl
@[simp] theorem State.onPort_fatal (s : State) (p : Nat) (f : Port → Port) :
    (s.onPort p f).fatal = s.fatal := rfl
@[simp] theorem State.onPort_sealed (s : State) (p : Nat) (f : Port → Port) :
    (s.onPort p f).sealed = s.sealed := rfl
@[simp] theorem State.onPort_pairMode (s : State) (p : Nat) (f : Port → Port) :
    (s.onPort p f).pairMode = s.pairMode := rfl
@[simp] theorem State.onPort_seg (s : State) (p : Nat) (f : Port → Port) (u g : Nat) :
    (s.onPort p f).seg u g = s.seg u g := rfl
@[simp] theorem State.onPort_faultN (s : State) (p : Nat) (f : Port → Port) :
    (s.onPort p f).faultN = s.faultN := rfl

/-! ### setCmd -/

@[simp] theorem State.setCmd_pending (s : State) (k : Nat) (x : Cmd) : (s.setCmd k x).pending = s.pending := rfl
@[simp] theorem State.setCmd_free (s : State) (k : Nat) (x : Cmd) : (s.setCmd k x).free = s.free := rfl
@[simp] theorem State.setCmd_out (s : State) (k : Nat) (x : Cmd) : (s.setCmd k x).out = s.out := rfl
@[simp] theorem State.setCmd_pins (s : State) (k : Nat) (x : Cmd) : (s.setCmd k x).pins = s.pins := rfl
@[simp] theorem State.setCmd_regs (s : State) (k : Nat) (x : Cmd) : (s.setCmd k x).regs = s.regs := rfl
@[simp] theorem State.setCmd_lv (s : State) (k : Nat) (x : Cmd) : (s.setCmd k x).lv = s.lv := rfl
@[simp] theorem State.setCmd_recto (s : State) (k : Nat) (x : Cmd) : (s.setCmd k x).recto = s.recto := rfl
@[simp] theorem State.setCmd_verso (s : State) (k : Nat) (x : Cmd) : (s.setCmd k x).verso = s.verso := rfl
@[simp] theorem State.setCmd_mem (s : State) (k : Nat) (x : Cmd) : (s.setCmd k x).mem = s.mem := rfl
@[simp] theorem State.setCmd_check (s : State) (k : Nat) (x : Cmd) : (s.setCmd k x).check = s.check := rfl
@[simp] theorem State.setCmd_flash (s : State) (k : Nat) (x : Cmd) : (s.setCmd k x).flash = s.flash := rfl
@[simp] theorem State.setCmd_cores (s : State) (k : Nat) (x : Cmd) : (s.setCmd k x).cores = s.cores := rfl
@[simp] theorem State.setCmd_ctxs (s : State) (k : Nat) (x : Cmd) : (s.setCmd k x).ctxs = s.ctxs := rfl
@[simp] theorem State.setCmd_patch (s : State) (k : Nat) (x : Cmd) : (s.setCmd k x).patch = s.patch := rfl
@[simp] theorem State.setCmd_events (s : State) (k : Nat) (x : Cmd) : (s.setCmd k x).events = s.events := rfl
@[simp] theorem State.setCmd_deliver (s : State) (k : Nat) (x : Cmd) : (s.setCmd k x).deliver = s.deliver := rfl
@[simp] theorem State.setCmd_frm (s : State) (k : Nat) (x : Cmd) : (s.setCmd k x).frm = s.frm := rfl
@[simp] theorem State.setCmd_ldr (s : State) (k : Nat) (x : Cmd) : (s.setCmd k x).ldr = s.ldr := rfl
@[simp] theorem State.setCmd_pair (s : State) (k : Nat) (x : Cmd) : (s.setCmd k x).pair = s.pair := rfl
@[simp] theorem State.setCmd_age (s : State) (k : Nat) (x : Cmd) : (s.setCmd k x).age = s.age := rfl
@[simp] theorem State.setCmd_snap (s : State) (k : Nat) (x : Cmd) : (s.setCmd k x).snap = s.snap := rfl
@[simp] theorem State.setCmd_ports (s : State) (k : Nat) (x : Cmd) : (s.setCmd k x).ports = s.ports := rfl
@[simp] theorem State.setCmd_timers (s : State) (k : Nat) (x : Cmd) : (s.setCmd k x).timers = s.timers := rfl
@[simp] theorem State.setCmd_clk (s : State) (k : Nat) (x : Cmd) : (s.setCmd k x).clk = s.clk := rfl
@[simp] theorem State.setCmd_reg (s : State) (k : Nat) (x : Cmd) (q' : Nat) :
    (s.setCmd k x).reg q' = s.reg q' := rfl
@[simp] theorem State.setCmd_fld (s : State) (k : Nat) (x : Cmd) (q' i j : Nat) :
    (s.setCmd k x).fld q' i j = s.fld q' i j := rfl
@[simp] theorem State.setCmd_flag (s : State) (k : Nat) (x : Cmd) (q' i : Nat) :
    (s.setCmd k x).flag q' i = s.flag q' i := rfl
@[simp] theorem State.setCmd_peek (s : State) (k : Nat) (x : Cmd) (b' : Nat) :
    (s.setCmd k x).peek b' = s.peek b' := rfl
@[simp] theorem State.setCmd_bad (s : State) (k : Nat) (x : Cmd) (b' : Nat) :
    (s.setCmd k x).bad b' = s.bad b' := rfl
@[simp] theorem State.setCmd_core (s : State) (k : Nat) (x : Cmd) (d : Nat) :
    (s.setCmd k x).core d = s.core d := rfl
@[simp] theorem State.setCmd_tenant (s : State) (k : Nat) (x : Cmd) (d : Nat) :
    (s.setCmd k x).tenant d = s.tenant d := rfl
@[simp] theorem State.setCmd_ctx (s : State) (k : Nat) (x : Cmd) (u : Nat) :
    (s.setCmd k x).ctx u = s.ctx u := rfl
@[simp] theorem State.setCmd_sock (s : State) (k : Nat) (x : Cmd) (u m : Nat) :
    (s.setCmd k x).sock u m = s.sock u m := rfl
@[simp] theorem State.setCmd_port (s : State) (k : Nat) (x : Cmd) (p' : Nat) :
    (s.setCmd k x).port p' = s.port p' := rfl
@[simp] theorem State.setCmd_level (s : State) (k : Nat) (x : Cmd) (u : Nat) :
    (s.setCmd k x).level u = s.level u := rfl
@[simp] theorem State.setCmd_det (s : State) (k : Nat) (x : Cmd) (d : Nat) :
    (s.setCmd k x).det d = s.det d := rfl
@[simp] theorem State.setCmd_frame (s : State) (k : Nat) (x : Cmd) :
    (s.setCmd k x).frame = s.frame := rfl
@[simp] theorem State.setCmd_offline (s : State) (k : Nat) (x : Cmd) (d : Nat) :
    (s.setCmd k x).offline d = s.offline d := rfl
@[simp] theorem State.setCmd_fatal (s : State) (k : Nat) (x : Cmd) :
    (s.setCmd k x).fatal = s.fatal := rfl
@[simp] theorem State.setCmd_sealed (s : State) (k : Nat) (x : Cmd) :
    (s.setCmd k x).sealed = s.sealed := rfl
@[simp] theorem State.setCmd_pairMode (s : State) (k : Nat) (x : Cmd) :
    (s.setCmd k x).pairMode = s.pairMode := rfl
@[simp] theorem State.setCmd_seg (s : State) (k : Nat) (x : Cmd) (u g : Nat) :
    (s.setCmd k x).seg u g = s.seg u g := rfl
@[simp] theorem State.setCmd_faultN (s : State) (k : Nat) (x : Cmd) :
    (s.setCmd k x).faultN = s.faultN := rfl

/-! ### setData -/

@[simp] theorem State.setData_pending (s : State) (k n : Nat) (v : Word) : (s.setData k n v).pending = s.pending := rfl
@[simp] theorem State.setData_free (s : State) (k n : Nat) (v : Word) : (s.setData k n v).free = s.free := rfl
@[simp] theorem State.setData_out (s : State) (k n : Nat) (v : Word) : (s.setData k n v).out = s.out := rfl
@[simp] theorem State.setData_pins (s : State) (k n : Nat) (v : Word) : (s.setData k n v).pins = s.pins := rfl
@[simp] theorem State.setData_regs (s : State) (k n : Nat) (v : Word) : (s.setData k n v).regs = s.regs := rfl
@[simp] theorem State.setData_lv (s : State) (k n : Nat) (v : Word) : (s.setData k n v).lv = s.lv := rfl
@[simp] theorem State.setData_recto (s : State) (k n : Nat) (v : Word) : (s.setData k n v).recto = s.recto := rfl
@[simp] theorem State.setData_verso (s : State) (k n : Nat) (v : Word) : (s.setData k n v).verso = s.verso := rfl
@[simp] theorem State.setData_mem (s : State) (k n : Nat) (v : Word) : (s.setData k n v).mem = s.mem := rfl
@[simp] theorem State.setData_check (s : State) (k n : Nat) (v : Word) : (s.setData k n v).check = s.check := rfl
@[simp] theorem State.setData_flash (s : State) (k n : Nat) (v : Word) : (s.setData k n v).flash = s.flash := rfl
@[simp] theorem State.setData_cores (s : State) (k n : Nat) (v : Word) : (s.setData k n v).cores = s.cores := rfl
@[simp] theorem State.setData_ctxs (s : State) (k n : Nat) (v : Word) : (s.setData k n v).ctxs = s.ctxs := rfl
@[simp] theorem State.setData_patch (s : State) (k n : Nat) (v : Word) : (s.setData k n v).patch = s.patch := rfl
@[simp] theorem State.setData_events (s : State) (k n : Nat) (v : Word) : (s.setData k n v).events = s.events := rfl
@[simp] theorem State.setData_deliver (s : State) (k n : Nat) (v : Word) : (s.setData k n v).deliver = s.deliver := rfl
@[simp] theorem State.setData_frm (s : State) (k n : Nat) (v : Word) : (s.setData k n v).frm = s.frm := rfl
@[simp] theorem State.setData_ldr (s : State) (k n : Nat) (v : Word) : (s.setData k n v).ldr = s.ldr := rfl
@[simp] theorem State.setData_pair (s : State) (k n : Nat) (v : Word) : (s.setData k n v).pair = s.pair := rfl
@[simp] theorem State.setData_age (s : State) (k n : Nat) (v : Word) : (s.setData k n v).age = s.age := rfl
@[simp] theorem State.setData_snap (s : State) (k n : Nat) (v : Word) : (s.setData k n v).snap = s.snap := rfl
@[simp] theorem State.setData_ports (s : State) (k n : Nat) (v : Word) : (s.setData k n v).ports = s.ports := rfl
@[simp] theorem State.setData_timers (s : State) (k n : Nat) (v : Word) : (s.setData k n v).timers = s.timers := rfl
@[simp] theorem State.setData_clk (s : State) (k n : Nat) (v : Word) : (s.setData k n v).clk = s.clk := rfl
@[simp] theorem State.setData_reg (s : State) (k n : Nat) (v : Word) (q' : Nat) :
    (s.setData k n v).reg q' = s.reg q' := rfl
@[simp] theorem State.setData_fld (s : State) (k n : Nat) (v : Word) (q' i j : Nat) :
    (s.setData k n v).fld q' i j = s.fld q' i j := rfl
@[simp] theorem State.setData_flag (s : State) (k n : Nat) (v : Word) (q' i : Nat) :
    (s.setData k n v).flag q' i = s.flag q' i := rfl
@[simp] theorem State.setData_peek (s : State) (k n : Nat) (v : Word) (b' : Nat) :
    (s.setData k n v).peek b' = s.peek b' := rfl
@[simp] theorem State.setData_bad (s : State) (k n : Nat) (v : Word) (b' : Nat) :
    (s.setData k n v).bad b' = s.bad b' := rfl
@[simp] theorem State.setData_core (s : State) (k n : Nat) (v : Word) (d : Nat) :
    (s.setData k n v).core d = s.core d := rfl
@[simp] theorem State.setData_tenant (s : State) (k n : Nat) (v : Word) (d : Nat) :
    (s.setData k n v).tenant d = s.tenant d := rfl
@[simp] theorem State.setData_ctx (s : State) (k n : Nat) (v : Word) (u : Nat) :
    (s.setData k n v).ctx u = s.ctx u := rfl
@[simp] theorem State.setData_sock (s : State) (k n : Nat) (v : Word) (u m : Nat) :
    (s.setData k n v).sock u m = s.sock u m := rfl
@[simp] theorem State.setData_port (s : State) (k n : Nat) (v : Word) (p' : Nat) :
    (s.setData k n v).port p' = s.port p' := rfl
@[simp] theorem State.setData_level (s : State) (k n : Nat) (v : Word) (u : Nat) :
    (s.setData k n v).level u = s.level u := rfl
@[simp] theorem State.setData_det (s : State) (k n : Nat) (v : Word) (d : Nat) :
    (s.setData k n v).det d = s.det d := rfl
@[simp] theorem State.setData_frame (s : State) (k n : Nat) (v : Word) :
    (s.setData k n v).frame = s.frame := rfl
@[simp] theorem State.setData_offline (s : State) (k n : Nat) (v : Word) (d : Nat) :
    (s.setData k n v).offline d = s.offline d := rfl
@[simp] theorem State.setData_fatal (s : State) (k n : Nat) (v : Word) :
    (s.setData k n v).fatal = s.fatal := rfl
@[simp] theorem State.setData_sealed (s : State) (k n : Nat) (v : Word) :
    (s.setData k n v).sealed = s.sealed := rfl
@[simp] theorem State.setData_pairMode (s : State) (k n : Nat) (v : Word) :
    (s.setData k n v).pairMode = s.pairMode := rfl
@[simp] theorem State.setData_seg (s : State) (k n : Nat) (v : Word) (u g : Nat) :
    (s.setData k n v).seg u g = s.seg u g := rfl
@[simp] theorem State.setData_faultN (s : State) (k n : Nat) (v : Word) :
    (s.setData k n v).faultN = s.faultN := rfl

/-! ### Reads after writes -/

/-- A core read after a core was replaced. -/
theorem State.core_setCore (s : State) (c d : Nat) (k : Core) : (s.setCore c k).core d = if d = c then k else s.core d := by
  by_cases h : d = c
  · subst h
    simp [State.core, State.setCore, Map.get_set_self]
  · simp [State.core, State.setCore, Map.get_set_ne _ _ _ _ h, h]

@[simp] theorem State.core_setCore_self (s : State) (c : Nat) (k : Core) : (s.setCore c k).core c = k := by
  simp [State.core_setCore]

/-- A core read after a core was changed. -/
theorem State.core_onCore (s : State) (c d : Nat) (f : Core → Core) :
    (s.onCore c f).core d = if d = c then f (s.core c) else s.core d := s.core_setCore c d _

@[simp] theorem State.core_onCore_self (s : State) (c : Nat) (f : Core → Core) : (s.onCore c f).core c = f (s.core c) := by
  simp [State.core_onCore]

/-- A context read after a context was replaced. -/
theorem State.ctx_setCtx (s : State) (t u : Nat) (x : Ctx) : (s.setCtx t x).ctx u = if u = t then x else s.ctx u := by
  by_cases h : u = t
  · subst h
    simp [State.ctx, State.setCtx, Map.get_set_self]
  · simp [State.ctx, State.setCtx, Map.get_set_ne _ _ _ _ h, h]

/-- A context socket read after one was written. -/
theorem State.sock_setSock (s : State) (t n u m : Nat) (v : Word) :
    (s.setSock t n v).sock u m = if u = t ∧ m = n then v else s.sock u m := by
  by_cases h : u = t
  · subst h
    by_cases hm : m = n
    · subst hm
      simp [State.sock, State.setSock, State.ctx_setCtx, Map.get_set_self]
    · simp [State.sock, State.setSock, State.ctx_setCtx, Map.get_set_ne _ _ _ _ hm, hm]
  · simp [State.sock, State.setSock, State.ctx_setCtx, h]

@[simp] theorem State.sock_setSock_self (s : State) (t n : Nat) (v : Word) : (s.setSock t n v).sock t n = v := by
  simp [State.sock_setSock]

/-- A socket write leaves every gather record. -/
@[simp] theorem State.gather_setSock (s : State) (t n u : Nat) (v : Word) :
    ((s.setSock t n v).ctx u).gather = (s.ctx u).gather := by
  by_cases h : u = t
  · subst h
    simp [State.setSock, State.ctx_setCtx]
  · simp [State.setSock, State.ctx_setCtx, h]

/-- A word of memory read after one was written. -/
theorem State.peek_poke (s : State) (a b : Nat) (v : Word) : (s.poke a v).peek b = if b = a then v else s.peek b := by
  by_cases h : b = a
  · subst h
    simp [State.peek, State.poke, Map.get_set_self]
  · simp [State.peek, State.poke, Map.get_set_ne _ _ _ _ h, h]

@[simp] theorem State.peek_poke_self (s : State) (a : Nat) (v : Word) : (s.poke a v).peek a = v := by
  simp [State.peek_poke]

/-- A word written has good check bits; the others keep theirs. -/
theorem State.bad_poke (s : State) (a b : Nat) (v : Word) : (s.poke a v).bad b = if b = a then none else s.bad b := by
  by_cases h : b = a
  · subst h
    simp [State.bad, State.poke, Map.get_set_self]
  · simp [State.bad, State.poke, Map.get_set_ne _ _ _ _ h, h]

/-- A port read after a port was replaced. -/
theorem State.port_setPort (s : State) (p q : Nat) (x : Port) : (s.setPort p x).port q = if q = p then x else s.port q := by
  by_cases h : q = p
  · subst h
    simp [State.port, State.setPort, Map.get_set_self]
  · simp [State.port, State.setPort, Map.get_set_ne _ _ _ _ h, h]

/-- A command slot read after one was replaced. -/
theorem State.cmd_setCmd (s : State) (k j : Nat) (x : Cmd) : (s.setCmd k x).cmd j = if j = k then x else s.cmd j := by
  by_cases h : j = k
  · subst h
    simp [State.cmd, State.setCmd, Map.get_set_self]
  · simp [State.cmd, State.setCmd, Map.get_set_ne _ _ _ _ h, h]

end Sys2Proof.Machine
end

