-- ==== Sys2Proof/Laws/Touches.lean ====
section
/-!
SUPPORT. How `Touches` composes: reflexivity, one more operation, one more field updated, folds, and outcomes.
-/
namespace Sys2Proof.Machine
set_option Elab.async false

theorem Part.same_refl (p : Part) (s : State) : p.same s s := by cases p <;> simp [Part.same]

theorem Part.same_trans {p : Part} {a b c : State} (h : p.same a b) (k : p.same b c) : p.same a c := by
  cases p <;> simp only [Part.same] at h k ⊢
  all_goals first
    | exact k.trans h
    | exact fun x => (k x).trans (h x)

theorem Touches.refl {l : List Part} {s : State} : Touches l s s := ⟨fun p _ => p.same_refl s, id⟩

/-- One more operation, which touches only listed parts. -/
theorem Touches.step {l m : List Part} {a b c : State} (h : Touches l a b) (k : Touches m b c)
    (hm : m.all (l.contains ·) = true) : Touches l a c := by
  refine ⟨fun p hp => Part.same_trans (h.1 p hp) (k.1 p fun hq => hp ?_), fun w => k.2 (h.2 w)⟩
  exact List.contains_iff_mem.1 (List.all_eq_true.1 hm p hq)

/-- Fewer parts touched. -/
theorem Touches.mono {l m : List Part} {a b : State} (k : Touches m a b) (hm : m.all (l.contains ·) = true) :
    Touches l a b := Touches.refl.step k hm

/-- A choice. -/
theorem Touches.ite {l : List Part} {c : Prop} [Decidable c] {s a b : State} (h : Touches l s a) (k : Touches l s b) :
    Touches l s (if c then a else b) := by
  split
  · exact h
  · exact k

/-- The state of a pair. -/
theorem Touches.of_fst {α : Type} {l : List Part} {s a : State} {b : α} {x : State × α} (e : x = (a, b))
    (h : Touches l s x.1) : Touches l s a := by subst e; exact h

/-- The state of an outcome. -/
theorem Touches.of_next {l : List Part} {s a : State} {x : Result} (e : x = .next a) (h : TouchesR l s x) :
    Touches l s a := h a e

theorem TouchesR.next {l : List Part} {s t : State} (h : Touches l s t) : TouchesR l s (.next t) := by
  intro u e; cases e; exact h

theorem TouchesR.fault {l : List Part} {s : State} {f : Fault} : TouchesR l s (.fault f) := by intro u e; cases e

theorem TouchesR.step {l m : List Part} {a b : State} {r : Result} (h : Touches l a b) (k : TouchesR m b r)
    (hm : m.all (l.contains ·) = true) : TouchesR l a r := fun t e => h.step (k t e) hm

theorem TouchesR.andThen {l : List Part} {s : State} {r : Result} {f : State → Result} (h : TouchesR l s r)
    (k : ∀ t, Touches l s t → TouchesR l s (f t)) : TouchesR l s (andThen r f) := by
  intro u e
  cases r with
  | next t => exact k t (h t rfl) u e
  | fault _ => cases e
  | refused _ => cases e

/-- A fold of operations. -/
theorem Touches.foldl {α : Type} {l : List Part} {f : State → α → State} {a b : State} (xs : List α)
    (hf : ∀ s x, Touches l a s → Touches l a (f s x)) (h : Touches l a b) : Touches l a (xs.foldl f b) := by
  induction xs generalizing b with
  | nil => exact h
  | cons x xs ih => exact ih (hf b x h)

/-- A record update of some fields beside the memories. -/
theorem Touches.upd {l : List Part} {a s : State}
    {free : Nat}
    {out : List Out}
    {pins : Pins}
    {regs : Map Word}
    {lv : List (Nat × Word)}
    {check : Map (Option BadBits)}
    {flash : Map Byte}
    {cores : Map Core}
    {ctxs : Map Ctx}
    {patch : Patch}
    {events : BitVec 1024}
    {deliver : List Delivery}
    {frm : Frame}
    {ldr : Loader}
    {pair : Pair}
    {age : Planner}
    {host : HostIf}
    {snap : List Byte}
    {ports : Map Port}
    {timers : Map (Option Nat)}
    {clk : Clock}
    {mem recto verso : Map Word}
    (h : Touches l a s)
    (h_mem : mem = s.mem ∨ (l.contains .mem = true ∧ (s.wf = true → Memory.wf mem = true)) := by
      first | exact .inl (by with_reducible rfl) | exact .inr ⟨rfl, by assumption⟩ | exact .inr ⟨rfl, fun _ => rfl⟩)
    (h_recto : recto = s.recto ∨ (l.contains .recto = true ∧ (s.wf = true → Memory.wf recto = true)) := by
      first | exact .inl (by with_reducible rfl) | exact .inr ⟨rfl, by assumption⟩ | exact .inr ⟨rfl, fun _ => rfl⟩)
    (h_verso : verso = s.verso ∨ (l.contains .verso = true ∧ (s.wf = true → Memory.wf verso = true)) := by
      first | exact .inl (by with_reducible rfl) | exact .inr ⟨rfl, by assumption⟩ | exact .inr ⟨rfl, fun _ => rfl⟩)
    (h_free : free = s.free ∨ l.contains .free = true := by first | exact .inr rfl | exact .inl (by with_reducible rfl))
    (h_out : out = s.out ∨ l.contains .out = true := by first | exact .inr rfl | exact .inl (by with_reducible rfl))
    (h_pins : pins = s.pins ∨ l.contains .pins = true := by first | exact .inr rfl | exact .inl (by with_reducible rfl))
    (h_regs : regs = s.regs ∨ l.contains .regs = true := by first | exact .inr rfl | exact .inl (by with_reducible rfl))
    (h_lv : lv = s.lv ∨ l.contains .lv = true := by first | exact .inr rfl | exact .inl (by with_reducible rfl))
    (h_check : check = s.check ∨ l.contains .check = true := by first | exact .inr rfl | exact .inl (by with_reducible rfl))
    (h_flash : flash = s.flash ∨ l.contains .flash = true := by first | exact .inr rfl | exact .inl (by with_reducible rfl))
    (h_cores : cores = s.cores ∨ l.contains .cores = true := by first | exact .inr rfl | exact .inl (by with_reducible rfl))
    (h_ctxs : ctxs = s.ctxs ∨ l.contains .ctxs = true := by first | exact .inr rfl | exact .inl (by with_reducible rfl))
    (h_patch : patch = s.patch ∨ l.contains .patch = true := by first | exact .inr rfl | exact .inl (by with_reducible rfl))
    (h_events : events = s.events ∨ l.contains .events = true := by first | exact .inr rfl | exact .inl (by with_reducible rfl))
    (h_deliver : deliver = s.deliver ∨ l.contains .deliver = true := by first | exact .inr rfl | exact .inl (by with_reducible rfl))
    (h_frm : frm = s.frm ∨ l.contains .frm = true := by first | exact .inr rfl | exact .inl (by with_reducible rfl))
    (h_ldr : ldr = s.ldr ∨ l.contains .ldr = true := by first | exact .inr rfl | exact .inl (by with_reducible rfl))
    (h_pair : pair = s.pair ∨ l.contains .pair = true := by first | exact .inr rfl | exact .inl (by with_reducible rfl))
    (h_age : age = s.age ∨ l.contains .age = true := by first | exact .inr rfl | exact .inl (by with_reducible rfl))
    (h_host : host = s.host ∨ l.contains .host = true := by first | exact .inr rfl | exact .inl (by with_reducible rfl))
    (h_snap : snap = s.snap ∨ l.contains .snap = true := by first | exact .inr rfl | exact .inl (by with_reducible rfl))
    (h_ports : ports = s.ports ∨ l.contains .ports = true := by first | exact .inr rfl | exact .inl (by with_reducible rfl))
    (h_timers : timers = s.timers ∨ l.contains .timers = true := by first | exact .inr rfl | exact .inl (by with_reducible rfl))
    (h_clk : clk = s.clk ∨ l.contains .clk = true := by first | exact .inr rfl | exact .inl (by with_reducible rfl)) :
    Touches l a ⟨s.pending, free, out, pins, regs, lv, recto, verso, mem, check, flash, cores, ctxs, patch, events, deliver, frm, ldr, pair, age, host, snap, ports, timers, clk⟩ := by
  have mem {q : Part} (hq : l.contains q = true) : q ∈ l := List.contains_iff_mem.1 hq
  refine ⟨fun p hp => Part.same_trans (h.1 p hp) ?_, fun w => ?_⟩
  rotate_left
  · have ws := h.2 w
    have w3 := ws
    simp only [State.wf, Bool.and_eq_true] at w3 ⊢
    exact ⟨⟨h_mem.elim (fun e => e ▸ w3.1.1) fun e => e.2 ws, h_recto.elim (fun e => e ▸ w3.1.2) fun e => e.2 ws⟩,
      h_verso.elim (fun e => e ▸ w3.2) fun e => e.2 ws⟩
  cases p with
  | pending => rfl
  | free => exact h_free.elim id fun e => absurd (mem e) hp
  | out => exact h_out.elim id fun e => absurd (mem e) hp
  | pins => exact h_pins.elim id fun e => absurd (mem e) hp
  | regs => exact h_regs.elim id fun e => absurd (mem e) hp
  | lv => exact h_lv.elim id fun e => absurd (mem e) hp
  | recto => exact h_recto.elim id fun e => absurd (mem e.1) hp
  | verso => exact h_verso.elim id fun e => absurd (mem e.1) hp
  | mem => exact h_mem.elim (fun e b => by subst e; rfl) fun e => absurd (mem e.1) hp
  | check => exact h_check.elim id fun e => absurd (mem e) hp
  | flash => exact h_flash.elim id fun e => absurd (mem e) hp
  | cores => exact h_cores.elim id fun e => absurd (mem e) hp
  | ctxs => exact h_ctxs.elim id fun e => absurd (mem e) hp
  | patch => exact h_patch.elim id fun e => absurd (mem e) hp
  | events => exact h_events.elim id fun e => absurd (mem e) hp
  | deliver => exact h_deliver.elim id fun e => absurd (mem e) hp
  | frm => exact h_frm.elim id fun e => absurd (mem e) hp
  | ldr => exact h_ldr.elim id fun e => absurd (mem e) hp
  | pair => exact h_pair.elim id fun e => absurd (mem e) hp
  | age => exact h_age.elim id fun e => absurd (mem e) hp
  | host => exact h_host.elim id fun e => absurd (mem e) hp
  | snap => exact h_snap.elim id fun e => absurd (mem e) hp
  | ports => exact h_ports.elim id fun e => absurd (mem e) hp
  | timers => exact h_timers.elim id fun e => absurd (mem e) hp
  | clk => exact h_clk.elim id fun e => absurd (mem e) hp

/-- A state whose queue and memories keep their form. -/
theorem Touches.wf {l : List Part} {s t : State} (h : Touches l s t) (hs : s.wf) : t.wf := h.2 hs

theorem Touches.pending {l : List Part} {s t : State} (h : Touches l s t) (hp : Part.pending ∉ l) : t.pending = s.pending :=
  h.1 .pending hp

end Sys2Proof.Machine
end

