-- ==== Sys2Proof/Laws/TouchesOps.lean ====
section
/-!
SUPPORT. Which parts of the state each operation touches (Regs, Ops, Stores), and that it keeps the canonical form of
memory.
-/
namespace Sys2Proof.Machine
set_option Elab.async false

/-! ### Regs -/

theorem State.setReg_touches (s : State) (r : Nat) (v : Word) :
    Touches [.regs] s (State.setReg s r v) := by
  unfold State.setReg
  with_reducible refine Touches.upd ?_
  with_reducible exact Touches.refl

theorem State.setFld_touches (s : State) (r hi lo v : Nat) :
    Touches [.regs] s (State.setFld s r hi lo v) := by
  unfold State.setFld
  with_reducible refine Touches.step ?_ (State.setReg_touches ..) (by decide)
  with_reducible exact Touches.refl

theorem State.setFlag_touches (s : State) (r b : Nat) (v : Bool) :
    Touches [.regs] s (State.setFlag s r b v) := by
  unfold State.setFlag
  with_reducible refine Touches.step ?_ (State.setReg_touches ..) (by decide)
  with_reducible exact Touches.refl

theorem State.count_touches (s : State) (r hi lo n : Nat) :
    Touches [.regs] s (State.count s r hi lo n) := by
  unfold State.count
  with_reducible refine Touches.step ?_ (State.setFld_touches ..) (by decide)
  with_reducible exact Touches.refl


/-! ### Ops -/

theorem State.setCore_touches (s : State) (c : Nat) (k : Core) :
    Touches [.cores] s (State.setCore s c k) := by
  unfold State.setCore
  with_reducible refine Touches.upd ?_
  with_reducible exact Touches.refl

theorem State.onCore_touches (s : State) (c : Nat) (f : Core → Core) :
    Touches [.cores] s (State.onCore s c f) := by
  unfold State.onCore
  with_reducible refine Touches.step ?_ (State.setCore_touches ..) (by decide)
  with_reducible exact Touches.refl

theorem State.setCtx_touches (s : State) (t : Nat) (x : Ctx) :
    Touches [.ctxs] s (State.setCtx s t x) := by
  unfold State.setCtx
  with_reducible refine Touches.upd ?_
  with_reducible exact Touches.refl

theorem State.setSock_touches (s : State) (t n : Nat) (v : Word) :
    Touches [.ctxs] s (State.setSock s t n v) := by
  unfold State.setSock
  with_reducible refine Touches.step ?_ (State.setCtx_touches ..) (by decide)
  with_reducible exact Touches.refl

theorem State.setSocks_touches (s : State) (t : Nat) (x0 : List (Nat × Word)) :
    Touches [.ctxs] s (State.setSocks s t x0) := by
  induction x0 generalizing s t with
  | nil =>
    unfold State.setSocks
    with_reducible exact Touches.refl
  | cons a l ih =>
    unfold State.setSocks
    with_reducible refine Touches.step ?_ (ih ..) (by decide)
    with_reducible refine Touches.step ?_ (State.setSock_touches ..) (by decide)
    with_reducible exact Touches.refl

theorem State.spend_touches (s : State) :
    Touches [.free] s (State.spend s) := by
  unfold State.spend
  with_reducible refine Touches.upd ?_
  with_reducible exact Touches.refl

theorem State.emit_touches (s : State) (o : Out) :
    Touches [.out] s (State.emit s o) := by
  unfold State.emit
  with_reducible refine Touches.upd ?_
  with_reducible exact Touches.refl

theorem State.onPair_touches (s : State) (f : Pair → Pair) :
    Touches [.pair] s (State.onPair s f) := by
  unfold State.onPair
  with_reducible refine Touches.upd ?_
  with_reducible exact Touches.refl

theorem State.sendMsi_touches (s : State) (i : Nat) :
    Touches [.out, .host] s (State.sendMsi s i) := by
  unfold State.sendMsi
  split
  with_reducible exact Touches.refl
  with_reducible refine Touches.step ?_ (State.emit_touches ..) (by decide)
  with_reducible refine Touches.upd ?_
  with_reducible exact Touches.refl

theorem State.message_touches (s : State) (i : Nat) :
    Touches [.out, .host] s (State.message s i) := by
  unfold State.message
  split
  with_reducible exact Touches.refl
  split
  with_reducible refine Touches.upd ?_
  with_reducible exact Touches.refl
  with_reducible refine Touches.step ?_ (State.sendMsi_touches ..) (by decide)
  with_reducible exact Touches.refl

theorem State.cause_touches (s : State) (i : Nat) :
    Touches [.out, .regs, .host] s (State.cause s i) := by
  unfold State.cause
  dsimp only
  split
  split
  with_reducible refine Touches.step ?_ (State.message_touches ..) (by decide)
  with_reducible refine Touches.step ?_ (State.setFlag_touches ..) (by decide)
  with_reducible exact Touches.refl
  with_reducible refine Touches.step ?_ (State.setFlag_touches ..) (by decide)
  with_reducible exact Touches.refl
  split
  with_reducible refine Touches.step ?_ (State.message_touches ..) (by decide)
  with_reducible refine Touches.step ?_ (State.setFlag_touches ..) (by decide)
  with_reducible refine Touches.upd ?_
  with_reducible exact Touches.refl
  with_reducible refine Touches.step ?_ (State.setFlag_touches ..) (by decide)
  with_reducible refine Touches.upd ?_
  with_reducible exact Touches.refl

/-- FAULT_N's edge raises a host cause at most. -/
theorem faultEdge_touches (before after : State) : Touches [.out, .regs, .host] after (faultEdge before after) := by
  unfold faultEdge
  split
  · exact State.cause_touches ..
  · exact Touches.refl

theorem State.tick_touches (s : State) :
    Touches [.out, .regs, .host] s (State.tick s) := by
  unfold State.tick
  dsimp only
  split
  with_reducible refine Touches.step ?_ (State.cause_touches ..) (by decide)
  with_reducible exact Touches.refl
  with_reducible exact Touches.refl

theorem State.launch_touches (s : State) (b : Body) (fr : Byte) :
    Touches [.out, .pair] s (State.launch s b fr) := by
  unfold State.launch
  dsimp only
  with_reducible refine Touches.step ?_ (State.emit_touches ..) (by decide)
  with_reducible refine Touches.upd ?_
  with_reducible exact Touches.refl

theorem State.send_touches (s : State) (b : Body) (fr : Byte) :
    Touches [.out, .pair] s (State.send s b fr) := by
  unfold State.send
  split
  with_reducible exact Touches.refl
  split
  with_reducible refine Touches.step ?_ (State.launch_touches ..) (by decide)
  with_reducible exact Touches.refl
  with_reducible refine Touches.upd ?_
  with_reducible exact Touches.refl

theorem State.setPending_touches (s : State) (n : Nat) :
    Touches [.regs, .events] s (State.setPending s n) := by
  unfold State.setPending
  split
  with_reducible exact Touches.refl
  split
  with_reducible refine Touches.step ?_ (State.count_touches ..) (by decide)
  with_reducible exact Touches.refl
  with_reducible refine Touches.upd ?_
  with_reducible exact Touches.refl

theorem State.forward_touches (s : State) (n : Nat) :
    Touches [.out, .deliver, .pair] s (State.forward s n) := by
  unfold State.forward
  split
  with_reducible exact Touches.refl
  split
  with_reducible exact Touches.refl
  with_reducible refine Touches.step ?_ (State.send_touches ..) (by decide)
  with_reducible refine Touches.upd ?_
  with_reducible exact Touches.refl

theorem State.route_touches (s : State) (n : Nat) :
    Touches [.out, .regs, .events, .deliver, .pair] s (State.route s n) := by
  unfold State.route
  split
  with_reducible refine Touches.step ?_ (State.forward_touches ..) (by decide)
  with_reducible exact Touches.refl
  split
  with_reducible refine Touches.step ?_ (State.forward_touches ..) (by decide)
  with_reducible exact Touches.refl
  with_reducible refine Touches.step ?_ (State.setPending_touches ..) (by decide)
  with_reducible exact Touches.refl
  with_reducible exact Touches.refl
  with_reducible exact Touches.refl
  with_reducible exact Touches.refl
  with_reducible refine Touches.step ?_ (State.setPending_touches ..) (by decide)
  with_reducible exact Touches.refl

theorem State.occur_touches (s : State) (n : Nat) :
    Touches [.out, .regs, .events, .deliver, .pair, .host] s (State.occur s n) := by
  unfold State.occur
  dsimp only
  with_reducible refine Touches.step ?_ (State.route_touches ..) (by decide)
  split
  with_reducible refine Touches.step ?_ (State.cause_touches ..) (by decide)
  split
  with_reducible refine Touches.step ?_ (State.setFlag_touches ..) (by decide)
  with_reducible exact Touches.refl
  with_reducible exact Touches.refl
  split
  with_reducible refine Touches.step ?_ (State.setFlag_touches ..) (by decide)
  with_reducible exact Touches.refl
  with_reducible exact Touches.refl

theorem State.log_touches (s : State) (code src t addr : Nat) :
    Touches [.regs] s (State.log s code src t addr) := by
  unfold State.log
  dsimp only
  split
  with_reducible refine Touches.step ?_ (State.setReg_touches ..) (by decide)
  with_reducible refine Touches.step ?_ (State.setReg_touches ..) (by decide)
  with_reducible refine Touches.step ?_ (State.count_touches ..) (by decide)
  with_reducible refine Touches.step ?_ (State.setReg_touches ..) (by decide)
  with_reducible refine Touches.step ?_ (State.setReg_touches ..) (by decide)
  with_reducible exact Touches.refl
  with_reducible refine Touches.step ?_ (State.count_touches ..) (by decide)
  with_reducible refine Touches.step ?_ (State.setReg_touches ..) (by decide)
  with_reducible refine Touches.step ?_ (State.setReg_touches ..) (by decide)
  with_reducible exact Touches.refl

theorem State.countCE_touches (s : State) :
    Touches [.out, .regs, .events, .deliver, .pair, .host] s (State.countCE s) := by
  unfold State.countCE
  dsimp only
  split
  with_reducible refine Touches.step ?_ (State.occur_touches ..) (by decide)
  with_reducible refine Touches.step ?_ (State.count_touches ..) (by decide)
  with_reducible exact Touches.refl
  with_reducible refine Touches.step ?_ (State.count_touches ..) (by decide)
  with_reducible exact Touches.refl

theorem State.error_touches (s : State) (code src t addr : Nat) :
    Touches [.out, .regs, .events, .deliver, .pair, .host] s (State.error s code src t addr) := by
  unfold State.error
  dsimp only
  split
  with_reducible refine Touches.step ?_ (State.occur_touches ..) (by decide)
  split
  with_reducible refine Touches.upd ?_
  split
  split
  with_reducible refine Touches.step ?_ (State.countCE_touches ..) (by decide)
  with_reducible exact Touches.refl
  with_reducible refine Touches.step ?_ (State.log_touches ..) (by decide)
  with_reducible refine Touches.step ?_ (State.countCE_touches ..) (by decide)
  with_reducible exact Touches.refl
  split
  with_reducible exact Touches.refl
  with_reducible refine Touches.step ?_ (State.log_touches ..) (by decide)
  with_reducible exact Touches.refl
  split
  split
  with_reducible refine Touches.step ?_ (State.countCE_touches ..) (by decide)
  with_reducible exact Touches.refl
  with_reducible refine Touches.step ?_ (State.log_touches ..) (by decide)
  with_reducible refine Touches.step ?_ (State.countCE_touches ..) (by decide)
  with_reducible exact Touches.refl
  split
  with_reducible exact Touches.refl
  with_reducible refine Touches.step ?_ (State.log_touches ..) (by decide)
  with_reducible exact Touches.refl
  split
  with_reducible refine Touches.upd ?_
  split
  split
  with_reducible refine Touches.step ?_ (State.countCE_touches ..) (by decide)
  with_reducible exact Touches.refl
  with_reducible refine Touches.step ?_ (State.log_touches ..) (by decide)
  with_reducible refine Touches.step ?_ (State.countCE_touches ..) (by decide)
  with_reducible exact Touches.refl
  split
  with_reducible exact Touches.refl
  with_reducible refine Touches.step ?_ (State.log_touches ..) (by decide)
  with_reducible exact Touches.refl
  split
  split
  with_reducible refine Touches.step ?_ (State.countCE_touches ..) (by decide)
  with_reducible exact Touches.refl
  with_reducible refine Touches.step ?_ (State.log_touches ..) (by decide)
  with_reducible refine Touches.step ?_ (State.countCE_touches ..) (by decide)
  with_reducible exact Touches.refl
  split
  with_reducible exact Touches.refl
  with_reducible refine Touches.step ?_ (State.log_touches ..) (by decide)
  with_reducible exact Touches.refl

theorem State.poke_touches (s : State) (a : Nat) (v : Word) :
    Touches [.mem, .check] s (State.poke s a v) := by
  refine ⟨fun p hp => ?_, fun h => ?_⟩
  · cases p <;> first | rfl | exact absurd (by decide) hp
  · simp only [State.wf, Bool.and_eq_true] at h ⊢
    exact ⟨⟨Map.wf_set _ _ _ _ h.1.1, h.1.2⟩, h.2⟩

/-- A corrected word is written back with the value it has: no word of memory reads otherwise. -/
theorem State.rewrite_touches (s : State) (a : Nat) : Touches [.check] s (s.poke a (s.peek a)) := by
  refine ⟨fun p hp => ?_, (State.poke_touches s a (s.peek a)).2⟩
  cases p <;> first
    | rfl
    | exact absurd (by decide) hp
    | exact fun b => by simp only [State.peek_poke]; split <;> simp_all

theorem State.pokes_touches (s : State) (a : Nat) (x0 : List Word) :
    Touches [.mem, .check] s (State.pokes s a x0) := by
  induction x0 generalizing s a with
  | nil =>
    unfold State.pokes
    with_reducible exact Touches.refl
  | cons a l ih =>
    unfold State.pokes
    with_reducible refine Touches.step ?_ (ih ..) (by decide)
    with_reducible refine Touches.step ?_ (State.poke_touches ..) (by decide)
    with_reducible exact Touches.refl

theorem State.meet_touches (s : State) (code src t a : Nat) :
    Touches [.out, .regs, .check, .events, .deliver, .pair, .host] s (State.meet s code src t a).1 := by
  unfold State.meet
  split
  · exact Touches.refl
  · exact (Touches.mono (State.rewrite_touches s a) rfl).step (State.error_touches ..) rfl
  · exact Touches.mono (State.error_touches ..) rfl


theorem State.pokeMask_touches (s : State) (src t a : Nat) (v mask : Word) :
    Touches [.out, .regs, .mem, .check, .events, .deliver, .pair, .host] s (State.pokeMask s src t a v mask) := by
  unfold State.pokeMask
  split
  with_reducible refine Touches.step ?_ (State.poke_touches ..) (by decide)
  with_reducible refine Touches.step ?_ (Touches.of_fst (by assumption) (State.meet_touches ..)) (by decide)
  with_reducible exact Touches.refl
  with_reducible refine Touches.step ?_ (Touches.of_fst (by assumption) (State.meet_touches ..)) (by decide)
  with_reducible exact Touches.refl

theorem State.raise_touches (s : State) (c : Nat) (t : Trap) :
    Touches [.cores] s (State.raise s c t) := by
  unfold State.raise
  with_reducible refine Touches.step ?_ (State.onCore_touches ..) (by decide)
  with_reducible exact Touches.refl

theorem State.noteWait_touches (s : State) (n : Nat) :
    Touches [.regs] s (State.noteWait s n) := by
  unfold State.noteWait
  with_reducible refine Touches.step ?_ (State.setFld_touches ..) (by decide)
  with_reducible exact Touches.refl


/-! ### Stores -/

theorem State.enterStore_touches (s : State) (c : Nat) (st : Store) :
    Touches [.free, .cores] s (State.enterStore s c st) := by
  unfold State.enterStore
  dsimp only
  split
  with_reducible refine Touches.step ?_ (State.setCore_touches ..) (by decide)
  with_reducible exact Touches.refl
  split
  with_reducible refine Touches.step ?_ (State.spend_touches ..) (by decide)
  with_reducible exact Touches.refl
  with_reducible refine Touches.step ?_ (State.spend_touches ..) (by decide)
  with_reducible refine Touches.step ?_ (State.setCore_touches ..) (by decide)
  with_reducible exact Touches.refl

theorem State.perform_touches (s : State) (c : Nat) (st : Store) :
    Touches [.out, .regs, .mem, .check, .events, .deliver, .pair, .host] s (State.perform s c st) := by
  unfold State.perform
  split
  with_reducible refine Touches.step ?_ (State.pokeMask_touches ..) (by decide)
  with_reducible exact Touches.refl
  with_reducible refine Touches.step ?_ (State.poke_touches ..) (by decide)
  with_reducible exact Touches.refl

theorem State.drain_touches (s : State) (c : Nat) :
    Touches [.out, .regs, .mem, .check, .cores, .events, .deliver, .pair, .host] s (State.drain s c) := by
  unfold State.drain
  dsimp only
  with_reducible refine Touches.foldl _ (fun _ _ _ => ?_) ?_
  with_reducible refine Touches.step ?_ (State.perform_touches ..) (by decide)
  assumption
  with_reducible refine Touches.step ?_ (State.setCore_touches ..) (by decide)
  with_reducible exact Touches.refl

theorem State.performDue_touches (s : State) (c step : Nat) :
    Touches [.out, .regs, .mem, .check, .cores, .events, .deliver, .pair, .host] s (State.performDue s c step) := by
  unfold State.performDue
  dsimp only
  with_reducible refine Touches.foldl _ (fun _ _ _ => ?_) ?_
  with_reducible refine Touches.step ?_ (State.perform_touches ..) (by decide)
  assumption
  with_reducible refine Touches.step ?_ (State.setCore_touches ..) (by decide)
  with_reducible exact Touches.refl

theorem State.settle_touches (s : State) (c step x0 : Nat) :
    Touches [.out, .regs, .mem, .check, .cores, .events, .deliver, .pair, .host] s (State.settle s c step x0) := by
  induction x0 generalizing s c step with
  | zero =>
    unfold State.settle
    with_reducible refine Touches.step ?_ (State.performDue_touches ..) (by decide)
    with_reducible exact Touches.refl
  | succ n ih =>
    unfold State.settle
    dsimp only
    split
    with_reducible refine Touches.step ?_ (State.performDue_touches ..) (by decide)
    with_reducible exact Touches.refl
    split
    with_reducible refine Touches.step ?_ (ih ..) (by decide)
    with_reducible refine Touches.step ?_ (State.setCore_touches ..) (by decide)
    with_reducible exact Touches.refl
    with_reducible refine Touches.step ?_ (State.performDue_touches ..) (by decide)
    with_reducible exact Touches.refl

theorem State.dsuStore_touches (s : State) (c step : Nat) (st : Store) :
    Touches [.free, .out, .regs, .mem, .check, .cores, .events, .deliver, .pair, .host] s (State.dsuStore s c step st) := by
  unfold State.dsuStore
  with_reducible refine Touches.step ?_ (State.enterStore_touches ..) (by decide)
  with_reducible refine Touches.step ?_ (State.settle_touches ..) (by decide)
  with_reducible exact Touches.refl

end Sys2Proof.Machine
end

