-- ==== Sys2Proof/Laws/TouchesCore.lean ====
section
/-!
SUPPORT. Which parts of the state each operation touches (Beside, Micro, Take, Front, Predict, Start, Issue, Slot, Images, Sets, Queues, Complete, Blocks), and that it keeps the canonical form of
memory.
-/
namespace Sys2Proof.Machine
set_option Elab.async false

/-! ### Beside -/

theorem State.targetWord_touches (s : State) (c t a : Nat) (older : List Store) :
    Touches [.out, .regs, .check, .events, .deliver, .pair, .host] s (State.targetWord s c t a older).1 := by
  unfold State.targetWord
  split
  dsimp only
  with_reducible exact Touches.refl
  split
  dsimp only
  with_reducible refine Touches.step ?_ (Touches.of_fst (by assumption) (State.meet_touches ..)) (by decide)
  with_reducible exact Touches.refl
  dsimp only
  with_reducible refine Touches.step ?_ (Touches.of_fst (by assumption) (State.meet_touches ..)) (by decide)
  with_reducible exact Touches.refl

theorem State.readOwn_touches (s : State) (c t a : Nat) :
    Touches [.out, .regs, .check, .events, .deliver, .pair, .host] s (State.readOwn s c t a).1 := by
  unfold State.readOwn
  with_reducible refine Touches.step ?_ (State.targetWord_touches ..) (by decide)
  with_reducible exact Touches.refl

theorem State.issueElem_touches (s : State) (c t : Nat) (g : GatherRun) :
    Touches [.out, .regs, .check, .events, .deliver, .pair, .host] s (State.issueElem s c t g).1 := by
  unfold State.issueElem
  dsimp only
  split
  dsimp only
  with_reducible refine Touches.step ?_ (Touches.of_fst (by assumption) (State.meet_touches ..)) (by decide)
  with_reducible exact Touches.refl
  split
  dsimp only
  with_reducible refine Touches.step ?_ (Touches.of_fst (by assumption) (State.meet_touches ..)) (by decide)
  with_reducible exact Touches.refl
  split
  dsimp only
  with_reducible refine Touches.step ?_ (Touches.of_fst (by assumption) (State.meet_touches ..)) (by decide)
  with_reducible exact Touches.refl
  split
  dsimp only
  with_reducible refine Touches.step ?_ (Touches.of_fst (by assumption) (State.meet_touches ..)) (by decide)
  with_reducible exact Touches.refl
  dsimp only
  with_reducible refine Touches.step ?_ (Touches.of_fst (by assumption) (State.meet_touches ..)) (by decide)
  with_reducible exact Touches.refl
  split
  dsimp only
  with_reducible refine Touches.step ?_ (Touches.of_fst (by assumption) (State.meet_touches ..)) (by decide)
  with_reducible exact Touches.refl
  dsimp only
  with_reducible refine Touches.step ?_ (Touches.of_fst (by assumption) (State.meet_touches ..)) (by decide)
  with_reducible exact Touches.refl

theorem State.issueElems_touches (s : State) (c t upto x0 : Nat) (x1 : GatherRun) :
    Touches [.out, .regs, .check, .events, .deliver, .pair, .host] s (State.issueElems s c t upto x0 x1).1 := by
  induction x0 generalizing s c t upto x1 with
  | zero =>
    unfold State.issueElems
    dsimp only
    with_reducible exact Touches.refl
  | succ n ih =>
    unfold State.issueElems
    split
    dsimp only
    with_reducible exact Touches.refl
    split
    with_reducible refine Touches.step ?_ (ih ..) (by decide)
    with_reducible refine Touches.step ?_ (Touches.of_fst (by assumption) (State.issueElem_touches ..)) (by decide)
    with_reducible exact Touches.refl
    split
    dsimp only
    with_reducible refine Touches.step ?_ (Touches.of_fst (by assumption) (ih ..)) (by decide)
    with_reducible refine Touches.step ?_ (Touches.of_fst (by assumption) (State.issueElem_touches ..)) (by decide)
    with_reducible exact Touches.refl

theorem State.issueGathers_touches (s : State) (c t upto : Nat) (x0 : List GatherRun) :
    Touches [.out, .regs, .check, .events, .deliver, .pair, .host] s (State.issueGathers s c t upto x0).1 := by
  induction x0 generalizing s c t upto with
  | nil =>
    unfold State.issueGathers
    dsimp only
    with_reducible exact Touches.refl
  | cons a l ih =>
    unfold State.issueGathers
    split
    split
    dsimp only
    with_reducible refine Touches.step ?_ (Touches.of_fst (by assumption) (ih ..)) (by decide)
    with_reducible refine Touches.step ?_ (Touches.of_fst (by assumption) (State.issueElems_touches ..)) (by decide)
    with_reducible exact Touches.refl

theorem State.gatherTick_touches (s : State) (c upto : Nat) :
    Touches [.out, .regs, .check, .cores, .events, .deliver, .pair, .host] s (State.gatherTick s c upto) := by
  unfold State.gatherTick
  split
  with_reducible exact Touches.refl
  split
  with_reducible refine Touches.step ?_ (State.onCore_touches ..) (by decide)
  with_reducible refine Touches.step ?_ (Touches.of_fst (by assumption) (State.issueGathers_touches ..)) (by decide)
  with_reducible exact Touches.refl

theorem State.formResult_touches (s : State) (c t : Nat) (r : DsuRun) :
    Touches [.free] s (State.formResult s c t r).1 := by
  unfold State.formResult
  dsimp only
  split
  dsimp only
  with_reducible refine Touches.step ?_ (State.spend_touches ..) (by decide)
  with_reducible exact Touches.refl
  split
  dsimp only
  with_reducible exact Touches.refl
  dsimp only
  with_reducible exact Touches.refl
  dsimp only
  with_reducible exact Touches.refl

theorem State.readOperand_touches (s : State) (c t : Nat) (r : DsuRun) (g off : Nat) (last : Bool) (put : DsuRead → Word → DsuRead) :
    Touches [.free, .out, .regs, .check, .events, .deliver, .pair, .host] s (State.readOperand s c t r g off last put).1 := by
  unfold State.readOperand
  dsimp only
  split
  dsimp only
  with_reducible exact Touches.refl
  split
  dsimp only
  with_reducible exact Touches.refl
  split
  split
  dsimp only
  with_reducible refine Touches.step ?_ (State.spend_touches ..) (by decide)
  with_reducible exact Touches.refl
  dsimp only
  with_reducible exact Touches.refl
  split
  dsimp only
  with_reducible refine Touches.step ?_ (Touches.of_fst (by assumption) (State.targetWord_touches ..)) (by decide)
  with_reducible exact Touches.refl
  split
  dsimp only
  with_reducible refine Touches.step ?_ (State.spend_touches ..) (by decide)
  with_reducible refine Touches.step ?_ (Touches.of_fst (by assumption) (State.targetWord_touches ..)) (by decide)
  with_reducible exact Touches.refl
  dsimp only
  with_reducible refine Touches.step ?_ (Touches.of_fst (by assumption) (State.targetWord_touches ..)) (by decide)
  with_reducible exact Touches.refl
  split
  split
  dsimp only
  with_reducible refine Touches.step ?_ (Touches.of_fst (by assumption) (State.targetWord_touches ..)) (by decide)
  with_reducible exact Touches.refl
  split
  dsimp only
  with_reducible refine Touches.step ?_ (State.spend_touches ..) (by decide)
  with_reducible refine Touches.step ?_ (Touches.of_fst (by assumption) (State.targetWord_touches ..)) (by decide)
  with_reducible exact Touches.refl
  dsimp only
  with_reducible refine Touches.step ?_ (Touches.of_fst (by assumption) (State.targetWord_touches ..)) (by decide)
  with_reducible exact Touches.refl
  dsimp only
  with_reducible exact Touches.refl

theorem State.dsuStep_touches (s : State) (c t : Nat) (r : DsuRun) :
    Touches [.free, .out, .regs, .check, .events, .deliver, .pair, .host] s (State.dsuStep s c t r).1 := by
  unfold State.dsuStep
  dsimp only
  split
  with_reducible refine Touches.step ?_ (State.readOperand_touches ..) (by decide)
  with_reducible exact Touches.refl
  split
  with_reducible refine Touches.step ?_ (State.readOperand_touches ..) (by decide)
  with_reducible exact Touches.refl
  with_reducible refine Touches.step ?_ (State.formResult_touches ..) (by decide)
  with_reducible exact Touches.refl

theorem State.dsuSteps_touches (s : State) (c t upto x0 : Nat) (x1 : DsuRun) :
    Touches [.free, .out, .regs, .check, .events, .deliver, .pair, .host] s (State.dsuSteps s c t upto x0 x1).1 := by
  induction x0 generalizing s c t upto x1 with
  | zero =>
    unfold State.dsuSteps
    dsimp only
    with_reducible exact Touches.refl
  | succ n ih =>
    unfold State.dsuSteps
    split
    dsimp only
    with_reducible exact Touches.refl
    split
    with_reducible refine Touches.step ?_ (ih ..) (by decide)
    with_reducible refine Touches.step ?_ (Touches.of_fst (by assumption) (State.dsuStep_touches ..)) (by decide)
    with_reducible exact Touches.refl

theorem State.dsuTick_touches (s : State) (c upto : Nat) :
    Touches [.free, .out, .regs, .check, .cores, .events, .deliver, .pair, .host] s (State.dsuTick s c upto) := by
  unfold State.dsuTick
  split
  with_reducible exact Touches.refl
  split
  with_reducible refine Touches.step ?_ (State.onCore_touches ..) (by decide)
  with_reducible refine Touches.step ?_ (Touches.of_fst (by assumption) (State.dsuSteps_touches ..)) (by decide)
  with_reducible exact Touches.refl


/-! ### Take -/

theorem State.charge_touches (s : State) (c n : Nat) (stall : Bool) :
    Touches [.free, .out, .regs, .check, .cores, .events, .deliver, .pair, .host] s (State.charge s c n stall) := by
  unfold State.charge
  dsimp only
  split
  with_reducible refine Touches.step ?_ (State.count_touches ..) (by decide)
  with_reducible refine Touches.step ?_ (State.setFld_touches ..) (by decide)
  with_reducible refine Touches.step ?_ (State.onCore_touches ..) (by decide)
  with_reducible refine Touches.step ?_ (State.dsuTick_touches ..) (by decide)
  with_reducible refine Touches.step ?_ (State.gatherTick_touches ..) (by decide)
  with_reducible exact Touches.refl
  with_reducible refine Touches.step ?_ (State.setFld_touches ..) (by decide)
  with_reducible refine Touches.step ?_ (State.onCore_touches ..) (by decide)
  with_reducible refine Touches.step ?_ (State.dsuTick_touches ..) (by decide)
  with_reducible refine Touches.step ?_ (State.gatherTick_touches ..) (by decide)
  with_reducible exact Touches.refl

theorem State.chargeTo_touches (s : State) (c r : Nat) (stall : Bool) :
    Touches [.free, .out, .regs, .check, .cores, .events, .deliver, .pair, .host] s (State.chargeTo s c r stall) := by
  unfold State.chargeTo
  with_reducible refine Touches.step ?_ (State.charge_touches ..) (by decide)
  with_reducible exact Touches.refl

theorem State.logDiscards_touches (s : State) (c n : Nat) :
    Touches [.out, .regs, .events, .deliver, .pair, .host] s (State.logDiscards s c n) := by
  unfold State.logDiscards
  with_reducible refine Touches.foldl _ (fun _ _ _ => ?_) ?_
  split
  split
  split
  with_reducible refine Touches.step ?_ (State.error_touches ..) (by decide)
  assumption
  assumption
  split
  with_reducible refine Touches.step ?_ (State.error_touches ..) (by decide)
  assumption
  assumption
  assumption
  with_reducible exact Touches.refl

theorem State.flushFront_touches (s : State) (c n : Nat) :
    Touches [.out, .regs, .cores, .events, .deliver, .pair, .host] s (State.flushFront s c n) := by
  unfold State.flushFront
  with_reducible refine Touches.step ?_ (State.onCore_touches ..) (by decide)
  with_reducible refine Touches.step ?_ (State.logDiscards_touches ..) (by decide)
  with_reducible exact Touches.refl

theorem State.redirect_touches (s : State) (c n : Nat) (pc : PAddr) (m : Nat) :
    Touches [.out, .regs, .cores, .events, .deliver, .pair, .host] s (State.redirect s c n pc m) := by
  unfold State.redirect
  with_reducible refine Touches.step ?_ (State.onCore_touches ..) (by decide)
  with_reducible refine Touches.step ?_ (State.flushFront_touches ..) (by decide)
  with_reducible exact Touches.refl

theorem State.passTo_touches (s : State) (c n : Nat) :
    Touches [.free, .out, .regs, .check, .cores, .events, .deliver, .pair, .host] s (State.passTo s c n) := by
  unfold State.passTo
  split
  with_reducible refine Touches.step ?_ (State.chargeTo_touches ..) (by decide)
  with_reducible exact Touches.refl
  with_reducible refine Touches.step ?_ (State.onCore_touches ..) (by decide)
  with_reducible exact Touches.refl

theorem State.applyMode_touches (s : State) (c : Nat) :
    Touches [.out, .regs, .cores, .events, .deliver, .pair, .host] s (State.applyMode s c) := by
  unfold State.applyMode
  split
  with_reducible exact Touches.refl
  dsimp only
  split
  with_reducible refine Touches.step ?_ (State.onCore_touches ..) (by decide)
  with_reducible refine Touches.step ?_ (State.setFlag_touches ..) (by decide)
  with_reducible refine Touches.step ?_ (State.flushFront_touches ..) (by decide)
  with_reducible exact Touches.refl
  with_reducible refine Touches.step ?_ (State.onCore_touches ..) (by decide)
  with_reducible exact Touches.refl

theorem State.saveDsu_touches (s : State) (t : Nat) (r : DsuRun) (sp widx : Nat) :
    Touches [.mem, .check, .ctxs] s (State.saveDsu s t r sp widx) := by
  unfold State.saveDsu
  dsimp only
  with_reducible refine Touches.step ?_ (State.setCtx_touches ..) (by decide)
  with_reducible refine Touches.step ?_ (State.pokes_touches ..) (by decide)
  with_reducible refine Touches.step ?_ (State.poke_touches ..) (by decide)
  with_reducible refine Touches.step ?_ (State.pokes_touches ..) (by decide)
  with_reducible exact Touches.refl

theorem State.dsuWrite_touches (s : State) (c t trig step i : Nat) (x0 : List Word) :
    Touches [.free, .out, .regs, .mem, .check, .cores, .events, .deliver, .pair, .host] s (State.dsuWrite s c t trig step i x0) := by
  induction x0 generalizing s c t trig step i with
  | nil =>
    unfold State.dsuWrite
    with_reducible exact Touches.refl
  | cons a l ih =>
    unfold State.dsuWrite
    dsimp only
    with_reducible refine Touches.step ?_ (ih ..) (by decide)
    with_reducible refine Touches.step ?_ (State.dsuStore_touches ..) (by decide)
    with_reducible exact Touches.refl

theorem State.stopString_touches (s : State) (c t a : Nat) (r : DsuRun) :
    Touches [.free, .out, .regs, .mem, .check, .cores, .ctxs, .events, .deliver, .pair, .host] s (State.stopString s c t a r) := by
  unfold State.stopString
  dsimp only
  with_reducible refine Touches.upd ?_
  with_reducible refine Touches.step ?_ (State.saveDsu_touches ..) (by decide)
  with_reducible refine Touches.step ?_ (State.dsuWrite_touches ..) (by decide)
  with_reducible refine Touches.step ?_ (State.dsuSteps_touches ..) (by decide)
  with_reducible exact Touches.refl

theorem State.blockWord_touches (s : State) (c t : Nat) (op : DsuOp) (trig step : Nat) :
    Touches [.free, .out, .regs, .mem, .check, .cores, .ctxs, .events, .deliver, .pair, .host] s (State.blockWord s c t op trig step).1 := by
  unfold State.blockWord
  dsimp only
  split
  dsimp only
  with_reducible refine Touches.step ?_ (State.setSocks_touches ..) (by decide)
  with_reducible refine Touches.step ?_ (State.dsuStore_touches ..) (by decide)
  with_reducible exact Touches.refl
  dsimp only
  with_reducible refine Touches.step ?_ (State.setSocks_touches ..) (by decide)
  with_reducible refine Touches.step ?_ (State.dsuStore_touches ..) (by decide)
  with_reducible exact Touches.refl
  split
  dsimp only
  with_reducible exact Touches.refl
  dsimp only
  with_reducible refine Touches.step ?_ (State.setSocks_touches ..) (by decide)
  with_reducible exact Touches.refl

theorem State.blockWords_touches (s : State) (c t : Nat) (op : DsuOp) (trig i x0 : Nat) :
    Touches [.free, .out, .regs, .mem, .check, .cores, .ctxs, .events, .deliver, .pair, .host] s (State.blockWords s c t op trig i x0).1 := by
  induction x0 generalizing s c t op trig i with
  | zero =>
    unfold State.blockWords
    dsimp only
    with_reducible exact Touches.refl
  | succ n ih =>
    unfold State.blockWords
    split
    dsimp only
    with_reducible refine Touches.step ?_ (Touches.of_fst (by assumption) (State.blockWord_touches ..)) (by decide)
    with_reducible exact Touches.refl
    with_reducible refine Touches.step ?_ (ih ..) (by decide)
    with_reducible refine Touches.step ?_ (Touches.of_fst (by assumption) (State.blockWord_touches ..)) (by decide)
    with_reducible exact Touches.refl

theorem State.stopBlock_touches (s : State) (c t a : Nat) (r : DsuRun) :
    Touches [.free, .out, .regs, .mem, .check, .cores, .ctxs, .events, .deliver, .pair, .host] s (State.stopBlock s c t a r) := by
  unfold State.stopBlock
  split
  with_reducible exact Touches.refl
  with_reducible refine Touches.step ?_ (State.blockWords_touches ..) (by decide)
  with_reducible exact Touches.refl

theorem State.recordGather_touches (s : State) (t : Nat) (g : GatherRun) :
    Touches [.ctxs] s (State.recordGather s t g) := by
  unfold State.recordGather
  dsimp only
  with_reducible refine Touches.step ?_ (State.setCtx_touches ..) (by decide)
  with_reducible refine Touches.step ?_ (State.setSock_touches ..) (by decide)
  with_reducible exact Touches.refl

theorem State.abandon_touches (s : State) (c a : Nat) :
    Touches [.free, .out, .regs, .mem, .check, .cores, .ctxs, .events, .deliver, .pair, .host] s (State.abandon s c a) := by
  unfold State.abandon
  dsimp only
  with_reducible refine Touches.step ?_ (State.onCore_touches ..) (by decide)
  split
  with_reducible refine Touches.step ?_ (State.recordGather_touches ..) (by decide)
  split
  split
  with_reducible refine Touches.step ?_ (State.stopBlock_touches ..) (by decide)
  with_reducible exact Touches.refl
  with_reducible refine Touches.step ?_ (State.stopString_touches ..) (by decide)
  with_reducible exact Touches.refl
  with_reducible exact Touches.refl
  split
  split
  with_reducible refine Touches.step ?_ (State.stopBlock_touches ..) (by decide)
  with_reducible exact Touches.refl
  with_reducible refine Touches.step ?_ (State.stopString_touches ..) (by decide)
  with_reducible exact Touches.refl
  with_reducible exact Touches.refl

theorem State.requestReset_touches (s : State) (t : Nat) (slot : Option Nat) (from_ : Nat) :
    Touches [.frm] s (State.requestReset s t slot from_) := by
  unfold State.requestReset
  with_reducible refine Touches.upd ?_
  with_reducible exact Touches.refl

theorem State.forecast_touches (s : State) (c t slack : Nat) :
    Touches [.out, .regs, .events, .deliver, .pair, .host] s (State.forecast s c t slack) := by
  unfold State.forecast
  dsimp only
  split
  with_reducible refine Touches.step ?_ (State.occur_touches ..) (by decide)
  with_reducible refine Touches.step ?_ (State.setFlag_touches ..) (by decide)
  with_reducible refine Touches.step ?_ (State.setFld_touches ..) (by decide)
  with_reducible refine Touches.step ?_ (State.setFld_touches ..) (by decide)
  with_reducible exact Touches.refl
  with_reducible refine Touches.step ?_ (State.setFld_touches ..) (by decide)
  with_reducible refine Touches.step ?_ (State.setFld_touches ..) (by decide)
  with_reducible exact Touches.refl

theorem State.exit_touches (s : State) (c : Nat) :
    Touches [.free, .out, .regs, .mem, .check, .cores, .ctxs, .events, .deliver, .pair, .host] s (State.exit s c) := by
  unfold State.exit
  with_reducible refine Touches.step ?_ (State.onCore_touches ..) (by decide)
  with_reducible refine Touches.step ?_ (State.flushFront_touches ..) (by decide)
  with_reducible refine Touches.step ?_ (State.abandon_touches ..) (by decide)
  with_reducible exact Touches.refl

theorem State.stopTenant_touches (s : State) (c cause : Nat) :
    Touches [.free, .out, .regs, .mem, .check, .cores, .ctxs, .events, .deliver, .frm, .pair, .host] s (State.stopTenant s c cause) := by
  unfold State.stopTenant
  dsimp only
  split
  with_reducible refine Touches.step ?_ (State.requestReset_touches ..) (by decide)
  with_reducible refine Touches.step ?_ (State.forecast_touches ..) (by decide)
  with_reducible refine Touches.step ?_ (State.count_touches ..) (by decide)
  with_reducible refine Touches.step ?_ (State.setFld_touches ..) (by decide)
  with_reducible refine Touches.step ?_ (State.setFld_touches ..) (by decide)
  with_reducible refine Touches.step ?_ (State.exit_touches ..) (by decide)
  with_reducible exact Touches.refl
  with_reducible refine Touches.step ?_ (State.forecast_touches ..) (by decide)
  with_reducible refine Touches.step ?_ (State.count_touches ..) (by decide)
  with_reducible refine Touches.step ?_ (State.setFld_touches ..) (by decide)
  with_reducible refine Touches.step ?_ (State.setFld_touches ..) (by decide)
  with_reducible refine Touches.step ?_ (State.exit_touches ..) (by decide)
  with_reducible exact Touches.refl

theorem State.unpredict_touches (s : State) (c a : Nat) :
    Touches [.cores] s (State.unpredict s c a) := by
  unfold State.unpredict
  split
  with_reducible refine Touches.step ?_ (State.onCore_touches ..) (by decide)
  with_reducible exact Touches.refl
  with_reducible exact Touches.refl

theorem State.stackFault_touches (s : State) (c : Nat) (e : Entry) :
    Touches [.free, .out, .regs, .mem, .check, .cores, .ctxs, .events, .deliver, .frm, .pair, .host] s (State.stackFault s c e) := by
  unfold State.stackFault
  dsimp only
  split
  split
  with_reducible refine Touches.step ?_ (State.stopTenant_touches ..) (by decide)
  with_reducible refine Touches.step ?_ (State.charge_touches ..) (by decide)
  with_reducible refine Touches.step ?_ (State.abandon_touches ..) (by decide)
  with_reducible refine Touches.upd ?_
  with_reducible exact Touches.refl
  with_reducible refine Touches.step ?_ (State.stopTenant_touches ..) (by decide)
  with_reducible refine Touches.step ?_ (State.charge_touches ..) (by decide)
  with_reducible refine Touches.step ?_ (State.abandon_touches ..) (by decide)
  with_reducible refine Touches.upd ?_
  with_reducible exact Touches.refl
  split
  with_reducible refine Touches.step ?_ (State.stopTenant_touches ..) (by decide)
  with_reducible refine Touches.step ?_ (State.charge_touches ..) (by decide)
  with_reducible refine Touches.step ?_ (State.abandon_touches ..) (by decide)
  with_reducible exact Touches.refl
  with_reducible refine Touches.step ?_ (State.stopTenant_touches ..) (by decide)
  with_reducible refine Touches.step ?_ (State.charge_touches ..) (by decide)
  with_reducible refine Touches.step ?_ (State.abandon_touches ..) (by decide)
  with_reducible exact Touches.refl

theorem State.enter_touches (s : State) (c : Nat) (e : Entry) :
    Touches [.free, .out, .regs, .mem, .check, .cores, .ctxs, .events, .deliver, .frm, .pair, .host] s (State.enter s c e) := by
  unfold State.enter
  dsimp only
  split
  with_reducible refine Touches.step ?_ (State.stackFault_touches ..) (by decide)
  with_reducible exact Touches.refl
  with_reducible refine Touches.step ?_ (State.onCore_touches ..) (by decide)
  with_reducible refine Touches.step ?_ (State.redirect_touches ..) (by decide)
  split
  with_reducible refine Touches.step ?_ (State.applyMode_touches ..) (by decide)
  with_reducible refine Touches.step ?_ (State.setReg_touches ..) (by decide)
  with_reducible refine Touches.step ?_ (State.pokes_touches ..) (by decide)
  with_reducible refine Touches.step ?_ (State.abandon_touches ..) (by decide)
  with_reducible refine Touches.step ?_ (State.unpredict_touches ..) (by decide)
  with_reducible exact Touches.refl
  with_reducible refine Touches.step ?_ (State.setReg_touches ..) (by decide)
  with_reducible refine Touches.step ?_ (State.setReg_touches ..) (by decide)
  with_reducible refine Touches.step ?_ (State.applyMode_touches ..) (by decide)
  with_reducible refine Touches.step ?_ (State.setReg_touches ..) (by decide)
  with_reducible refine Touches.step ?_ (State.pokes_touches ..) (by decide)
  with_reducible refine Touches.step ?_ (State.abandon_touches ..) (by decide)
  with_reducible refine Touches.step ?_ (State.unpredict_touches ..) (by decide)
  with_reducible exact Touches.refl


/-! ### Front -/

theorem State.readCode_touches (s : State) (c t a : Nat) :
    Touches [.out, .regs, .check, .events, .deliver, .pair, .host] s (State.readCode s c t a).1 := by
  unfold State.readCode
  split
  dsimp only
  with_reducible exact Touches.refl
  dsimp only
  with_reducible refine Touches.step ?_ (State.error_touches ..) (by decide)
  with_reducible refine Touches.step ?_ (State.rewrite_touches ..) (by decide)
  with_reducible exact Touches.refl
  dsimp only
  with_reducible exact Touches.refl

theorem State.fetch_touches (s : State) (c t : Nat) (pc : PAddr) :
    Touches [.out, .regs, .check, .events, .deliver, .pair, .host] s (State.fetch s c t pc).1 := by
  unfold State.fetch
  split
  dsimp only
  with_reducible exact Touches.refl
  split
  split
  split
  dsimp only
  with_reducible refine Touches.step ?_ (Touches.of_fst (by assumption) (State.readCode_touches ..)) (by decide)
  with_reducible exact Touches.refl
  dsimp only
  with_reducible exact Touches.refl
  split
  dsimp only
  with_reducible exact Touches.refl
  split
  dsimp only
  with_reducible exact Touches.refl
  dsimp only
  with_reducible exact Touches.refl

theorem State.enqueueWord_touches (s : State) (c n : Nat) (pc : PAddr) (f : Fetched) :
    Touches [.cores] s (State.enqueueWord s c n pc f) := by
  unfold State.enqueueWord
  dsimp only
  with_reducible refine Touches.step ?_ (State.setCore_touches ..) (by decide)
  with_reducible exact Touches.refl

theorem State.secondWord_touches (s : State) (c t n : Nat) (pc : PAddr) (f : Fetched) :
    Touches [.out, .regs, .check, .cores, .events, .deliver, .pair, .host] s (State.secondWord s c t n pc f) := by
  unfold State.secondWord
  split
  split
  split
  with_reducible refine Touches.step ?_ (State.enqueueWord_touches ..) (by decide)
  with_reducible refine Touches.step ?_ (Touches.of_fst (by assumption) (State.fetch_touches ..)) (by decide)
  with_reducible exact Touches.refl
  with_reducible refine Touches.step ?_ (Touches.of_fst (by assumption) (State.fetch_touches ..)) (by decide)
  with_reducible exact Touches.refl
  with_reducible exact Touches.refl
  with_reducible exact Touches.refl

theorem State.fetchStep_touches (s : State) (c t n : Nat) :
    Touches [.out, .regs, .check, .cores, .events, .deliver, .pair, .host] s (State.fetchStep s c t n) := by
  unfold State.fetchStep
  dsimp only
  with_reducible refine Touches.step ?_ (State.onCore_touches ..) (by decide)
  split
  with_reducible exact Touches.refl
  split
  with_reducible refine Touches.step ?_ (State.secondWord_touches ..) (by decide)
  with_reducible refine Touches.step ?_ (State.enqueueWord_touches ..) (by decide)
  with_reducible refine Touches.step ?_ (Touches.of_fst (by assumption) (State.fetch_touches ..)) (by decide)
  with_reducible exact Touches.refl
  with_reducible refine Touches.step ?_ (State.onCore_touches ..) (by decide)
  with_reducible refine Touches.step ?_ (Touches.of_fst (by assumption) (State.fetch_touches ..)) (by decide)
  with_reducible exact Touches.refl

theorem State.runSteps_touches (s : State) (c t upto x0 : Nat) :
    Touches [.out, .regs, .check, .cores, .events, .deliver, .pair, .host] s (State.runSteps s c t upto x0) := by
  induction x0 generalizing s c t upto with
  | zero =>
    unfold State.runSteps
    with_reducible refine Touches.step ?_ (State.onCore_touches ..) (by decide)
    with_reducible exact Touches.refl
  | succ n ih =>
    unfold State.runSteps
    split
    with_reducible exact Touches.refl
    with_reducible refine Touches.step ?_ (ih ..) (by decide)
    with_reducible refine Touches.step ?_ (State.fetchStep_touches ..) (by decide)
    with_reducible exact Touches.refl

theorem State.runFront_touches (s : State) (c upto : Nat) :
    Touches [.out, .regs, .check, .cores, .events, .deliver, .pair, .host] s (State.runFront s c upto) := by
  unfold State.runFront
  with_reducible refine Touches.step ?_ (State.runSteps_touches ..) (by decide)
  with_reducible exact Touches.refl

theorem State.realign_touches (s : State) (c : Nat) :
    Touches [.cores] s (State.realign s c) := by
  unfold State.realign
  with_reducible refine Touches.step ?_ (State.onCore_touches ..) (by decide)
  with_reducible exact Touches.refl

theorem State.bringHead_touches (s : State) (c : Nat) :
    Touches [.out, .regs, .check, .cores, .events, .deliver, .pair, .host] s (State.bringHead s c) := by
  unfold State.bringHead
  dsimp only
  split
  with_reducible refine Touches.step ?_ (State.runFront_touches ..) (by decide)
  with_reducible refine Touches.step ?_ (State.runFront_touches ..) (by decide)
  with_reducible refine Touches.step ?_ (State.realign_touches ..) (by decide)
  with_reducible exact Touches.refl
  with_reducible refine Touches.step ?_ (State.runFront_touches ..) (by decide)
  with_reducible refine Touches.step ?_ (State.realign_touches ..) (by decide)
  with_reducible exact Touches.refl

theorem State.transfer_touches (s : State) (c step : Nat) (x : Transfer) (ck : Checkpoint) :
    Touches [.out, .regs, .cores, .events, .deliver, .pair, .host] s (State.transfer s c step x ck) := by
  unfold State.transfer
  dsimp only
  with_reducible refine Touches.step ?_ (State.onCore_touches ..) (by decide)
  split
  with_reducible exact Touches.refl
  with_reducible refine Touches.step ?_ (State.redirect_touches ..) (by decide)
  with_reducible exact Touches.refl

theorem State.readLine_touches (s : State) (c t a x0 : Nat) :
    Touches [.out, .regs, .check, .events, .deliver, .pair, .host] s (State.readLine s c t a x0).1 := by
  induction x0 generalizing s c t a with
  | zero =>
    unfold State.readLine
    dsimp only
    with_reducible exact Touches.refl
  | succ n ih =>
    unfold State.readLine
    split
    split
    dsimp only
    with_reducible refine Touches.step ?_ (Touches.of_fst (by assumption) (ih ..)) (by decide)
    with_reducible refine Touches.step ?_ (Touches.of_fst (by assumption) (State.readCode_touches ..)) (by decide)
    with_reducible exact Touches.refl

theorem State.fillLine_touches (s : State) (c line : Nat) :
    Touches [.free, .out, .regs, .check, .cores, .events, .deliver, .pair, .host] s (State.fillLine s c line) := by
  unfold State.fillLine
  split
  dsimp only
  split
  with_reducible refine Touches.step ?_ (State.setCore_touches ..) (by decide)
  with_reducible refine Touches.step ?_ (Touches.of_fst (by assumption) (State.readLine_touches ..)) (by decide)
  with_reducible exact Touches.refl
  with_reducible refine Touches.step ?_ (State.spend_touches ..) (by decide)
  with_reducible refine Touches.step ?_ (State.setCore_touches ..) (by decide)
  with_reducible refine Touches.step ?_ (Touches.of_fst (by assumption) (State.readLine_touches ..)) (by decide)
  with_reducible exact Touches.refl

theorem State.endMiss_touches (s : State) (c : Nat) (m : Miss) (wait : Nat) :
    Touches [.free, .out, .regs, .check, .cores, .events, .deliver, .pair, .host] s (State.endMiss s c m wait) := by
  unfold State.endMiss
  dsimp only
  with_reducible refine Touches.step ?_ (State.onCore_touches ..) (by decide)
  with_reducible refine Touches.step ?_ (State.fillLine_touches ..) (by decide)
  with_reducible exact Touches.refl


/-! ### Start -/

theorem State.launchOp_touches (s : State) (c : Nat) (f : Flight) :
    Touches [.cores] s (State.launchOp s c f) := by
  unfold State.launchOp
  with_reducible refine Touches.step ?_ (State.onCore_touches ..) (by decide)
  with_reducible exact Touches.refl

theorem State.faultAt_touches (s : State) (x : At) (code : Nat) (detail : Word) :
    Touches [.cores] s (State.faultAt s x code detail) := by
  unfold State.faultAt
  with_reducible refine Touches.step ?_ (State.raise_touches ..) (by decide)
  with_reducible exact Touches.refl

theorem State.hold_touches (s : State) (x : At) (h : Hold) :
    Touches [.cores] s (State.hold s x h) := by
  unfold State.hold
  with_reducible refine Touches.step ?_ (State.onCore_touches ..) (by decide)
  with_reducible exact Touches.refl

theorem startAlu_touches (x : At) (u : Fin 2) (op : AluOp) (w : Word) (s : State) :
    Touches [.cores] s (startAlu x u op w s) := by
  unfold startAlu
  dsimp only
  with_reducible refine Touches.step ?_ (State.launchOp_touches ..) (by decide)
  with_reducible exact Touches.refl

theorem startMul_touches (x : At) (op : MulOp) (w : Word) (s : State) :
    Touches [.cores] s (startMul x op w s) := by
  unfold startMul
  split
  with_reducible refine Touches.step ?_ (State.faultAt_touches ..) (by decide)
  with_reducible exact Touches.refl
  dsimp only
  split
  with_reducible refine Touches.step ?_ (State.hold_touches ..) (by decide)
  with_reducible refine Touches.step ?_ (State.launchOp_touches ..) (by decide)
  with_reducible exact Touches.refl
  with_reducible refine Touches.step ?_ (State.launchOp_touches ..) (by decide)
  with_reducible exact Touches.refl

theorem startFxu_touches (x : At) (u : Fin 2) (op : FxuOp) (w : Word) (s : State) :
    Touches [.cores] s (startFxu x u op w s) := by
  unfold startFxu
  with_reducible refine Touches.step ?_ (State.launchOp_touches ..) (by decide)
  with_reducible exact Touches.refl

theorem State.loadVia_touches (s : State) (x : At) (a : Nat) (mk : Seen → Flight) :
    Touches [.cores] s (State.loadVia s x a mk) := by
  unfold State.loadVia
  split
  dsimp only
  split
  with_reducible refine Touches.step ?_ (State.hold_touches ..) (by decide)
  with_reducible refine Touches.step ?_ (State.launchOp_touches ..) (by decide)
  with_reducible exact Touches.refl
  with_reducible refine Touches.step ?_ (State.launchOp_touches ..) (by decide)
  with_reducible exact Touches.refl
  with_reducible refine Touches.step ?_ (State.launchOp_touches ..) (by decide)
  with_reducible exact Touches.refl
  with_reducible refine Touches.step ?_ (State.hold_touches ..) (by decide)
  with_reducible exact Touches.refl

theorem State.atomicVia_touches (s : State) (x : At) (a : Nat) (f : Flight) :
    Touches [.cores] s (State.atomicVia s x a f) := by
  unfold State.atomicVia
  split
  with_reducible refine Touches.step ?_ (State.hold_touches ..) (by decide)
  with_reducible exact Touches.refl
  dsimp only
  split
  with_reducible refine Touches.step ?_ (State.hold_touches ..) (by decide)
  with_reducible refine Touches.step ?_ (State.launchOp_touches ..) (by decide)
  with_reducible exact Touches.refl
  with_reducible refine Touches.step ?_ (State.launchOp_touches ..) (by decide)
  with_reducible exact Touches.refl

theorem startBlu_touches (x : At) (u : Fin 2) (op : BluOp) (w : Word) (s : State) :
    Touches [.cores] s (startBlu x u op w s) := by
  unfold startBlu
  dsimp only
  split
  with_reducible refine Touches.step ?_ (State.launchOp_touches ..) (by decide)
  with_reducible exact Touches.refl
  split
  with_reducible refine Touches.step ?_ (State.faultAt_touches ..) (by decide)
  with_reducible exact Touches.refl
  split
  split
  with_reducible refine Touches.step ?_ (State.faultAt_touches ..) (by decide)
  with_reducible exact Touches.refl
  split
  with_reducible refine Touches.step ?_ (State.atomicVia_touches ..) (by decide)
  with_reducible exact Touches.refl
  split
  with_reducible refine Touches.step ?_ (State.launchOp_touches ..) (by decide)
  with_reducible exact Touches.refl
  with_reducible refine Touches.step ?_ (State.loadVia_touches ..) (by decide)
  with_reducible exact Touches.refl
  split
  with_reducible refine Touches.step ?_ (State.faultAt_touches ..) (by decide)
  with_reducible exact Touches.refl
  split
  with_reducible refine Touches.step ?_ (State.atomicVia_touches ..) (by decide)
  with_reducible exact Touches.refl
  split
  with_reducible refine Touches.step ?_ (State.launchOp_touches ..) (by decide)
  with_reducible exact Touches.refl
  with_reducible refine Touches.step ?_ (State.loadVia_touches ..) (by decide)
  with_reducible exact Touches.refl
  split
  with_reducible refine Touches.step ?_ (State.faultAt_touches ..) (by decide)
  with_reducible exact Touches.refl
  split
  with_reducible refine Touches.step ?_ (State.atomicVia_touches ..) (by decide)
  with_reducible exact Touches.refl
  split
  with_reducible refine Touches.step ?_ (State.launchOp_touches ..) (by decide)
  with_reducible exact Touches.refl
  with_reducible refine Touches.step ?_ (State.loadVia_touches ..) (by decide)
  with_reducible exact Touches.refl
  with_reducible refine Touches.step ?_ (State.faultAt_touches ..) (by decide)
  with_reducible exact Touches.refl

theorem startLsu_touches (x : At) (u : Fin 2) (op : LsuOp) (w : Word) (disp : BitVec 12) (s : State) :
    TouchesR [.free, .cores] s (startLsu x u op w disp s) := by
  unfold startLsu
  dsimp only
  split
  with_reducible refine TouchesR.next ?_
  with_reducible refine Touches.step ?_ (State.faultAt_touches ..) (by decide)
  with_reducible exact Touches.refl
  split
  exact TouchesR.fault
  split
  with_reducible refine TouchesR.next ?_
  with_reducible refine Touches.step ?_ (State.loadVia_touches ..) (by decide)
  with_reducible exact Touches.refl
  split
  with_reducible refine TouchesR.next ?_
  with_reducible refine Touches.step ?_ (State.hold_touches ..) (by decide)
  with_reducible refine Touches.step ?_ (State.enterStore_touches ..) (by decide)
  with_reducible exact Touches.refl
  with_reducible refine TouchesR.next ?_
  with_reducible refine Touches.step ?_ (State.enterStore_touches ..) (by decide)
  with_reducible exact Touches.refl
  with_reducible refine TouchesR.next ?_
  with_reducible refine Touches.step ?_ (State.atomicVia_touches ..) (by decide)
  with_reducible exact Touches.refl
  with_reducible refine TouchesR.next ?_
  with_reducible refine Touches.step ?_ (State.atomicVia_touches ..) (by decide)
  with_reducible exact Touches.refl

theorem State.clearGather_touches (s : State) (t : Nat) :
    Touches [.ctxs] s (State.clearGather s t) := by
  unfold State.clearGather
  dsimp only
  with_reducible refine Touches.step ?_ (State.setCtx_touches ..) (by decide)
  with_reducible refine Touches.step ?_ (State.setSock_touches ..) (by decide)
  with_reducible exact Touches.refl

theorem startGath_touches (x : At) (w : Word) (disp : BitVec 12) (s : State) :
    Touches [.cores, .ctxs] s (startGath x w disp s) := by
  unfold startGath
  dsimp only
  split
  with_reducible refine Touches.step ?_ (State.faultAt_touches ..) (by decide)
  with_reducible refine Touches.step ?_ (State.clearGather_touches ..) (by decide)
  with_reducible exact Touches.refl
  split
  split
  split
  with_reducible refine Touches.step ?_ (State.hold_touches ..) (by decide)
  with_reducible refine Touches.step ?_ (State.onCore_touches ..) (by decide)
  with_reducible refine Touches.step ?_ (State.setCtx_touches ..) (by decide)
  with_reducible refine Touches.step ?_ (State.setSock_touches ..) (by decide)
  with_reducible exact Touches.refl
  with_reducible refine Touches.step ?_ (State.onCore_touches ..) (by decide)
  with_reducible refine Touches.step ?_ (State.setCtx_touches ..) (by decide)
  with_reducible refine Touches.step ?_ (State.setSock_touches ..) (by decide)
  with_reducible exact Touches.refl
  split
  with_reducible refine Touches.step ?_ (State.hold_touches ..) (by decide)
  with_reducible refine Touches.step ?_ (State.onCore_touches ..) (by decide)
  with_reducible refine Touches.step ?_ (State.setCtx_touches ..) (by decide)
  with_reducible refine Touches.step ?_ (State.setSock_touches ..) (by decide)
  with_reducible exact Touches.refl
  with_reducible refine Touches.step ?_ (State.onCore_touches ..) (by decide)
  with_reducible refine Touches.step ?_ (State.setCtx_touches ..) (by decide)
  with_reducible refine Touches.step ?_ (State.setSock_touches ..) (by decide)
  with_reducible exact Touches.refl
  split
  split
  with_reducible refine Touches.step ?_ (State.hold_touches ..) (by decide)
  with_reducible refine Touches.step ?_ (State.onCore_touches ..) (by decide)
  with_reducible refine Touches.step ?_ (State.clearGather_touches ..) (by decide)
  with_reducible exact Touches.refl
  with_reducible refine Touches.step ?_ (State.onCore_touches ..) (by decide)
  with_reducible refine Touches.step ?_ (State.clearGather_touches ..) (by decide)
  with_reducible exact Touches.refl
  split
  with_reducible refine Touches.step ?_ (State.hold_touches ..) (by decide)
  with_reducible refine Touches.step ?_ (State.onCore_touches ..) (by decide)
  with_reducible refine Touches.step ?_ (State.clearGather_touches ..) (by decide)
  with_reducible exact Touches.refl
  with_reducible refine Touches.step ?_ (State.onCore_touches ..) (by decide)
  with_reducible refine Touches.step ?_ (State.clearGather_touches ..) (by decide)
  with_reducible exact Touches.refl

theorem startGtu_touches (x : At) (op : GtuOp) (w : Word) (disp : BitVec 12) (s : State) :
    Touches [.cores, .ctxs] s (startGtu x op w disp s) := by
  unfold startGtu
  split
  with_reducible refine Touches.step ?_ (startGath_touches ..) (by decide)
  with_reducible exact Touches.refl
  with_reducible refine Touches.step ?_ (State.clearGather_touches ..) (by decide)
  with_reducible exact Touches.refl

theorem State.readBlock_touches (s : State) (c t j : Nat) (o : ReadOut) :
    Touches [.out, .regs, .check, .events, .deliver, .pair, .host] s (State.readBlock s c t j o).1 := by
  unfold State.readBlock
  split
  dsimp only
  with_reducible refine Touches.step ?_ (State.meet_touches ..) (by decide)
  with_reducible exact Touches.refl
  dsimp only
  with_reducible exact Touches.refl

theorem State.blockSource_touches (s : State) (c t : Nat) (op : DsuOp) (k j : Nat) :
    Touches [.out, .regs, .check, .events, .deliver, .pair, .host] s (State.blockSource s c t op k j).1 := by
  unfold State.blockSource
  dsimp only
  split
  dsimp only
  with_reducible exact Touches.refl
  split
  dsimp only
  with_reducible exact Touches.refl
  split
  with_reducible refine Touches.step ?_ (State.readBlock_touches ..) (by decide)
  with_reducible exact Touches.refl
  dsimp only
  with_reducible exact Touches.refl
  with_reducible refine Touches.step ?_ (State.readBlock_touches ..) (by decide)
  with_reducible exact Touches.refl

theorem State.planBlock_touches (s : State) (c t : Nat) (op : DsuOp) (k : Nat) :
    Touches [.out, .regs, .check, .events, .deliver, .pair, .host] s (State.planBlock s c t op k).1 := by
  unfold State.planBlock
  dsimp only
  split
  dsimp only
  with_reducible refine Touches.step ?_ (Touches.of_fst (by assumption) (State.blockSource_touches ..)) (by decide)
  with_reducible exact Touches.refl
  dsimp only
  with_reducible refine Touches.step ?_ (Touches.of_fst (by assumption) (State.blockSource_touches ..)) (by decide)
  with_reducible exact Touches.refl
  split
  dsimp only
  with_reducible refine Touches.step ?_ (Touches.of_fst (by assumption) (State.blockSource_touches ..)) (by decide)
  with_reducible exact Touches.refl
  split
  dsimp only
  with_reducible refine Touches.step ?_ (Touches.of_fst (by assumption) (State.blockSource_touches ..)) (by decide)
  with_reducible exact Touches.refl
  dsimp only
  with_reducible refine Touches.step ?_ (Touches.of_fst (by assumption) (State.blockSource_touches ..)) (by decide)
  with_reducible exact Touches.refl
  dsimp only
  with_reducible refine Touches.step ?_ (Touches.of_fst (by assumption) (State.blockSource_touches ..)) (by decide)
  with_reducible exact Touches.refl

theorem State.dropContext_touches (s : State) (t : Nat) :
    Touches [.mem, .check, .ctxs] s (State.dropContext s t) := by
  unfold State.dropContext
  dsimp only
  with_reducible refine Touches.step ?_ (State.setCtx_touches ..) (by decide)
  split
  with_reducible refine Touches.step ?_ (State.poke_touches ..) (by decide)
  with_reducible exact Touches.refl
  with_reducible exact Touches.refl

theorem State.dsuStatus_touches (s : State) (t : Nat) (mchk : Bool) (lastop fcode : Nat) :
    Touches [.ctxs] s (State.dsuStatus s t mchk lastop fcode) := by
  unfold State.dsuStatus
  with_reducible refine Touches.step ?_ (State.setSock_touches ..) (by decide)
  with_reducible exact Touches.refl

theorem State.runDsu_touches (s : State) (x : At) (r : DsuRun) :
    Touches [.cores, .ctxs] s (State.runDsu s x r) := by
  unfold State.runDsu
  with_reducible refine Touches.step ?_ (State.onCore_touches ..) (by decide)
  with_reducible refine Touches.step ?_ (State.hold_touches ..) (by decide)
  with_reducible refine Touches.step ?_ (State.dsuStatus_touches ..) (by decide)
  with_reducible exact Touches.refl

theorem startDsu_touches (x : At) (op : DsuOp) (s : State) :
    TouchesR [.out, .regs, .mem, .check, .cores, .ctxs, .events, .deliver, .pair, .host] s (startDsu x op s) := by
  unfold startDsu
  dsimp only
  split
  split
  exact TouchesR.fault
  with_reducible refine TouchesR.next ?_
  with_reducible refine Touches.step ?_ (State.runDsu_touches ..) (by decide)
  with_reducible refine Touches.step ?_ (State.dropContext_touches ..) (by decide)
  with_reducible refine Touches.step ?_ (Touches.of_fst (by assumption) (State.planBlock_touches ..)) (by decide)
  with_reducible exact Touches.refl
  split
  with_reducible refine TouchesR.next ?_
  with_reducible refine Touches.step ?_ (State.faultAt_touches ..) (by decide)
  with_reducible refine Touches.step ?_ (State.dsuStatus_touches ..) (by decide)
  with_reducible refine Touches.step ?_ (State.dropContext_touches ..) (by decide)
  with_reducible exact Touches.refl
  split
  with_reducible refine TouchesR.next ?_
  with_reducible refine Touches.step ?_ (State.runDsu_touches ..) (by decide)
  with_reducible refine Touches.step ?_ (State.dropContext_touches ..) (by decide)
  with_reducible exact Touches.refl
  with_reducible refine TouchesR.next ?_
  with_reducible refine Touches.step ?_ (State.runDsu_touches ..) (by decide)
  with_reducible refine Touches.step ?_ (State.dropContext_touches ..) (by decide)
  with_reducible exact Touches.refl


/-! ### Issue -/

theorem State.setPtrs_touches (s : State) (t : Nat) (p : Nat → Nat) :
    Touches [.regs] s (State.setPtrs s t p) := by
  unfold State.setPtrs
  with_reducible refine Touches.foldl _ (fun _ _ _ => ?_) ?_
  split
  assumption
  with_reducible refine Touches.step ?_ (State.setFld_touches ..) (by decide)
  assumption
  with_reducible exact Touches.refl

theorem State.readSrc_touches (s : State) (c t i : Nat) (m : Move) :
    Touches [.out, .regs, .check, .events, .deliver, .pair, .host] s (State.readSrc s c t i m).1 := by
  unfold State.readSrc
  split
  dsimp only
  with_reducible exact Touches.refl
  split
  dsimp only
  with_reducible exact Touches.refl
  split
  dsimp only
  with_reducible refine Touches.step ?_ (Touches.of_fst (by assumption) (State.meet_touches ..)) (by decide)
  with_reducible exact Touches.refl
  dsimp only
  with_reducible refine Touches.step ?_ (Touches.of_fst (by assumption) (State.meet_touches ..)) (by decide)
  with_reducible exact Touches.refl

theorem State.readAll_touches (s : State) (c t x0 : Nat) (x1 : List Move) :
    Touches [.out, .regs, .check, .events, .deliver, .pair, .host] s (State.readAll s c t x0 x1).1 := by
  induction x1 generalizing s c t x0 with
  | nil =>
    unfold State.readAll
    dsimp only
    with_reducible exact Touches.refl
  | cons a l ih =>
    unfold State.readAll
    split
    split
    split
    dsimp only
    with_reducible refine Touches.step ?_ (Touches.of_fst (by assumption) (ih ..)) (by decide)
    with_reducible refine Touches.step ?_ (Touches.of_fst (by assumption) (State.readSrc_touches ..)) (by decide)
    with_reducible exact Touches.refl
    split
    dsimp only
    with_reducible refine Touches.step ?_ (Touches.of_fst (by assumption) (ih ..)) (by decide)
    with_reducible exact Touches.refl

theorem State.writeCore_touches (s : State) (c k : Nat) (v : Word) :
    Touches [.regs, .cores] s (State.writeCore s c k v) := by
  unfold State.writeCore
  split
  with_reducible refine Touches.step ?_ (State.onCore_touches ..) (by decide)
  with_reducible refine Touches.step ?_ (State.setFlag_touches ..) (by decide)
  with_reducible exact Touches.refl
  split
  with_reducible refine Touches.step ?_ (State.setReg_touches ..) (by decide)
  with_reducible exact Touches.refl
  with_reducible exact Touches.refl

theorem State.writeSock_touches (s : State) (c t step n i : Nat) (flg v : Word) :
    Touches [.regs, .cores, .ctxs] s (State.writeSock s c t step n i flg v) := by
  unfold State.writeSock
  split
  with_reducible refine Touches.step ?_ (State.setSock_touches ..) (by decide)
  with_reducible exact Touches.refl
  split
  with_reducible refine Touches.step ?_ (State.onCore_touches ..) (by decide)
  with_reducible refine Touches.step ?_ (State.setSock_touches ..) (by decide)
  with_reducible exact Touches.refl
  split
  with_reducible exact Touches.refl
  split
  with_reducible refine Touches.step ?_ (State.writeCore_touches ..) (by decide)
  with_reducible exact Touches.refl
  split
  with_reducible refine Touches.step ?_ (State.setSock_touches ..) (by decide)
  with_reducible exact Touches.refl
  split
  with_reducible refine Touches.step ?_ (State.setSock_touches ..) (by decide)
  with_reducible exact Touches.refl
  with_reducible refine Touches.step ?_ (State.setSock_touches ..) (by decide)
  with_reducible exact Touches.refl

theorem State.writeAll_touches (s : State) (c t step : Nat) (flg : Word) (x0 : Nat) (x1 : List (Move × Option Word)) :
    Touches [.regs, .mem, .check, .cores, .ctxs] s (State.writeAll s c t step flg x0 x1) := by
  induction x1 generalizing s c t step flg x0 with
  | nil =>
    unfold State.writeAll
    with_reducible exact Touches.refl
  | cons a l ih =>
    unfold State.writeAll
    rcases a with ⟨m, _ | v⟩ <;> dsimp only
    with_reducible refine Touches.step ?_ (ih ..) (by decide)
    with_reducible exact Touches.refl
    with_reducible refine Touches.step ?_ (ih ..) (by decide)
    split
    with_reducible refine Touches.step ?_ (State.poke_touches ..) (by decide)
    with_reducible exact Touches.refl
    split
    with_reducible exact Touches.refl
    with_reducible refine Touches.step ?_ (State.writeSock_touches ..) (by decide)
    with_reducible exact Touches.refl

theorem State.doTransfer_touches (s : State) (x : At) (r : Transfer) (ck : Checkpoint) :
    Touches [.out, .regs, .cores, .ctxs, .events, .deliver, .pair, .host] s (State.doTransfer s x r ck) := by
  unfold State.doTransfer
  dsimp only
  with_reducible refine Touches.step ?_ (State.transfer_touches ..) (by decide)
  split
  with_reducible refine Touches.step ?_ (State.setSock_touches ..) (by decide)
  with_reducible exact Touches.refl
  with_reducible exact Touches.refl

theorem State.readFrame_touches (s : State) (c t x0 x1 : Nat) :
    Touches [.out, .regs, .check, .events, .deliver, .pair, .host] s (State.readFrame s c t x0 x1).1 := by
  induction x1 generalizing s c t x0 with
  | zero =>
    unfold State.readFrame
    dsimp only
    with_reducible exact Touches.refl
  | succ n ih =>
    unfold State.readFrame
    split
    dsimp only
    with_reducible refine Touches.step ?_ (Touches.of_fst (by assumption) (State.readOwn_touches ..)) (by decide)
    with_reducible exact Touches.refl
    split
    dsimp only
    with_reducible refine Touches.step ?_ (Touches.of_fst (by assumption) (ih ..)) (by decide)
    with_reducible refine Touches.step ?_ (Touches.of_fst (by assumption) (State.readOwn_touches ..)) (by decide)
    with_reducible exact Touches.refl
    with_reducible refine Touches.step ?_ (ih ..) (by decide)
    with_reducible refine Touches.step ?_ (Touches.of_fst (by assumption) (State.readOwn_touches ..)) (by decide)
    with_reducible exact Touches.refl

theorem State.restore_touches (s : State) (c t step : Nat) (f : List Word) :
    Touches [.out, .regs, .cores, .ctxs, .events, .deliver, .pair, .host] s (State.restore s c t step f) := by
  unfold State.restore
  dsimp only
  with_reducible refine Touches.step ?_ (State.onCore_touches ..) (by decide)
  with_reducible refine Touches.step ?_ (State.redirect_touches ..) (by decide)
  with_reducible refine Touches.step ?_ (State.setSocks_touches ..) (by decide)
  with_reducible refine Touches.step ?_ (State.setReg_touches ..) (by decide)
  with_reducible exact Touches.refl

theorem startCtl_touches (x : At) (op : CtlOp) (w : Word) (s : State) :
    Touches [.out, .regs, .check, .cores, .ctxs, .events, .deliver, .pair, .host] s (startCtl x op w s) := by
  unfold startCtl
  split
  dsimp only
  split
  with_reducible exact Touches.refl
  with_reducible refine Touches.step ?_ (State.onCore_touches ..) (by decide)
  with_reducible exact Touches.refl
  dsimp only
  split
  with_reducible refine Touches.step ?_ (State.onCore_touches ..) (by decide)
  with_reducible exact Touches.refl
  with_reducible refine Touches.step ?_ (State.redirect_touches ..) (by decide)
  with_reducible refine Touches.step ?_ (State.onCore_touches ..) (by decide)
  with_reducible exact Touches.refl
  split
  with_reducible refine Touches.step ?_ (State.faultAt_touches ..) (by decide)
  with_reducible refine Touches.step ?_ (Touches.of_fst (by assumption) (State.readFrame_touches ..)) (by decide)
  with_reducible exact Touches.refl
  with_reducible refine Touches.step ?_ (State.restore_touches ..) (by decide)
  with_reducible refine Touches.step ?_ (Touches.of_fst (by assumption) (State.readFrame_touches ..)) (by decide)
  with_reducible exact Touches.refl
  split
  with_reducible refine Touches.step ?_ (State.occur_touches ..) (by decide)
  with_reducible exact Touches.refl
  with_reducible refine Touches.step ?_ (State.faultAt_touches ..) (by decide)
  with_reducible exact Touches.refl
  with_reducible exact Touches.refl

theorem startTrigger_touches (x : At) (m : Move) (tr : Trigger) (w : Word) (s : State) :
    TouchesR [.free, .out, .regs, .mem, .check, .cores, .ctxs, .events, .deliver, .pair, .host] s (startTrigger x m tr w s) := by
  unfold startTrigger
  split
  with_reducible refine TouchesR.next ?_
  with_reducible refine Touches.step ?_ (startAlu_touches ..) (by decide)
  with_reducible exact Touches.refl
  with_reducible refine TouchesR.next ?_
  with_reducible refine Touches.step ?_ (startMul_touches ..) (by decide)
  with_reducible exact Touches.refl
  with_reducible refine TouchesR.next ?_
  with_reducible refine Touches.step ?_ (startFxu_touches ..) (by decide)
  with_reducible exact Touches.refl
  with_reducible refine TouchesR.next ?_
  with_reducible refine Touches.step ?_ (startBlu_touches ..) (by decide)
  with_reducible exact Touches.refl
  with_reducible refine TouchesR.step ?_ (startLsu_touches ..) (by decide)
  with_reducible exact Touches.refl
  with_reducible refine TouchesR.next ?_
  with_reducible refine Touches.step ?_ (startGtu_touches ..) (by decide)
  with_reducible exact Touches.refl
  with_reducible refine TouchesR.step ?_ (startDsu_touches ..) (by decide)
  with_reducible exact Touches.refl
  split
  with_reducible refine TouchesR.next ?_
  with_reducible refine Touches.step ?_ (State.doTransfer_touches ..) (by decide)
  with_reducible exact Touches.refl
  with_reducible refine TouchesR.next ?_
  with_reducible refine Touches.step ?_ (startCtl_touches ..) (by decide)
  with_reducible exact Touches.refl

theorem startAll_touches (c t step : Nat) (flg : Word) (x0 : List (Move × Option Word)) (x1 : State) :
    TouchesR [.free, .out, .regs, .mem, .check, .cores, .ctxs, .events, .deliver, .pair, .host] x1 (startAll c t step flg x0 x1) := by
  induction x0 generalizing c t step flg x1 with
  | nil =>
    unfold startAll
    with_reducible refine TouchesR.next ?_
    with_reducible exact Touches.refl
  | cons a l ih =>
    unfold startAll
    dsimp only
    split
    with_reducible refine TouchesR.andThen ?_ (fun _ _ => ?_)
    with_reducible refine TouchesR.step ?_ (startTrigger_touches ..) (by decide)
    with_reducible exact Touches.refl
    with_reducible refine TouchesR.step ?_ (ih ..) (by decide)
    assumption
    split
    split
    with_reducible refine TouchesR.step ?_ (ih ..) (by decide)
    with_reducible exact Touches.refl
    with_reducible refine TouchesR.step ?_ (ih ..) (by decide)
    with_reducible refine Touches.step ?_ (State.doTransfer_touches ..) (by decide)
    with_reducible exact Touches.refl
    with_reducible refine TouchesR.step ?_ (ih ..) (by decide)
    with_reducible exact Touches.refl
    with_reducible refine TouchesR.step ?_ (ih ..) (by decide)
    with_reducible exact Touches.refl

theorem State.trapWord_touches (s : State) (c code sk phys : Nat) (detail : Word) :
    Touches [.cores] s (State.trapWord s c code sk phys detail) := by
  unfold State.trapWord
  with_reducible refine Touches.step ?_ (State.raise_touches ..) (by decide)
  with_reducible exact Touches.refl

theorem State.popFront_touches (s : State) (c n step : Nat) (next : PAddr) :
    Touches [.out, .regs, .check, .cores, .events, .deliver, .pair, .host] s (State.popFront s c n step next) := by
  unfold State.popFront
  with_reducible refine Touches.step ?_ (State.runFront_touches ..) (by decide)
  with_reducible refine Touches.step ?_ (State.onCore_touches ..) (by decide)
  with_reducible exact Touches.refl

theorem State.issued_touches (s : State) (c n moves : Nat) :
    Touches [.free, .out, .regs, .check, .cores, .events, .deliver, .pair, .host] s (State.issued s c n moves) := by
  unfold State.issued
  dsimp only
  with_reducible refine Touches.step ?_ (State.charge_touches ..) (by decide)
  with_reducible refine Touches.step ?_ (State.onCore_touches ..) (by decide)
  split
  with_reducible refine Touches.step ?_ (State.count_touches ..) (by decide)
  with_reducible refine Touches.step ?_ (State.count_touches ..) (by decide)
  with_reducible exact Touches.refl
  with_reducible refine Touches.step ?_ (State.count_touches ..) (by decide)
  with_reducible exact Touches.refl

theorem State.windowFaults_touches (s : State) (c : Nat) (x0 : List (Move × Option Word)) :
    Touches [.cores] s (State.windowFaults s c x0) := by
  induction x0 generalizing s c with
  | nil =>
    unfold State.windowFaults
    with_reducible exact Touches.refl
  | cons a l ih =>
    unfold State.windowFaults
    split
    with_reducible refine Touches.step ?_ (ih ..) (by decide)
    with_reducible refine Touches.step ?_ (State.raise_touches ..) (by decide)
    with_reducible exact Touches.refl
    with_reducible refine Touches.step ?_ (ih ..) (by decide)
    with_reducible exact Touches.refl

theorem State.spendIssue_touches (s : State) (c : Nat) (ms : List Move) :
    Touches [.free] s (State.spendIssue s c ms) := by
  unfold State.spendIssue
  dsimp only
  split
  with_reducible refine Touches.upd ?_
  with_reducible exact Touches.refl
  with_reducible exact Touches.refl

theorem State.dueMode_touches (s : State) (c : Nat) :
    Touches [.out, .regs, .cores, .events, .deliver, .pair, .host] s (State.dueMode s c) := by
  unfold State.dueMode
  split
  split
  with_reducible refine Touches.step ?_ (State.applyMode_touches ..) (by decide)
  with_reducible exact Touches.refl
  with_reducible exact Touches.refl
  with_reducible exact Touches.refl

theorem State.await_touches (s : State) (c : Nat) (w : FWord) :
    Touches [.free, .out, .regs, .check, .cores, .events, .deliver, .pair, .host] s (State.await s c w) := by
  unfold State.await
  with_reducible refine Touches.step ?_ (State.runFront_touches ..) (by decide)
  with_reducible refine Touches.step ?_ (State.chargeTo_touches ..) (by decide)
  with_reducible exact Touches.refl

theorem State.fetchTrap_touches (s : State) (c code phys : Nat) (d : Word) :
    Touches [.out, .regs, .cores, .events, .deliver, .pair, .host] s (State.fetchTrap s c code phys d) := by
  unfold State.fetchTrap
  split
  with_reducible refine Touches.step ?_ (State.raise_touches ..) (by decide)
  with_reducible refine Touches.step ?_ (State.error_touches ..) (by decide)
  with_reducible exact Touches.refl
  with_reducible refine Touches.step ?_ (State.trapWord_touches ..) (by decide)
  with_reducible exact Touches.refl

/-- A preparation touches only the listed parts. -/
def Prep.touches (l : List Part) (s : State) (p : Prep) : Prop :=
  (∀ u, p = .held u → Touches l s u) ∧ ∀ r, p = .ready r → Touches l s r.s

theorem Prep.touches_idle {l : List Part} {s : State} : Prep.touches l s .idle :=
  ⟨fun _ e => by (cases e), fun _ e => by (cases e)⟩

theorem Prep.touches_gone {l : List Part} {s : State} {a : Nat} : Prep.touches l s (.gone a) :=
  ⟨fun _ e => by (cases e), fun _ e => by (cases e)⟩

theorem Prep.touches_held {l : List Part} {s u : State} (h : Touches l s u) : Prep.touches l s (.held u) :=
  ⟨fun _ e => by cases e; exact h, fun _ e => by (cases e)⟩

theorem Prep.touches_ready {l : List Part} {s : State} {r : Ready} (h : Touches l s r.s) : Prep.touches l s (.ready r) :=
  ⟨fun _ e => by (cases e), fun _ e => by cases e; exact h⟩

theorem Prep.touches_step {l m : List Part} {a s : State} {p : Prep} (h : Touches l a s) (k : Prep.touches m s p)
    (hm : m.all (l.contains ·) = true) : Prep.touches l a p :=
  ⟨fun u e => h.step (k.1 u e) hm, fun r e => h.step (k.2 r e) hm⟩

theorem State.prepareMoves_touches (s : State) (c t : Nat) (pc : PAddr) (n : Nat) (ms : List Move) :
    Prep.touches [.free, .out, .regs, .check, .cores, .events, .deliver, .pair, .host] s
      (s.prepareMoves c t pc n ms) := by
  unfold State.prepareMoves
  dsimp only
  split
  · exact Prep.touches_held (Touches.mono (State.trapWord_touches ..) (by decide))
  · exact Prep.touches_gone
  · split
    · exact Prep.touches_held (Touches.mono (State.onCore_touches ..) (by decide))
    · split
      · exact Prep.touches_held (Touches.mono (State.trapWord_touches ..) (by decide))
      · refine Prep.touches_ready (Touches.step ?_ (State.spendIssue_touches ..) (by decide))
        refine Touches.step ?_ (State.setPtrs_touches ..) (by decide)
        exact Touches.mono (State.readAll_touches ..) (by decide)

/-- Everything the head of the front end can touch before its word acts. -/
theorem prepareHead_touches (sel : List Mv → Bool) (c : Nat) (w : FWord) (l : List FWord) (s : State) :
    Prep.touches [.free, .out, .regs, .check, .cores, .events, .deliver, .pair, .host] s (prepareHead sel c w l s) := by
  unfold prepareHead
  dsimp only
  split
  · exact Prep.touches_gone
  · exact Prep.touches_held (Touches.mono (State.fetchTrap_touches ..) (by decide))
  · split
    · exact Prep.touches_held (Touches.mono (State.trapWord_touches ..) (by decide))
    · split
      · exact Prep.touches_idle
      · exact State.prepareMoves_touches ..

/-- Everything the preparation of an issue can touch; memory and the contexts are not among it. -/
theorem prepare_touches (sel : List Mv → Bool) (c : Nat) (s : State) :
    Prep.touches [.free, .out, .regs, .check, .cores, .events, .deliver, .pair, .host] s (prepare sel c s) := by
  unfold prepare
  split
  · exact Prep.touches_idle
  · have hu : Touches [.free, .out, .regs, .check, .cores, .events, .deliver, .pair, .host] s ((s.dueMode c).bringHead c) :=
      (Touches.mono (State.dueMode_touches s c) (by decide)).step (State.bringHead_touches ..) (by decide)
    generalize (s.dueMode c).bringHead c = u at hu ⊢
    dsimp only
    split
    · exact Prep.touches_held hu
    · split
      · exact Prep.touches_held hu
      · split
        · exact Prep.touches_idle
        · rename_i w _ _ _ _
          have hv := hu.step (State.await_touches u c w) (by decide)
          split
          · exact Prep.touches_step hv (prepareHead_touches ..) (by decide)
          · exact Prep.touches_held hv

/-- Everything the writes of an issue can touch. -/
theorem Ready.written_touches (r : Ready) (c : Nat) :
    Touches [.free, .out, .regs, .mem, .check, .cores, .ctxs, .events, .deliver, .pair, .host] r.s (r.written c) := by
  unfold Ready.written
  dsimp only
  refine Touches.step ?_ (State.windowFaults_touches ..) (by decide)
  have h : Touches [.free, .out, .regs, .mem, .check, .cores, .ctxs, .events, .deliver, .pair, .host] r.s
      (((r.s.popFront c r.n r.step (pcAdd r.pc r.n)).writeAll c r.t r.step r.flg 0 r.vs).issued c r.n r.vs.length) :=
    ((Touches.mono (State.popFront_touches ..) (by decide)).step (State.writeAll_touches ..) (by decide)).step
      (State.issued_touches ..) (by decide)
  split
  · exact h.step (State.onCore_touches ..) (by decide)
  · exact h

/-- Everything an issue that acts can touch. -/
theorem Ready.run_touches (r : Ready) (c : Nat) :
    TouchesR [.free, .out, .regs, .mem, .check, .cores, .ctxs, .events, .deliver, .pair, .host] r.s (r.run c) := by
  unfold Ready.run
  with_reducible exact TouchesR.step (Ready.written_touches r c) (startAll_touches ..) (by decide)

theorem issueWord_touches (sel : List Mv → Bool) (c : Nat) (s : State) :
    TouchesR [.free, .out, .regs, .mem, .check, .cores, .ctxs, .events, .deliver, .pair, .host] s (issueWord sel c s) := by
  unfold issueWord
  split
  · exact TouchesR.next Touches.refl
  · exact TouchesR.next (Touches.mono ((prepare_touches sel c s).1 _ (by assumption)) (by decide))
  · exact TouchesR.fault
  · rename_i r e
    exact TouchesR.step (Touches.mono ((prepare_touches sel c s).2 r e) (by decide)) (Ready.run_touches r c) (by decide)

theorem issue_touches (op : Op) (c : Nat) (s : State) :
    TouchesR [.free, .out, .regs, .mem, .check, .cores, .ctxs, .events, .deliver, .pair, .host] s (issue op c s) := by
  unfold issue
  with_reducible refine TouchesR.step ?_ (issueWord_touches ..) (by decide)
  with_reducible exact Touches.refl


/-! ### Images -/

theorem State.copyWords_touches (s : State) (x0 : List (Nat × Nat)) :
    Touches [.mem, .check] s (State.copyWords s x0) := by
  induction x0 generalizing s with
  | nil =>
    unfold State.copyWords
    with_reducible exact Touches.refl
  | cons a l ih =>
    unfold State.copyWords
    with_reducible refine Touches.step ?_ (ih ..) (by decide)
    with_reducible refine Touches.step ?_ (State.poke_touches ..) (by decide)
    with_reducible exact Touches.refl


/-! ### Sets -/

theorem State.setActive_touches (s : State) (m : Map Word) (h : s.wf = true → Memory.wf m = true) :
    Touches [.recto, .verso] s (State.setActive s m) := by
  unfold State.setActive
  split
  with_reducible refine Touches.upd ?_
  with_reducible exact Touches.refl
  with_reducible refine Touches.upd ?_
  with_reducible exact Touches.refl

theorem State.setShadow_touches (s : State) (m : Map Word) (h : s.wf = true → Memory.wf m = true) :
    Touches [.recto, .verso] s (State.setShadow s m) := by
  unfold State.setShadow
  split
  with_reducible refine Touches.upd ?_
  with_reducible exact Touches.refl
  with_reducible refine Touches.upd ?_
  with_reducible exact Touches.refl

/-- The views of the two sets are canonical where the sets are. -/
theorem State.wf_active {s : State} (h : s.wf = true) : Memory.wf s.active = true := by
  simp only [State.wf, Bool.and_eq_true] at h
  unfold State.active
  split
  · exact h.2
  · exact h.1.2

theorem State.wf_shadow {s : State} (h : s.wf = true) : Memory.wf s.shadow = true := by
  simp only [State.wf, Bool.and_eq_true] at h
  unfold State.shadow
  split
  · exact h.1.2
  · exact h.2

theorem Memory.wf_set {m : Map Word} (k : Nat) (v : Word) (h : Memory.wf m = true) : Memory.wf (m.set k 0 v) = true :=
  Map.wf_set _ _ _ _ h

/-- A set filled word by word is canonical. -/
theorem Memory.wf_fill {α : Type} (f : α → Nat) (g : α → Word) (l : List α) {m : Map Word} (h : Memory.wf m = true) :
    Memory.wf (l.foldl (fun (m : Map Word) x => m.set (f x) 0 (g x)) m) = true := by
  induction l generalizing m with
  | nil => exact h
  | cons a l ih => exact ih (Memory.wf_set _ _ h)


/-! ### Queues -/

theorem State.rmw_touches (s : State) (src a : Nat) (f : Word → Word) :
    Touches [.out, .regs, .mem, .check, .events, .deliver, .pair, .host] s (State.rmw s src a f).1 := by
  unfold State.rmw
  split
  dsimp only
  with_reducible refine Touches.step ?_ (State.poke_touches ..) (by decide)
  with_reducible refine Touches.step ?_ (Touches.of_fst (by assumption) (State.meet_touches ..)) (by decide)
  with_reducible exact Touches.refl
  dsimp only
  with_reducible refine Touches.step ?_ (Touches.of_fst (by assumption) (State.meet_touches ..)) (by decide)
  with_reducible exact Touches.refl

theorem State.flushQueue_touches (s : State) (src h : Nat) :
    Touches [.out, .regs, .mem, .check, .events, .deliver, .pair, .host] s (State.flushQueue s src h) := by
  unfold State.flushQueue
  split
  with_reducible refine Touches.step ?_ (Touches.of_fst (by assumption) (State.rmw_touches ..)) (by decide)
  with_reducible exact Touches.refl
  dsimp only
  split
  with_reducible refine Touches.step ?_ (Touches.of_fst (by assumption) (State.rmw_touches ..)) (by decide)
  split
  with_reducible refine Touches.step ?_ (State.rmw_touches ..) (by decide)
  with_reducible refine Touches.step ?_ (Touches.of_fst (by assumption) (State.rmw_touches ..)) (by decide)
  with_reducible exact Touches.refl
  with_reducible refine Touches.step ?_ (Touches.of_fst (by assumption) (State.rmw_touches ..)) (by decide)
  with_reducible exact Touches.refl
  with_reducible refine Touches.step ?_ (State.rmw_touches ..) (by decide)
  with_reducible refine Touches.step ?_ (State.rmw_touches ..) (by decide)
  with_reducible refine Touches.step ?_ (Touches.of_fst (by assumption) (State.rmw_touches ..)) (by decide)
  split
  with_reducible refine Touches.step ?_ (State.rmw_touches ..) (by decide)
  with_reducible refine Touches.step ?_ (Touches.of_fst (by assumption) (State.rmw_touches ..)) (by decide)
  with_reducible exact Touches.refl
  with_reducible refine Touches.step ?_ (Touches.of_fst (by assumption) (State.rmw_touches ..)) (by decide)
  with_reducible exact Touches.refl

theorem State.flushNow_touches (s : State) (src h : Nat) :
    Touches [.out, .regs, .mem, .check, .events, .deliver, .frm, .pair, .host] s (State.flushNow s src h) := by
  unfold State.flushNow
  dsimp only
  with_reducible refine Touches.upd ?_
  with_reducible refine Touches.step ?_ (State.flushQueue_touches ..) (by decide)
  with_reducible exact Touches.refl

theorem State.engineRead_touches (s : State) (a : Nat) :
    Touches [.out, .regs, .check, .events, .deliver, .pair, .host] s (State.engineRead s a).1 := by
  unfold State.engineRead
  split
  dsimp only
  with_reducible refine Touches.step ?_ (Touches.of_fst (by assumption) (State.meet_touches ..)) (by decide)
  with_reducible exact Touches.refl
  dsimp only
  with_reducible refine Touches.step ?_ (Touches.of_fst (by assumption) (State.meet_touches ..)) (by decide)
  with_reducible exact Touches.refl

theorem State.engineReads_touches (s : State) (x0 : List Nat) :
    Touches [.out, .regs, .check, .events, .deliver, .pair, .host] s (State.engineReads s x0).1 := by
  induction x0 generalizing s with
  | nil =>
    unfold State.engineReads
    dsimp only
    with_reducible exact Touches.refl
  | cons a l ih =>
    unfold State.engineReads
    split
    split
    dsimp only
    with_reducible refine Touches.step ?_ (Touches.of_fst (by assumption) (ih ..)) (by decide)
    with_reducible refine Touches.step ?_ (Touches.of_fst (by assumption) (State.engineRead_touches ..)) (by decide)
    with_reducible exact Touches.refl
    split
    dsimp only
    with_reducible refine Touches.step ?_ (Touches.of_fst (by assumption) (ih ..)) (by decide)
    with_reducible refine Touches.step ?_ (Touches.of_fst (by assumption) (State.engineRead_touches ..)) (by decide)
    with_reducible exact Touches.refl
    dsimp only
    with_reducible refine Touches.step ?_ (Touches.of_fst (by assumption) (ih ..)) (by decide)
    with_reducible refine Touches.step ?_ (Touches.of_fst (by assumption) (State.engineRead_touches ..)) (by decide)
    with_reducible exact Touches.refl

theorem State.engineWords_touches (s : State) (x0 : List Nat) :
    Touches [.free, .out, .regs, .check, .events, .deliver, .pair, .host] s (State.engineWords s x0).1 := by
  induction x0 generalizing s with
  | nil =>
    unfold State.engineWords
    dsimp only
    with_reducible exact Touches.refl
  | cons a l ih =>
    unfold State.engineWords
    split
    split
    dsimp only
    with_reducible refine Touches.step ?_ (Touches.of_fst (by assumption) (ih ..)) (by decide)
    with_reducible refine Touches.step ?_ (Touches.of_fst (by assumption) (State.engineRead_touches ..)) (by decide)
    with_reducible exact Touches.refl
    dsimp only
    with_reducible refine Touches.step ?_ (ih ..) (by decide)
    with_reducible refine Touches.step ?_ (State.spend_touches ..) (by decide)
    with_reducible refine Touches.step ?_ (Touches.of_fst (by assumption) (State.engineRead_touches ..)) (by decide)
    with_reducible exact Touches.refl

theorem State.produce_touches (s : State) (h : Nat) :
    Touches [.out, .regs, .check, .events, .deliver, .pair, .host] s (State.produce s h).1 := by
  unfold State.produce
  split
  dsimp only
  with_reducible refine Touches.step ?_ (Touches.of_fst (by assumption) (State.engineReads_touches ..)) (by decide)
  with_reducible exact Touches.refl
  dsimp only
  with_reducible refine Touches.step ?_ (Touches.of_fst (by assumption) (State.engineReads_touches ..)) (by decide)
  with_reducible exact Touches.refl

theorem State.commit_touches (s : State) (h : Nat) (cfg : Word) (gen cnt : Nat) (ws : List (Nat × Word)) :
    Touches [.out, .regs, .mem, .check, .events, .deliver, .pair, .host] s (State.commit s h cfg gen cnt ws) := by
  unfold State.commit
  dsimp only
  with_reducible refine Touches.step ?_ (State.rmw_touches ..) (by decide)
  with_reducible refine Touches.foldl _ (fun _ _ _ => ?_) ?_
  with_reducible refine Touches.step ?_ (State.poke_touches ..) (by decide)
  assumption
  with_reducible exact Touches.refl

theorem State.consume_touches (s : State) (h : Nat) :
    Touches [.out, .regs, .check, .events, .deliver, .pair, .host] s (State.consume s h).1 := by
  unfold State.consume
  split
  dsimp only
  with_reducible refine Touches.step ?_ (Touches.of_fst (by assumption) (State.engineReads_touches ..)) (by decide)
  with_reducible exact Touches.refl
  dsimp only
  with_reducible refine Touches.step ?_ (Touches.of_fst (by assumption) (State.engineReads_touches ..)) (by decide)
  with_reducible exact Touches.refl

theorem State.take_touches (s : State) (h : Nat) (next : Word) :
    Touches [.out, .regs, .mem, .check, .events, .deliver, .pair, .host] s (State.take s h next) := by
  unfold State.take
  with_reducible refine Touches.step ?_ (State.rmw_touches ..) (by decide)
  with_reducible exact Touches.refl

theorem State.sendFrom_touches (s : State) (mk : Nat → List Word → Body) (off : Nat) (ws : List Word) (fr : Byte) :
    Touches [.out, .pair] s (State.sendFrom s mk off ws fr) := by
  unfold State.sendFrom
  with_reducible refine Touches.foldl _ (fun _ _ _ => ?_) ?_
  with_reducible refine Touches.step ?_ (State.send_touches ..) (by decide)
  assumption
  with_reducible exact Touches.refl

theorem State.forwardInput_touches (s : State) :
    Touches [.free, .out, .regs, .check, .events, .deliver, .pair, .host] s (State.forwardInput s) := by
  unfold State.forwardInput
  split
  with_reducible exact Touches.refl
  dsimp only
  with_reducible refine Touches.step ?_ (State.sendFrom_touches ..) (by decide)
  with_reducible refine Touches.upd ?_
  with_reducible refine Touches.step ?_ (State.engineWords_touches ..) (by decide)
  with_reducible exact Touches.refl


/-! ### Slot -/

theorem State.setCmd_touches (s : State) (k : Nat) (c : Cmd) :
    Touches [.host] s (State.setCmd s k c) := by
  unfold State.setCmd
  with_reducible refine Touches.upd ?_
  with_reducible exact Touches.refl

theorem State.setData_touches (s : State) (k n : Nat) (v : Word) :
    Touches [.host] s (State.setData s k n v) := by
  unfold State.setData
  with_reducible refine Touches.upd ?_
  with_reducible exact Touches.refl

theorem State.setDatas_touches (s : State) (k n : Nat) (x0 : List Word) :
    Touches [.host] s (State.setDatas s k n x0) := by
  induction x0 generalizing s k n with
  | nil =>
    unfold State.setDatas
    with_reducible exact Touches.refl
  | cons a l ih =>
    unfold State.setDatas
    with_reducible refine Touches.step ?_ (ih ..) (by decide)
    with_reducible refine Touches.step ?_ (State.setData_touches ..) (by decide)
    with_reducible exact Touches.refl

theorem State.endCmd_touches (s : State) (k : Nat) (st : CmdState) (fail prog : Nat) :
    Touches [.out, .regs, .host] s (State.endCmd s k st fail prog) := by
  unfold State.endCmd
  dsimp only
  split
  with_reducible exact Touches.refl
  split
  with_reducible refine Touches.step ?_ (State.cause_touches ..) (by decide)
  with_reducible refine Touches.step ?_ (State.setCmd_touches ..) (by decide)
  with_reducible exact Touches.refl
  with_reducible refine Touches.step ?_ (State.setCmd_touches ..) (by decide)
  with_reducible exact Touches.refl

theorem State.endAll_touches (s : State) (x0 : List (Option Nat)) :
    Touches [.out, .regs, .host] s (State.endAll s x0) := by
  induction x0 generalizing s with
  | nil =>
    unfold State.endAll
    with_reducible exact Touches.refl
  | cons a l ih =>
    unfold State.endAll
    rcases a with _ | k <;> dsimp only
    with_reducible refine Touches.step ?_ (ih ..) (by decide)
    with_reducible exact Touches.refl
    with_reducible refine Touches.step ?_ (ih ..) (by decide)
    with_reducible refine Touches.step ?_ (State.endCmd_touches ..) (by decide)
    with_reducible exact Touches.refl


/-! ### Complete -/

theorem State.setFlags_touches (s : State) (c t due : Nat) (mask val : Word) :
    Touches [.cores, .ctxs] s (State.setFlags s c t due mask val) := by
  unfold State.setFlags
  dsimp only
  split
  split
  with_reducible refine Touches.step ?_ (State.onCore_touches ..) (by decide)
  with_reducible refine Touches.step ?_ (State.setSock_touches ..) (by decide)
  with_reducible exact Touches.refl
  with_reducible refine Touches.step ?_ (State.setSock_touches ..) (by decide)
  with_reducible exact Touches.refl
  with_reducible refine Touches.step ?_ (State.setSock_touches ..) (by decide)
  with_reducible exact Touches.refl

theorem State.loadWord_touches (s : State) (c t trig a : Nat) (seen : Seen) :
    Touches [.out, .regs, .check, .events, .deliver, .pair, .host] s (State.loadWord s c t trig a seen).1 := by
  unfold State.loadWord
  split
  dsimp only
  with_reducible exact Touches.refl
  with_reducible refine Touches.step ?_ (State.targetWord_touches ..) (by decide)
  with_reducible exact Touches.refl

theorem State.dataFault_touches (s : State) (c a : Nat) (f : Flight) :
    Touches [.cores] s (State.dataFault s c a f) := by
  unfold State.dataFault
  with_reducible refine Touches.step ?_ (State.raise_touches ..) (by decide)
  with_reducible exact Touches.refl

theorem State.atomic_touches (s : State) (c t a : Nat) (w : Word → Option Word) :
    Touches [.out, .regs, .mem, .check, .events, .deliver, .pair, .host] s (State.atomic s c t a w).1 := by
  unfold State.atomic
  split
  dsimp only
  split
  with_reducible refine Touches.step ?_ (State.poke_touches ..) (by decide)
  with_reducible refine Touches.step ?_ (Touches.of_fst (by assumption) (State.meet_touches ..)) (by decide)
  with_reducible exact Touches.refl
  with_reducible refine Touches.step ?_ (Touches.of_fst (by assumption) (State.meet_touches ..)) (by decide)
  with_reducible exact Touches.refl
  dsimp only
  with_reducible refine Touches.step ?_ (Touches.of_fst (by assumption) (State.meet_touches ..)) (by decide)
  with_reducible exact Touches.refl

theorem State.finishBit_touches (s : State) (c t : Nat) (f : Flight) (u : Fin 2) (op : BluOp) (a lo n : Nat) (o : Word) (seen : Seen) :
    Touches [.free, .out, .regs, .mem, .check, .cores, .ctxs, .events, .deliver, .pair, .host] s (State.finishBit s c t f u op a lo n o seen) := by
  unfold State.finishBit
  dsimp only
  split
  split
  with_reducible refine Touches.step ?_ (State.setFlags_touches ..) (by decide)
  with_reducible refine Touches.step ?_ (Touches.of_fst (by assumption) (State.atomic_touches ..)) (by decide)
  with_reducible exact Touches.refl
  with_reducible refine Touches.step ?_ (Touches.of_fst (by assumption) (State.atomic_touches ..)) (by decide)
  with_reducible exact Touches.refl
  split
  with_reducible refine Touches.step ?_ (State.enterStore_touches ..) (by decide)
  with_reducible exact Touches.refl
  split
  with_reducible refine Touches.step ?_ (State.enterStore_touches ..) (by decide)
  with_reducible exact Touches.refl
  split
  with_reducible refine Touches.step ?_ (State.dataFault_touches ..) (by decide)
  with_reducible refine Touches.step ?_ (Touches.of_fst (by assumption) (State.loadWord_touches ..)) (by decide)
  with_reducible exact Touches.refl
  split
  with_reducible refine Touches.step ?_ (State.setFlags_touches ..) (by decide)
  with_reducible refine Touches.step ?_ (State.setSock_touches ..) (by decide)
  with_reducible refine Touches.step ?_ (Touches.of_fst (by assumption) (State.loadWord_touches ..)) (by decide)
  with_reducible exact Touches.refl
  with_reducible refine Touches.step ?_ (State.setFlags_touches ..) (by decide)
  with_reducible refine Touches.step ?_ (Touches.of_fst (by assumption) (State.loadWord_touches ..)) (by decide)
  with_reducible exact Touches.refl

theorem State.finish_touches (s : State) (c t : Nat) (f : Flight) :
    Touches [.free, .out, .regs, .mem, .check, .cores, .ctxs, .events, .deliver, .pair, .host] s (State.finish s c t f) := by
  unfold State.finish
  split
  with_reducible refine Touches.step ?_ (State.setFlags_touches ..) (by decide)
  with_reducible refine Touches.step ?_ (State.setSocks_touches ..) (by decide)
  with_reducible exact Touches.refl
  dsimp only
  with_reducible refine Touches.step ?_ (State.setFlags_touches ..) (by decide)
  split
  with_reducible refine Touches.step ?_ (State.setSock_touches ..) (by decide)
  with_reducible refine Touches.step ?_ (State.setSock_touches ..) (by decide)
  with_reducible exact Touches.refl
  with_reducible refine Touches.step ?_ (State.setSock_touches ..) (by decide)
  with_reducible exact Touches.refl
  with_reducible refine Touches.step ?_ (State.finishBit_touches ..) (by decide)
  with_reducible exact Touches.refl
  split
  with_reducible refine Touches.step ?_ (State.setSock_touches ..) (by decide)
  with_reducible refine Touches.step ?_ (Touches.of_fst (by assumption) (State.loadWord_touches ..)) (by decide)
  with_reducible exact Touches.refl
  with_reducible refine Touches.step ?_ (State.dataFault_touches ..) (by decide)
  with_reducible refine Touches.step ?_ (Touches.of_fst (by assumption) (State.loadWord_touches ..)) (by decide)
  with_reducible exact Touches.refl
  split
  dsimp only
  with_reducible refine Touches.step ?_ (State.setFlags_touches ..) (by decide)
  with_reducible refine Touches.step ?_ (State.setSock_touches ..) (by decide)
  with_reducible refine Touches.step ?_ (Touches.of_fst (by assumption) (State.atomic_touches ..)) (by decide)
  with_reducible exact Touches.refl
  with_reducible refine Touches.step ?_ (Touches.of_fst (by assumption) (State.atomic_touches ..)) (by decide)
  with_reducible exact Touches.refl
  split
  with_reducible refine Touches.step ?_ (State.setSock_touches ..) (by decide)
  with_reducible refine Touches.step ?_ (Touches.of_fst (by assumption) (State.atomic_touches ..)) (by decide)
  with_reducible exact Touches.refl
  with_reducible refine Touches.step ?_ (Touches.of_fst (by assumption) (State.atomic_touches ..)) (by decide)
  with_reducible exact Touches.refl
  with_reducible refine Touches.step ?_ (State.raise_touches ..) (by decide)
  with_reducible exact Touches.refl

theorem State.waited_touches (s : State) (shared : Bool) (wait : Nat) :
    Touches [.regs] s (State.waited s shared wait).1 := by
  unfold State.waited
  split
  dsimp only
  with_reducible refine Touches.step ?_ (State.noteWait_touches ..) (by decide)
  with_reducible exact Touches.refl
  dsimp only
  with_reducible exact Touches.refl

theorem completeUnit_touches (c : Nat) (u : FU) (wait : Nat) (s : State) :
    Touches [.free, .out, .regs, .mem, .check, .cores, .ctxs, .events, .deliver, .pair, .host] s (completeUnit c u wait s) := by
  unfold completeUnit
  dsimp only
  split
  with_reducible exact Touches.refl
  split
  with_reducible exact Touches.refl
  with_reducible refine Touches.step ?_ (State.finish_touches ..) (by decide)
  with_reducible refine Touches.step ?_ (State.onCore_touches ..) (by decide)
  with_reducible refine Touches.step ?_ (State.passTo_touches ..) (by decide)
  with_reducible refine Touches.step ?_ (State.waited_touches ..) (by decide)
  with_reducible exact Touches.refl

theorem completeDivide_touches (c : Nat) (s : State) :
    Touches [.free, .out, .regs, .mem, .check, .cores, .ctxs, .events, .deliver, .pair, .host] s (completeDivide c s) := by
  unfold completeDivide
  dsimp only
  split
  split
  with_reducible refine Touches.step ?_ (State.finish_touches ..) (by decide)
  with_reducible refine Touches.step ?_ (State.onCore_touches ..) (by decide)
  with_reducible refine Touches.step ?_ (State.passTo_touches ..) (by decide)
  with_reducible exact Touches.refl
  with_reducible exact Touches.refl
  with_reducible exact Touches.refl

theorem State.finishDsu_touches (s : State) (c t : Nat) (r : DsuRun) (d : DsuResult) :
    Touches [.free, .out, .regs, .mem, .check, .cores, .ctxs, .events, .deliver, .pair, .host] s (State.finishDsu s c t r d) := by
  unfold State.finishDsu
  dsimp only
  split
  with_reducible refine Touches.step ?_ (State.raise_touches ..) (by decide)
  with_reducible refine Touches.step ?_ (State.dsuStatus_touches ..) (by decide)
  with_reducible exact Touches.refl
  split
  split
  with_reducible refine Touches.step ?_ (State.setFlags_touches ..) (by decide)
  with_reducible refine Touches.step ?_ (State.blockWords_touches ..) (by decide)
  with_reducible refine Touches.step ?_ (State.dsuStatus_touches ..) (by decide)
  with_reducible exact Touches.refl
  with_reducible refine Touches.step ?_ (State.blockWords_touches ..) (by decide)
  with_reducible refine Touches.step ?_ (State.dsuStatus_touches ..) (by decide)
  with_reducible exact Touches.refl
  with_reducible refine Touches.step ?_ (State.setFlags_touches ..) (by decide)
  split
  with_reducible refine Touches.step ?_ (State.setSock_touches ..) (by decide)
  split
  with_reducible refine Touches.step ?_ (State.dsuStore_touches ..) (by decide)
  with_reducible refine Touches.step ?_ (State.dsuWrite_touches ..) (by decide)
  with_reducible refine Touches.step ?_ (State.dsuStatus_touches ..) (by decide)
  with_reducible exact Touches.refl
  with_reducible refine Touches.step ?_ (State.dsuWrite_touches ..) (by decide)
  with_reducible refine Touches.step ?_ (State.dsuStatus_touches ..) (by decide)
  with_reducible exact Touches.refl
  split
  with_reducible refine Touches.step ?_ (State.dsuStore_touches ..) (by decide)
  with_reducible refine Touches.step ?_ (State.dsuWrite_touches ..) (by decide)
  with_reducible refine Touches.step ?_ (State.dsuStatus_touches ..) (by decide)
  with_reducible exact Touches.refl
  with_reducible refine Touches.step ?_ (State.dsuWrite_touches ..) (by decide)
  with_reducible refine Touches.step ?_ (State.dsuStatus_touches ..) (by decide)
  with_reducible exact Touches.refl

theorem State.noteCuts_touches (s : State) (c : Nat) (r : DsuRun) (cuts : Nat) :
    Touches [.regs] s (State.noteCuts s c r cuts) := by
  unfold State.noteCuts
  split
  with_reducible refine Touches.step ?_ (State.count_touches ..) (by decide)
  with_reducible exact Touches.refl
  with_reducible exact Touches.refl

theorem completeDsu_touches (c wait cuts : Nat) (s : State) :
    TouchesR [.free, .out, .regs, .mem, .check, .cores, .ctxs, .events, .deliver, .pair, .host] s (completeDsu c wait cuts s) := by
  unfold completeDsu
  split
  with_reducible refine TouchesR.next ?_
  with_reducible exact Touches.refl
  split
  with_reducible refine TouchesR.next ?_
  with_reducible exact Touches.refl
  dsimp only
  split
  with_reducible refine TouchesR.next ?_
  with_reducible refine Touches.step ?_ (State.passTo_touches ..) (by decide)
  with_reducible exact Touches.refl
  split
  exact TouchesR.fault
  with_reducible refine TouchesR.next ?_
  with_reducible refine Touches.step ?_ (State.passTo_touches ..) (by decide)
  with_reducible exact Touches.refl
  split
  with_reducible refine TouchesR.next ?_
  with_reducible refine Touches.step ?_ (State.passTo_touches ..) (by decide)
  with_reducible exact Touches.refl
  with_reducible refine TouchesR.next ?_
  with_reducible refine Touches.step ?_ (State.noteCuts_touches ..) (by decide)
  with_reducible refine Touches.step ?_ (State.finishDsu_touches ..) (by decide)
  with_reducible refine Touches.step ?_ (State.onCore_touches ..) (by decide)
  with_reducible refine Touches.step ?_ (State.passTo_touches ..) (by decide)
  with_reducible refine Touches.step ?_ (State.waited_touches ..) (by decide)
  with_reducible refine Touches.step ?_ (State.passTo_touches ..) (by decide)
  with_reducible exact Touches.refl

theorem State.takeOffline_touches (s : State) (c : Nat) :
    Touches [.free, .out, .regs, .mem, .check, .cores, .ctxs, .events, .deliver, .frm, .pair, .host] s (State.takeOffline s c) := by
  unfold State.takeOffline
  dsimp only
  split
  with_reducible refine Touches.step ?_ (State.stopTenant_touches ..) (by decide)
  with_reducible refine Touches.step ?_ (State.occur_touches ..) (by decide)
  with_reducible refine Touches.step ?_ (State.setFlag_touches ..) (by decide)
  with_reducible exact Touches.refl
  with_reducible refine Touches.step ?_ (State.onCore_touches ..) (by decide)
  with_reducible refine Touches.step ?_ (State.occur_touches ..) (by decide)
  with_reducible refine Touches.step ?_ (State.setFlag_touches ..) (by decide)
  with_reducible exact Touches.refl

theorem State.m1_touches (s : State) (c : Nat) :
    Touches [.free, .out, .regs, .mem, .check, .cores, .ctxs, .events, .deliver, .frm, .pair, .host] s (State.m1 s c) := by
  unfold State.m1
  dsimp only
  split
  split
  with_reducible refine Touches.step ?_ (faultEdge_touches ..) (by decide)
  with_reducible refine Touches.step ?_ (State.takeOffline_touches ..) (by decide)
  with_reducible refine Touches.step ?_ (State.onCore_touches ..) (by decide)
  with_reducible exact Touches.refl
  with_reducible refine Touches.step ?_ (State.onCore_touches ..) (by decide)
  with_reducible exact Touches.refl
  with_reducible refine Touches.step ?_ (State.onCore_touches ..) (by decide)
  with_reducible exact Touches.refl

theorem microstoreParity_touches (c held : Nat) (s : State) :
    Touches [.free, .out, .regs, .mem, .check, .cores, .ctxs, .events, .deliver, .frm, .pair, .host] s (microstoreParity c held s) := by
  unfold microstoreParity
  dsimp only
  split
  with_reducible exact Touches.refl
  split
  with_reducible exact Touches.refl
  with_reducible refine Touches.step ?_ (State.m1_touches ..) (by decide)
  with_reducible refine Touches.step ?_ (State.stopTenant_touches ..) (by decide)
  with_reducible refine Touches.step ?_ (State.error_touches ..) (by decide)
  with_reducible refine Touches.step ?_ (State.onCore_touches ..) (by decide)
  with_reducible refine Touches.step ?_ (State.dsuStatus_touches ..) (by decide)
  with_reducible refine Touches.step ?_ (State.dropContext_touches ..) (by decide)
  split
  with_reducible refine Touches.step ?_ (State.stopBlock_touches ..) (by decide)
  with_reducible refine Touches.step ?_ (State.passTo_touches ..) (by decide)
  with_reducible exact Touches.refl
  with_reducible refine Touches.step ?_ (State.spend_touches ..) (by decide)
  with_reducible refine Touches.step ?_ (State.dsuWrite_touches ..) (by decide)
  with_reducible refine Touches.step ?_ (State.passTo_touches ..) (by decide)
  with_reducible exact Touches.refl

theorem State.gatherFault_touches (s : State) (c t : Nat) (g : GatherRun) (code : Nat) (d : Word) :
    Touches [.cores, .ctxs] s (State.gatherFault s c t g code d) := by
  unfold State.gatherFault
  dsimp only
  with_reducible refine Touches.step ?_ (State.raise_touches ..) (by decide)
  with_reducible refine Touches.step ?_ (State.onCore_touches ..) (by decide)
  with_reducible refine Touches.step ?_ (State.recordGather_touches ..) (by decide)
  with_reducible exact Touches.refl

theorem State.elemWord_touches (s : State) (c t : Nat) (g : GatherRun) (a step : Nat) (seen : Seen) :
    Touches [.out, .regs, .check, .events, .deliver, .pair, .host] s (State.elemWord s c t g a step seen).1 := by
  unfold State.elemWord
  split
  dsimp only
  with_reducible exact Touches.refl
  with_reducible refine Touches.step ?_ (State.targetWord_touches ..) (by decide)
  with_reducible exact Touches.refl

theorem State.putElem_touches (s : State) (c t : Nat) (g : GatherRun) (rest : List GatherRun) (w : Word) :
    Touches [.free, .out, .regs, .mem, .check, .cores, .ctxs, .events, .deliver, .pair, .host] s (State.putElem s c t g rest w) := by
  unfold State.putElem
  dsimp only
  split
  with_reducible refine Touches.step ?_ (State.onCore_touches ..) (by decide)
  split
  with_reducible refine Touches.step ?_ (State.setSock_touches ..) (by decide)
  with_reducible refine Touches.step ?_ (State.setSock_touches ..) (by decide)
  with_reducible refine Touches.step ?_ (State.poke_touches ..) (by decide)
  with_reducible exact Touches.refl
  with_reducible refine Touches.step ?_ (State.setSock_touches ..) (by decide)
  with_reducible refine Touches.step ?_ (State.poke_touches ..) (by decide)
  with_reducible exact Touches.refl
  split
  split
  split
  with_reducible refine Touches.step ?_ (State.onCore_touches ..) (by decide)
  with_reducible refine Touches.step ?_ (State.passTo_touches ..) (by decide)
  with_reducible refine Touches.step ?_ (State.onCore_touches ..) (by decide)
  with_reducible refine Touches.step ?_ (State.setSock_touches ..) (by decide)
  with_reducible refine Touches.step ?_ (State.setSock_touches ..) (by decide)
  with_reducible refine Touches.step ?_ (State.poke_touches ..) (by decide)
  with_reducible exact Touches.refl
  with_reducible refine Touches.step ?_ (State.onCore_touches ..) (by decide)
  with_reducible refine Touches.step ?_ (State.setSock_touches ..) (by decide)
  with_reducible refine Touches.step ?_ (State.setSock_touches ..) (by decide)
  with_reducible refine Touches.step ?_ (State.poke_touches ..) (by decide)
  with_reducible exact Touches.refl
  split
  with_reducible refine Touches.step ?_ (State.onCore_touches ..) (by decide)
  with_reducible refine Touches.step ?_ (State.passTo_touches ..) (by decide)
  with_reducible refine Touches.step ?_ (State.onCore_touches ..) (by decide)
  with_reducible refine Touches.step ?_ (State.setSock_touches ..) (by decide)
  with_reducible refine Touches.step ?_ (State.setSock_touches ..) (by decide)
  with_reducible refine Touches.step ?_ (State.poke_touches ..) (by decide)
  with_reducible exact Touches.refl
  with_reducible refine Touches.step ?_ (State.onCore_touches ..) (by decide)
  with_reducible refine Touches.step ?_ (State.setSock_touches ..) (by decide)
  with_reducible refine Touches.step ?_ (State.setSock_touches ..) (by decide)
  with_reducible refine Touches.step ?_ (State.poke_touches ..) (by decide)
  with_reducible exact Touches.refl
  split
  split
  with_reducible refine Touches.step ?_ (State.onCore_touches ..) (by decide)
  with_reducible refine Touches.step ?_ (State.passTo_touches ..) (by decide)
  with_reducible refine Touches.step ?_ (State.onCore_touches ..) (by decide)
  with_reducible refine Touches.step ?_ (State.setSock_touches ..) (by decide)
  with_reducible refine Touches.step ?_ (State.poke_touches ..) (by decide)
  with_reducible exact Touches.refl
  with_reducible refine Touches.step ?_ (State.onCore_touches ..) (by decide)
  with_reducible refine Touches.step ?_ (State.setSock_touches ..) (by decide)
  with_reducible refine Touches.step ?_ (State.poke_touches ..) (by decide)
  with_reducible exact Touches.refl
  split
  with_reducible refine Touches.step ?_ (State.onCore_touches ..) (by decide)
  with_reducible refine Touches.step ?_ (State.passTo_touches ..) (by decide)
  with_reducible refine Touches.step ?_ (State.onCore_touches ..) (by decide)
  with_reducible refine Touches.step ?_ (State.setSock_touches ..) (by decide)
  with_reducible refine Touches.step ?_ (State.poke_touches ..) (by decide)
  with_reducible exact Touches.refl
  with_reducible refine Touches.step ?_ (State.onCore_touches ..) (by decide)
  with_reducible refine Touches.step ?_ (State.setSock_touches ..) (by decide)
  with_reducible refine Touches.step ?_ (State.poke_touches ..) (by decide)
  with_reducible exact Touches.refl

theorem State.completeElem_touches (s : State) (c wait : Nat) (g : GatherRun) (e : Elem) :
    TouchesR [.free, .out, .regs, .mem, .check, .cores, .ctxs, .events, .deliver, .pair, .host] s (State.completeElem s c wait g e) := by
  unfold State.completeElem
  dsimp only
  split
  exact TouchesR.fault
  with_reducible refine TouchesR.next ?_
  split
  with_reducible refine Touches.step ?_ (State.gatherFault_touches ..) (by decide)
  with_reducible refine Touches.step ?_ (State.passTo_touches ..) (by decide)
  with_reducible refine Touches.step ?_ (State.waited_touches ..) (by decide)
  with_reducible exact Touches.refl
  with_reducible exact Touches.refl
  split
  with_reducible refine TouchesR.next ?_
  with_reducible exact Touches.refl
  split
  with_reducible refine TouchesR.next ?_
  with_reducible refine Touches.step ?_ (State.gatherFault_touches ..) (by decide)
  with_reducible refine Touches.step ?_ (Touches.of_fst (by assumption) (State.elemWord_touches ..)) (by decide)
  with_reducible refine Touches.step ?_ (State.passTo_touches ..) (by decide)
  with_reducible refine Touches.step ?_ (State.waited_touches ..) (by decide)
  with_reducible exact Touches.refl
  split
  with_reducible refine TouchesR.next ?_
  with_reducible refine Touches.step ?_ (State.putElem_touches ..) (by decide)
  with_reducible refine Touches.step ?_ (State.passTo_touches ..) (by decide)
  with_reducible refine Touches.step ?_ (Touches.of_fst (by assumption) (State.elemWord_touches ..)) (by decide)
  with_reducible refine Touches.step ?_ (State.passTo_touches ..) (by decide)
  with_reducible refine Touches.step ?_ (State.waited_touches ..) (by decide)
  with_reducible exact Touches.refl
  with_reducible refine TouchesR.next ?_
  with_reducible refine Touches.step ?_ (State.passTo_touches ..) (by decide)
  with_reducible refine Touches.step ?_ (Touches.of_fst (by assumption) (State.elemWord_touches ..)) (by decide)
  with_reducible refine Touches.step ?_ (State.passTo_touches ..) (by decide)
  with_reducible refine Touches.step ?_ (State.waited_touches ..) (by decide)
  with_reducible exact Touches.refl

theorem gatherElement_touches (c wait : Nat) (s : State) :
    TouchesR [.free, .out, .regs, .mem, .check, .cores, .ctxs, .events, .deliver, .pair, .host] s (gatherElement c wait s) := by
  unfold gatherElement
  dsimp only
  split
  split
  with_reducible refine TouchesR.step ?_ (State.completeElem_touches ..) (by decide)
  split
  split
  with_reducible refine Touches.step ?_ (State.passTo_touches ..) (by decide)
  with_reducible exact Touches.refl
  with_reducible exact Touches.refl
  with_reducible exact Touches.refl
  with_reducible refine TouchesR.next ?_
  split
  split
  with_reducible refine Touches.step ?_ (State.passTo_touches ..) (by decide)
  with_reducible exact Touches.refl
  with_reducible exact Touches.refl
  with_reducible exact Touches.refl
  with_reducible refine TouchesR.next ?_
  split
  split
  with_reducible refine Touches.step ?_ (State.passTo_touches ..) (by decide)
  with_reducible exact Touches.refl
  with_reducible exact Touches.refl
  with_reducible exact Touches.refl

theorem retireStore_touches (c : Nat) (s : State) :
    Touches [.free, .out, .regs, .check, .cores, .events, .deliver, .pair, .host] s (retireStore c s) := by
  unfold retireStore
  split
  with_reducible exact Touches.refl
  dsimp only
  split
  with_reducible refine Touches.step ?_ (State.onCore_touches ..) (by decide)
  with_reducible refine Touches.step ?_ (State.passTo_touches ..) (by decide)
  with_reducible exact Touches.refl
  with_reducible exact Touches.refl

theorem performStore_touches (c k wait : Nat) (s : State) :
    Touches [.free, .out, .regs, .mem, .check, .cores, .events, .deliver, .pair, .host] s (performStore c k wait s) := by
  unfold performStore
  dsimp only
  split
  with_reducible exact Touches.refl
  split
  with_reducible exact Touches.refl
  with_reducible refine Touches.step ?_ (State.perform_touches ..) (by decide)
  with_reducible refine Touches.step ?_ (State.onCore_touches ..) (by decide)
  with_reducible refine Touches.step ?_ (State.passTo_touches ..) (by decide)
  with_reducible refine Touches.step ?_ (State.waited_touches ..) (by decide)
  with_reducible exact Touches.refl

theorem State.reissue_touches (s : State) (c : Nat) (f : Flight) (p : Nat) :
    Touches [.cores] s (State.reissue s c f p) := by
  unfold State.reissue
  dsimp only
  with_reducible refine Touches.step ?_ (State.onCore_touches ..) (by decide)
  with_reducible refine Touches.step ?_ (State.launchOp_touches ..) (by decide)
  with_reducible exact Touches.refl

theorem endOverlap_touches (c : Nat) (s : State) :
    Touches [.free, .out, .regs, .check, .cores, .events, .deliver, .pair, .host] s (endOverlap c s) := by
  unfold endOverlap
  split
  with_reducible exact Touches.refl
  dsimp only
  split
  with_reducible exact Touches.refl
  split
  with_reducible refine Touches.step ?_ (State.reissue_touches ..) (by decide)
  with_reducible refine Touches.step ?_ (State.onCore_touches ..) (by decide)
  with_reducible refine Touches.step ?_ (State.passTo_touches ..) (by decide)
  with_reducible exact Touches.refl
  with_reducible refine Touches.step ?_ (State.onCore_touches ..) (by decide)
  with_reducible refine Touches.step ?_ (State.passTo_touches ..) (by decide)
  with_reducible exact Touches.refl

theorem releaseFence_touches (c : Nat) (s : State) :
    Touches [.free, .out, .regs, .check, .cores, .events, .deliver, .pair, .host] s (releaseFence c s) := by
  unfold releaseFence
  dsimp only
  split
  split
  with_reducible refine Touches.step ?_ (State.onCore_touches ..) (by decide)
  with_reducible refine Touches.step ?_ (State.passTo_touches ..) (by decide)
  with_reducible exact Touches.refl
  with_reducible exact Touches.refl
  with_reducible exact Touches.refl

theorem refill_touches (c wait : Nat) (s : State) :
    Touches [.free, .out, .regs, .check, .cores, .events, .deliver, .pair, .host] s (refill c wait s) := by
  unfold refill
  split
  split
  with_reducible exact Touches.refl
  with_reducible refine Touches.step ?_ (State.endMiss_touches ..) (by decide)
  with_reducible refine Touches.step ?_ (State.waited_touches ..) (by decide)
  with_reducible exact Touches.refl
  with_reducible exact Touches.refl

end Sys2Proof.Machine
end

