-- ==== Sys2Proof/Laws/Segs.lean ====
section
/-!
SUPPORT. What the triggers of an issue leave alone: segment descriptors keep their values, so that a tenant whose segments
are populated stays so.
-/
namespace Sys2Proof.Machine
set_option Elab.async false

/-- The segment descriptors (R160) are as before. -/
structure SegSame (s t : State) : Prop where
  same : ∀ r, 0x40000 ≤ r → r < 0x48000 → t.reg r = s.reg r

theorem SegSame.refl {s : State} : SegSame s s := ⟨fun _ _ _ => rfl⟩

theorem SegSame.trans {a b c : State} (h : SegSame a b) (k : SegSame b c) : SegSame a c :=
  ⟨fun r x y => (k.same r x y).trans (h.same r x y)⟩

/-- An operation that touches no register keeps them. -/
theorem SegSame.of_touches {l : List Part} {s t : State} (h : Touches l s t) (hl : l.contains .regs = false) :
    SegSame s t := by
  refine ⟨fun r _ _ => ?_⟩
  have e : t.regs = s.regs := h.1 .regs (fun q => by rw [← List.contains_iff_mem, hl] at q; cases q)
  simp [State.reg, e]

theorem SegSame.setReg {a s : State} {r : Nat} (v : Word) (h : SegSame a s) (hr : r < 0x40000 ∨ 0x48000 ≤ r) :
    SegSame a (s.setReg r v) := by
  refine h.trans ⟨fun q x y => ?_⟩
  rw [State.reg_setReg, if_neg (by omega)]

theorem SegSame.setFld {a s : State} {r hi lo : Nat} (v : Nat) (h : SegSame a s) (hr : r < 0x40000 ∨ 0x48000 ≤ r) :
    SegSame a (s.setFld r hi lo v) := h.setReg _ hr

theorem SegSame.setFlag {a s : State} {r b : Nat} (v : Bool) (h : SegSame a s) (hr : r < 0x40000 ∨ 0x48000 ≤ r) :
    SegSame a (s.setFlag r b v) := h.setReg _ hr

theorem SegSame.count {a s : State} {r hi lo : Nat} (n : Nat) (h : SegSame a s) (hr : r < 0x40000 ∨ 0x48000 ≤ r) :
    SegSame a (s.count r hi lo n) := h.setReg _ hr

/-- Segments read alike where their descriptors are as before. -/
theorem SegSame.seg {s t : State} (h : SegSame s t) {u g : Nat} (hu : u < 1024) (hg : g < 16) : t.seg u g = s.seg u g := by
  have a : t.reg (segDescA u g) = s.reg (segDescA u g) := h.same _ (by simp only [segDescA]; omega) (by simp only [segDescA]; omega)
  have b : t.reg (segDescB u g) = s.reg (segDescB u g) := h.same _ (by simp only [segDescB]; omega) (by simp only [segDescB]; omega)
  simp only [State.seg, State.fld, a, b]

theorem SegSame.populated {s t : State} (h : SegSame s t) {c u : Nat} (hp : s.populated c u) : t.populated c u :=
  ⟨hp.1, fun g k off hg hc ho => by rw [h.seg hp.1 hg] at *; exact hp.2 g k off hg hc ho⟩

/-- The state of a pair. -/
theorem SegSame.of_fst {α : Type} {s a : State} {b : α} {x : State × α} (e : x = (a, b)) (h : SegSame s x.1) : SegSame s a := by
  subst e; exact h

/-- A fold of operations. -/
theorem SegSame.foldl {α : Type} {f : State → α → State} {a b : State} (xs : List α)
    (hf : ∀ s x, SegSame a s → SegSame a (f s x)) (h : SegSame a b) : SegSame a (xs.foldl f b) := by
  induction xs generalizing b with
  | nil => exact h
  | cons x xs ih => exact ih (hf b x h)

/-! ### Operations -/

theorem State.cause_segs (s : State) (i : Nat) : SegSame s (s.cause i) := by
  unfold State.cause
  dsimp only
  have h (a : State) (k : SegSame s a) : SegSame s (a.setFlag (hstIstat (i / 32)) (i % 32) true) :=
    k.setFlag _ (by simp only [hstIstat]; omega)
  have k : SegSame s (if s.flag (hstIstat (i / 32)) (i % 32) then s
      else { s with host := { s.host with sent := putBit s.host.sent i false } }) := by
    split
    · exact .refl
    · exact ⟨fun _ _ _ => rfl⟩
  generalize (if s.flag (hstIstat (i / 32)) (i % 32) then s
      else { s with host := { s.host with sent := putBit s.host.sent i false } }) = a at k ⊢
  split
  · exact (h a k).trans (.of_touches (State.message_touches ..) rfl)
  · exact h a k

theorem State.setPending_segs (s : State) (n : Nat) : SegSame s (s.setPending n) := by
  unfold State.setPending
  split
  · exact .refl
  · split
    · exact SegSame.refl.count _ (by simp only [evtPsum]; omega)
    · exact ⟨fun _ _ _ => rfl⟩

theorem State.route_segs (s : State) (n : Nat) : SegSame s (s.route n) := by
  unfold State.route
  split
  · exact .of_touches (State.forward_touches ..) rfl
  · split
    · exact .of_touches (State.forward_touches ..) rfl
    · exact State.setPending_segs ..
  · exact .refl
  · exact .refl
  · exact .refl
  · exact State.setPending_segs ..

theorem State.occur_segs (s : State) (n : Nat) : SegSame s (s.occur n) := by
  unfold State.occur
  dsimp only
  refine SegSame.trans ?_ (State.route_segs ..)
  split
  · refine SegSame.trans ?_ (State.cause_segs ..)
    split
    · exact SegSame.refl.setFlag _ (by decide)
    · exact .refl
  · split
    · exact SegSame.refl.setFlag _ (by decide)
    · exact .refl

theorem State.log_segs (s : State) (code src t addr : Nat) : SegSame s (s.log code src t addr) := by
  unfold State.log
  dsimp only
  have h (b : Word) : SegSame s (((s.setReg (errLogA (s.fld errStat 39 32 % 32)) (logA code src t)).setReg
      (errLogB (s.fld errStat 39 32 % 32)) b).count errStat 39 32 1) :=
    ((SegSame.refl.setReg _ (by simp only [errLogA]; omega)).setReg _ (by simp only [errLogB]; omega)).count _ (by decide)
  split
  · exact ((h _).setReg _ (by decide)).setReg _ (by decide)
  · exact h _

theorem State.countCE_segs (s : State) : SegSame s s.countCE := by
  unfold State.countCE
  dsimp only
  have h : SegSame s (s.count errCecnt 39 0 1) := SegSame.refl.count _ (by decide)
  split
  · exact h.trans (State.occur_segs ..)
  · exact h

theorem State.error_segs (s : State) (code src t addr : Nat) : SegSame s (s.error code src t addr) := by
  unfold State.error
  dsimp only
  have h1 : SegSame s (if code = 1 then s.countCE else s) := by
    split
    · exact State.countCE_segs s
    · exact .refl
  generalize (if code = 1 then s.countCE else s) = a at h1
  have h2 : SegSame s (if (code = 1 ∧ !a.flag errCtl 19) ∨ code = 8 then a else a.log code src t addr) := by
    split
    · exact h1
    · exact h1.trans (State.log_segs ..)
  generalize (if (code = 1 ∧ !a.flag errCtl 19) ∨ code = 8 then a else a.log code src t addr) = b at h2
  cases healthBit code with
  | none =>
    dsimp only
    split
    · exact h2.trans (State.occur_segs ..)
    · exact h2
  | some i =>
    dsimp only
    have h3 : SegSame s { b with pair := { b.pair with health := putBit b.pair.health i true } } :=
      h2.trans ⟨fun _ _ _ => rfl⟩
    split
    · exact h3.trans (State.occur_segs ..)
    · exact h3

theorem State.meet_segs (s : State) (code src t a : Nat) : SegSame s (s.meet code src t a).1 := by
  unfold State.meet
  split
  · exact .refl
  · exact SegSame.trans (.of_touches (State.poke_touches s a (s.peek a)) rfl) (State.error_segs _ 1 src t a)
  · exact State.error_segs s code src t a

theorem State.targetWord_segs (s : State) (c t a : Nat) (older : List Store) : SegSame s (State.targetWord s c t a older).1 := by
  unfold State.targetWord
  split
  dsimp only
  with_reducible exact SegSame.refl
  split
  dsimp only
  with_reducible refine SegSame.trans ?_ (SegSame.of_fst (by assumption) (State.meet_segs ..))
  with_reducible exact SegSame.refl
  dsimp only
  with_reducible refine SegSame.trans ?_ (SegSame.of_fst (by assumption) (State.meet_segs ..))
  with_reducible exact SegSame.refl

theorem State.readOwn_segs (s : State) (c t a : Nat) : SegSame s (State.readOwn s c t a).1 := by
  unfold State.readOwn
  with_reducible refine SegSame.trans ?_ (State.targetWord_segs ..)
  with_reducible exact SegSame.refl

theorem State.issueElem_segs (s : State) (c t : Nat) (g : GatherRun) : SegSame s (State.issueElem s c t g).1 := by
  unfold State.issueElem
  dsimp only
  split
  dsimp only
  with_reducible refine SegSame.trans ?_ (SegSame.of_fst (by assumption) (State.meet_segs ..))
  with_reducible exact SegSame.refl
  split
  dsimp only
  with_reducible refine SegSame.trans ?_ (SegSame.of_fst (by assumption) (State.meet_segs ..))
  with_reducible exact SegSame.refl
  split
  dsimp only
  with_reducible refine SegSame.trans ?_ (SegSame.of_fst (by assumption) (State.meet_segs ..))
  with_reducible exact SegSame.refl
  split
  dsimp only
  with_reducible refine SegSame.trans ?_ (SegSame.of_fst (by assumption) (State.meet_segs ..))
  with_reducible exact SegSame.refl
  dsimp only
  with_reducible refine SegSame.trans ?_ (SegSame.of_fst (by assumption) (State.meet_segs ..))
  with_reducible exact SegSame.refl
  split
  dsimp only
  with_reducible refine SegSame.trans ?_ (SegSame.of_fst (by assumption) (State.meet_segs ..))
  with_reducible exact SegSame.refl
  dsimp only
  with_reducible refine SegSame.trans ?_ (SegSame.of_fst (by assumption) (State.meet_segs ..))
  with_reducible exact SegSame.refl

theorem State.issueElems_segs (s : State) (c t upto x0 : Nat) (x1 : GatherRun) : SegSame s (State.issueElems s c t upto x0 x1).1 := by
  induction x0 generalizing s c t upto x1 with
  | zero =>
    unfold State.issueElems
    dsimp only
    with_reducible exact SegSame.refl
  | succ n ih =>
    unfold State.issueElems
    split
    dsimp only
    with_reducible exact SegSame.refl
    split
    with_reducible refine SegSame.trans ?_ (ih ..)
    with_reducible refine SegSame.trans ?_ (SegSame.of_fst (by assumption) (State.issueElem_segs ..))
    with_reducible exact SegSame.refl
    split
    dsimp only
    with_reducible refine SegSame.trans ?_ (SegSame.of_fst (by assumption) (ih ..))
    with_reducible refine SegSame.trans ?_ (SegSame.of_fst (by assumption) (State.issueElem_segs ..))
    with_reducible exact SegSame.refl

theorem State.issueGathers_segs (s : State) (c t upto : Nat) (x0 : List GatherRun) : SegSame s (State.issueGathers s c t upto x0).1 := by
  induction x0 generalizing s c t upto with
  | nil =>
    unfold State.issueGathers
    dsimp only
    with_reducible exact SegSame.refl
  | cons a l ih =>
    unfold State.issueGathers
    split
    split
    dsimp only
    with_reducible refine SegSame.trans ?_ (SegSame.of_fst (by assumption) (ih ..))
    with_reducible refine SegSame.trans ?_ (SegSame.of_fst (by assumption) (State.issueElems_segs ..))
    with_reducible exact SegSame.refl

theorem State.gatherTick_segs (s : State) (c upto : Nat) : SegSame s (State.gatherTick s c upto) := by
  unfold State.gatherTick
  split
  with_reducible exact SegSame.refl
  split
  with_reducible refine SegSame.trans ?_ (.of_touches (State.onCore_touches ..) rfl)
  with_reducible refine SegSame.trans ?_ (SegSame.of_fst (by assumption) (State.issueGathers_segs ..))
  with_reducible exact SegSame.refl

theorem State.readOperand_segs (s : State) (c t : Nat) (r : DsuRun) (g off : Nat) (last : Bool) (put : DsuRead → Word → DsuRead) : SegSame s (State.readOperand s c t r g off last put).1 := by
  unfold State.readOperand
  dsimp only
  split
  dsimp only
  with_reducible exact SegSame.refl
  split
  dsimp only
  with_reducible exact SegSame.refl
  split
  split
  dsimp only
  with_reducible refine SegSame.trans ?_ (.of_touches (State.spend_touches ..) rfl)
  with_reducible exact SegSame.refl
  dsimp only
  with_reducible exact SegSame.refl
  split
  dsimp only
  with_reducible refine SegSame.trans ?_ (SegSame.of_fst (by assumption) (State.targetWord_segs ..))
  with_reducible exact SegSame.refl
  split
  dsimp only
  with_reducible refine SegSame.trans ?_ (.of_touches (State.spend_touches ..) rfl)
  with_reducible refine SegSame.trans ?_ (SegSame.of_fst (by assumption) (State.targetWord_segs ..))
  with_reducible exact SegSame.refl
  dsimp only
  with_reducible refine SegSame.trans ?_ (SegSame.of_fst (by assumption) (State.targetWord_segs ..))
  with_reducible exact SegSame.refl
  split
  split
  dsimp only
  with_reducible refine SegSame.trans ?_ (SegSame.of_fst (by assumption) (State.targetWord_segs ..))
  with_reducible exact SegSame.refl
  split
  dsimp only
  with_reducible refine SegSame.trans ?_ (.of_touches (State.spend_touches ..) rfl)
  with_reducible refine SegSame.trans ?_ (SegSame.of_fst (by assumption) (State.targetWord_segs ..))
  with_reducible exact SegSame.refl
  dsimp only
  with_reducible refine SegSame.trans ?_ (SegSame.of_fst (by assumption) (State.targetWord_segs ..))
  with_reducible exact SegSame.refl
  dsimp only
  with_reducible exact SegSame.refl

theorem State.dsuStep_segs (s : State) (c t : Nat) (r : DsuRun) : SegSame s (State.dsuStep s c t r).1 := by
  unfold State.dsuStep
  dsimp only
  split
  with_reducible refine SegSame.trans ?_ (State.readOperand_segs ..)
  with_reducible exact SegSame.refl
  split
  with_reducible refine SegSame.trans ?_ (State.readOperand_segs ..)
  with_reducible exact SegSame.refl
  with_reducible refine SegSame.trans ?_ (.of_touches (State.formResult_touches ..) rfl)
  with_reducible exact SegSame.refl

theorem State.dsuSteps_segs (s : State) (c t upto x0 : Nat) (x1 : DsuRun) : SegSame s (State.dsuSteps s c t upto x0 x1).1 := by
  induction x0 generalizing s c t upto x1 with
  | zero =>
    unfold State.dsuSteps
    dsimp only
    with_reducible exact SegSame.refl
  | succ n ih =>
    unfold State.dsuSteps
    split
    dsimp only
    with_reducible exact SegSame.refl
    split
    with_reducible refine SegSame.trans ?_ (ih ..)
    with_reducible refine SegSame.trans ?_ (SegSame.of_fst (by assumption) (State.dsuStep_segs ..))
    with_reducible exact SegSame.refl

theorem State.dsuTick_segs (s : State) (c upto : Nat) : SegSame s (State.dsuTick s c upto) := by
  unfold State.dsuTick
  split
  with_reducible exact SegSame.refl
  split
  with_reducible refine SegSame.trans ?_ (.of_touches (State.onCore_touches ..) rfl)
  with_reducible refine SegSame.trans ?_ (SegSame.of_fst (by assumption) (State.dsuSteps_segs ..))
  with_reducible exact SegSame.refl

theorem State.charge_segs (s : State) (c n : Nat) (stall : Bool) (hc : c < 128) : SegSame s (State.charge s c n stall) := by
  unfold State.charge
  dsimp only
  split
  refine SegSame.count _ ?_ (by simp only [coreStall, coreReg]; omega)
  refine SegSame.setFld _ ?_ (by simp only [coreScnt, coreReg]; omega)
  with_reducible refine SegSame.trans ?_ (.of_touches (State.onCore_touches ..) rfl)
  with_reducible refine SegSame.trans ?_ (State.dsuTick_segs ..)
  with_reducible refine SegSame.trans ?_ (State.gatherTick_segs ..)
  with_reducible exact SegSame.refl
  refine SegSame.setFld _ ?_ (by simp only [coreScnt, coreReg]; omega)
  with_reducible refine SegSame.trans ?_ (.of_touches (State.onCore_touches ..) rfl)
  with_reducible refine SegSame.trans ?_ (State.dsuTick_segs ..)
  with_reducible refine SegSame.trans ?_ (State.gatherTick_segs ..)
  with_reducible exact SegSame.refl

theorem State.chargeTo_segs (s : State) (c r : Nat) (stall : Bool) (hc : c < 128) : SegSame s (State.chargeTo s c r stall) := by
  unfold State.chargeTo
  with_reducible refine SegSame.trans ?_ (State.charge_segs (hc := hc) ..)
  with_reducible exact SegSame.refl

theorem State.logDiscards_segs (s : State) (c n : Nat) : SegSame s (State.logDiscards s c n) := by
  unfold State.logDiscards
  with_reducible refine SegSame.foldl _ (fun _ _ _ => ?_) ?_
  split
  split
  split
  with_reducible refine SegSame.trans ?_ (State.error_segs ..)
  assumption
  assumption
  split
  with_reducible refine SegSame.trans ?_ (State.error_segs ..)
  assumption
  assumption
  assumption
  with_reducible exact SegSame.refl

theorem State.flushFront_segs (s : State) (c n : Nat) : SegSame s (State.flushFront s c n) := by
  unfold State.flushFront
  with_reducible refine SegSame.trans ?_ (.of_touches (State.onCore_touches ..) rfl)
  with_reducible refine SegSame.trans ?_ (State.logDiscards_segs ..)
  with_reducible exact SegSame.refl

theorem State.redirect_segs (s : State) (c n : Nat) (pc : PAddr) (m : Nat) : SegSame s (State.redirect s c n pc m) := by
  unfold State.redirect
  with_reducible refine SegSame.trans ?_ (.of_touches (State.onCore_touches ..) rfl)
  with_reducible refine SegSame.trans ?_ (State.flushFront_segs ..)
  with_reducible exact SegSame.refl

theorem State.readCode_segs (s : State) (c t a : Nat) : SegSame s (State.readCode s c t a).1 := by
  unfold State.readCode
  split
  dsimp only
  with_reducible exact SegSame.refl
  dsimp only
  with_reducible refine SegSame.trans ?_ (State.error_segs ..)
  with_reducible refine SegSame.trans ?_ (.of_touches (State.rewrite_touches ..) rfl)
  with_reducible exact SegSame.refl
  dsimp only
  with_reducible exact SegSame.refl

theorem State.fetch_segs (s : State) (c t : Nat) (pc : PAddr) : SegSame s (State.fetch s c t pc).1 := by
  unfold State.fetch
  split
  dsimp only
  with_reducible exact SegSame.refl
  split
  split
  split
  dsimp only
  with_reducible refine SegSame.trans ?_ (SegSame.of_fst (by assumption) (State.readCode_segs ..))
  with_reducible exact SegSame.refl
  dsimp only
  with_reducible exact SegSame.refl
  split
  dsimp only
  with_reducible exact SegSame.refl
  split
  dsimp only
  with_reducible exact SegSame.refl
  dsimp only
  with_reducible exact SegSame.refl

theorem State.secondWord_segs (s : State) (c t n : Nat) (pc : PAddr) (f : Fetched) : SegSame s (State.secondWord s c t n pc f) := by
  unfold State.secondWord
  split
  split
  split
  with_reducible refine SegSame.trans ?_ (.of_touches (State.enqueueWord_touches ..) rfl)
  with_reducible refine SegSame.trans ?_ (SegSame.of_fst (by assumption) (State.fetch_segs ..))
  with_reducible exact SegSame.refl
  with_reducible refine SegSame.trans ?_ (SegSame.of_fst (by assumption) (State.fetch_segs ..))
  with_reducible exact SegSame.refl
  with_reducible exact SegSame.refl
  with_reducible exact SegSame.refl

theorem State.fetchStep_segs (s : State) (c t n : Nat) : SegSame s (State.fetchStep s c t n) := by
  unfold State.fetchStep
  dsimp only
  with_reducible refine SegSame.trans ?_ (.of_touches (State.onCore_touches ..) rfl)
  split
  with_reducible exact SegSame.refl
  split
  with_reducible refine SegSame.trans ?_ (State.secondWord_segs ..)
  with_reducible refine SegSame.trans ?_ (.of_touches (State.enqueueWord_touches ..) rfl)
  with_reducible refine SegSame.trans ?_ (SegSame.of_fst (by assumption) (State.fetch_segs ..))
  with_reducible exact SegSame.refl
  with_reducible refine SegSame.trans ?_ (.of_touches (State.onCore_touches ..) rfl)
  with_reducible refine SegSame.trans ?_ (SegSame.of_fst (by assumption) (State.fetch_segs ..))
  with_reducible exact SegSame.refl

theorem State.runSteps_segs (s : State) (c t upto x0 : Nat) : SegSame s (State.runSteps s c t upto x0) := by
  induction x0 generalizing s c t upto with
  | zero =>
    unfold State.runSteps
    with_reducible refine SegSame.trans ?_ (.of_touches (State.onCore_touches ..) rfl)
    with_reducible exact SegSame.refl
  | succ n ih =>
    unfold State.runSteps
    split
    with_reducible exact SegSame.refl
    with_reducible refine SegSame.trans ?_ (ih ..)
    with_reducible refine SegSame.trans ?_ (State.fetchStep_segs ..)
    with_reducible exact SegSame.refl

theorem State.runFront_segs (s : State) (c upto : Nat) : SegSame s (State.runFront s c upto) := by
  unfold State.runFront
  with_reducible refine SegSame.trans ?_ (State.runSteps_segs ..)
  with_reducible exact SegSame.refl

theorem State.bringHead_segs (s : State) (c : Nat) : SegSame s (State.bringHead s c) := by
  unfold State.bringHead
  dsimp only
  split
  with_reducible refine SegSame.trans ?_ (State.runFront_segs ..)
  with_reducible refine SegSame.trans ?_ (State.runFront_segs ..)
  with_reducible refine SegSame.trans ?_ (.of_touches (State.realign_touches ..) rfl)
  with_reducible exact SegSame.refl
  with_reducible refine SegSame.trans ?_ (State.runFront_segs ..)
  with_reducible refine SegSame.trans ?_ (.of_touches (State.realign_touches ..) rfl)
  with_reducible exact SegSame.refl

theorem State.transfer_segs (s : State) (c step : Nat) (x : Transfer) (ck : Checkpoint) : SegSame s (State.transfer s c step x ck) := by
  unfold State.transfer
  dsimp only
  with_reducible refine SegSame.trans ?_ (.of_touches (State.onCore_touches ..) rfl)
  split
  with_reducible exact SegSame.refl
  with_reducible refine SegSame.trans ?_ (State.redirect_segs ..)
  with_reducible exact SegSame.refl

theorem State.doTransfer_segs (s : State) (x : At) (r : Transfer) (ck : Checkpoint) : SegSame s (s.doTransfer x r ck) := by
  unfold State.doTransfer
  dsimp only
  refine SegSame.trans ?_ (State.transfer_segs ..)
  split
  · exact .of_touches (State.setSock_touches ..) rfl
  · exact .refl

theorem State.readBlock_segs (s : State) (c t j : Nat) (o : ReadOut) : SegSame s (s.readBlock c t j o).1 := by
  unfold State.readBlock
  split
  · exact State.meet_segs ..
  · exact .refl

theorem State.blockSource_segs (s : State) (c t : Nat) (op : DsuOp) (k j : Nat) : SegSame s (s.blockSource c t op k j).1 := by
  unfold State.blockSource
  dsimp only
  repeat' split
  all_goals first
    | exact .refl
    | exact State.readBlock_segs ..

theorem State.planBlock_segs (s : State) (c t : Nat) (op : DsuOp) (k : Nat) : SegSame s (s.planBlock c t op k).1 := by
  unfold State.planBlock
  dsimp only
  have h := State.blockSource_segs s c t op k (s.examined c t op k)
  split
  · next e => rw [e] at h; exact h
  · next e => rw [e] at h; exact h
  · next e =>
    rw [e] at h
    repeat' split
    all_goals exact h

theorem State.dropContext_segs (s : State) (t : Nat) : SegSame s (s.dropContext t) :=
  .of_touches (State.dropContext_touches ..) rfl

theorem State.runDsu_segs (s : State) (x : At) (r : DsuRun) : SegSame s (s.runDsu x r) :=
  .of_touches (State.runDsu_touches ..) rfl

theorem startDsu_segs (x : At) (op : DsuOp) (s t : State) (h : startDsu x op s = .next t) : SegSame s t := by
  unfold startDsu at h
  dsimp only at h
  split at h
  · have k := State.planBlock_segs s x.c x.t op (bits (s.sock x.t sockDC) 20 0)
    split at h
    · cases h
    · next e =>
      rw [e] at k; cases h
      exact (k.trans (State.dropContext_segs ..)).trans (State.runDsu_segs ..)
  · split at h
    · cases h
      exact ((State.dropContext_segs s x.t).trans (.of_touches (State.dsuStatus_touches ..) rfl)).trans
        (.of_touches (State.faultAt_touches ..) rfl)
    · split at h <;>
      · cases h
        exact (State.dropContext_segs ..).trans (State.runDsu_segs ..)

theorem State.readFrame_segs (s : State) (c t i n : Nat) : SegSame s (s.readFrame c t i n).1 := by
  induction n generalizing s i with
  | zero => exact .refl
  | succ n ih =>
    unfold State.readFrame
    have h := State.readOwn_segs s c t (s.frameAddr t i)
    split
    · next e => rw [e] at h; exact h
    · next a w e =>
      rw [e] at h
      have k := ih a (i + 1)
      split
      · next e2 => rw [e2] at k; exact h.trans k
      · exact h.trans k

theorem State.restore_segs (s : State) (c t step : Nat) (f : List Word) : SegSame s (State.restore s c t step f) := by
  unfold State.restore
  dsimp only
  with_reducible refine SegSame.trans ?_ (.of_touches (State.onCore_touches ..) rfl)
  with_reducible refine SegSame.trans ?_ (State.redirect_segs ..)
  with_reducible refine SegSame.trans ?_ (.of_touches (State.setSocks_touches ..) rfl)
  refine SegSame.setReg _ ?_ (by simp only [evtTctx]; omega)
  with_reducible exact SegSame.refl

theorem startCtl_segs (x : At) (op : CtlOp) (w : Word) (s : State) : SegSame s (startCtl x op w s) := by
  unfold startCtl
  cases op <;> dsimp only
  case fence =>
    split
    · exact .refl
    · exact .of_touches (State.onCore_touches ..) rfl
  case iflush =>
    split
    · exact .of_touches (State.onCore_touches ..) rfl
    · exact SegSame.trans (.of_touches (State.onCore_touches ..) rfl) (State.redirect_segs ..)
  case eret =>
    have h := State.readFrame_segs s x.c x.t 0 8
    split
    · next e => rw [e] at h; exact h.trans (.of_touches (State.faultAt_touches ..) rfl)
    · next e => rw [e] at h; exact h.trans (State.restore_segs ..)
  case svc =>
    split
    · exact State.occur_segs ..
    · exact .of_touches (State.faultAt_touches ..) rfl
  all_goals exact .refl

theorem startTrigger_segs (x : At) (m : Move) (tr : Trigger) (w : Word) (s t : State)
    (h : startTrigger x m tr w s = .next t) : SegSame s t := by
  cases tr with
  | alu u op => cases h; exact .of_touches (startAlu_touches ..) rfl
  | mul op => cases h; exact .of_touches (startMul_touches ..) rfl
  | fxu u op => cases h; exact .of_touches (startFxu_touches ..) rfl
  | blu u op => cases h; exact .of_touches (startBlu_touches ..) rfl
  | lsu u op => exact .of_touches (startLsu_touches _ _ _ _ _ _ _ h) rfl
  | gtu op => cases h; exact .of_touches (startGtu_touches ..) rfl
  | dsu op => exact startDsu_segs _ _ _ _ h
  | ctl op =>
    unfold startTrigger at h
    dsimp only at h
    split at h
    · cases h; exact State.doTransfer_segs ..
    · cases h; exact startCtl_segs ..

/-! ### Segments through an issue -/

theorem State.applyMode_segs (s : State) (c : Nat) (hc : c < 128) : SegSame s (State.applyMode s c) := by
  unfold State.applyMode
  split
  with_reducible exact SegSame.refl
  dsimp only
  split
  with_reducible refine SegSame.trans ?_ (.of_touches (State.onCore_touches ..) rfl)
  refine SegSame.setFlag _ ?_ (by simp only [coreMode, coreReg]; omega)
  with_reducible refine SegSame.trans ?_ (State.flushFront_segs ..)
  with_reducible exact SegSame.refl
  with_reducible refine SegSame.trans ?_ (.of_touches (State.onCore_touches ..) rfl)
  with_reducible exact SegSame.refl

theorem State.dueMode_segs (s : State) (c : Nat) (hc : c < 128) : SegSame s (State.dueMode s c) := by
  unfold State.dueMode
  split
  split
  with_reducible refine SegSame.trans ?_ (State.applyMode_segs (hc := hc) ..)
  with_reducible exact SegSame.refl
  with_reducible exact SegSame.refl
  with_reducible exact SegSame.refl

theorem State.await_segs (s : State) (c : Nat) (w : FWord) (hc : c < 128) : SegSame s (State.await s c w) := by
  unfold State.await
  with_reducible refine SegSame.trans ?_ (State.runFront_segs ..)
  with_reducible refine SegSame.trans ?_ (State.chargeTo_segs (hc := hc) ..)
  with_reducible exact SegSame.refl

theorem State.fetchTrap_segs (s : State) (c code phys : Nat) (d : Word) : SegSame s (State.fetchTrap s c code phys d) := by
  unfold State.fetchTrap
  split
  with_reducible refine SegSame.trans ?_ (.of_touches (State.raise_touches ..) rfl)
  with_reducible refine SegSame.trans ?_ (State.error_segs ..)
  with_reducible exact SegSame.refl
  with_reducible refine SegSame.trans ?_ (.of_touches (State.trapWord_touches ..) rfl)
  with_reducible exact SegSame.refl

theorem State.popFront_segs (s : State) (c n step : Nat) (next : PAddr) : SegSame s (State.popFront s c n step next) := by
  unfold State.popFront
  with_reducible refine SegSame.trans ?_ (State.runFront_segs ..)
  with_reducible refine SegSame.trans ?_ (.of_touches (State.onCore_touches ..) rfl)
  with_reducible exact SegSame.refl

theorem State.readSrc_segs (s : State) (c t i : Nat) (m : Move) : SegSame s (s.readSrc c t i m).1 := by
  unfold State.readSrc
  split
  · exact .refl
  · split
    · exact .refl
    · next a _ =>
      have h := State.meet_segs s 2 c t a
      split
      · next e => rw [e] at h; exact h
      · next e => rw [e] at h; exact h

theorem State.readAll_segs (s : State) (c t i : Nat) (ms : List Move) : SegSame s (s.readAll c t i ms).1 := by
  induction ms generalizing s i with
  | nil => exact .refl
  | cons m ms ih =>
    unfold State.readAll
    split
    · exact (State.readSrc_segs s c t i m).trans (ih _ _)
    · exact ih _ _

theorem State.setPtrs_segs (s : State) {t : Nat} (p : Nat → Nat) (ht : t < 1024) : SegSame s (s.setPtrs t p) := by
  unfold State.setPtrs
  have : ∀ (l : List Nat) (a : State), (∀ w ∈ l, w < 4) → SegSame s a →
      SegSame s (l.foldl (fun s w => if p w = s.winPtr t w then s else s.setFld (coreWin t w) 10 0 (p w)) a) := by
    intro l
    induction l with
    | nil => exact fun a _ h => h
    | cons w l ih =>
      intro a hw h
      have := hw w (by simp)
      refine ih _ (fun x hx => hw x (by simp [hx])) ?_
      dsimp only
      split
      · exact h
      · exact h.setFld _ (by simp only [coreWin]; omega)
  exact this _ _ (by simp) .refl

theorem State.spendIssue_segs (s : State) (c : Nat) (ms : List Move) : SegSame s (s.spendIssue c ms) := by
  unfold State.spendIssue
  dsimp only
  split
  · exact ⟨fun _ _ _ => rfl⟩
  · exact .refl

theorem State.writeCore_segs (s : State) {c k : Nat} (v : Word) (hc : c < 128) (hk : k < 9) : SegSame s (s.writeCore c k v) := by
  unfold State.writeCore
  split
  · exact SegSame.trans (SegSame.refl.setFlag _ (by simp only [coreMode, coreReg]; omega)) (.of_touches (State.onCore_touches ..) rfl)
  · split
    · exact SegSame.refl.setReg _ (by simp only [coreReg]; omega)
    · exact .refl

theorem State.writeSock_segs (s : State) {c : Nat} (t step n i : Nat) (flg v : Word) (hc : c < 128) :
    SegSame s (s.writeSock c t step n i flg v) := by
  have hs (a : State) (u n : Nat) (v : Word) : SegSame a (a.setSock u n v) := .of_touches (State.setSock_touches ..) rfl
  unfold State.writeSock
  split
  · exact hs ..
  · split
    · exact (hs ..).trans (.of_touches (State.onCore_touches ..) rfl)
    · split
      · exact .refl
      · split
        · exact State.writeCore_segs _ _ hc (by omega)
        · repeat' split
          all_goals exact hs ..

theorem State.writeAll_segs (s : State) {c : Nat} (t step : Nat) (flg : Word) (i : Nat) (l : List (Move × Option Word)) (hc : c < 128) :
    SegSame s (s.writeAll c t step flg i l) := by
  induction l generalizing s i with
  | nil => exact .refl
  | cons x l ih =>
    obtain ⟨m, v⟩ := x
    cases v with
    | none => exact ih s (i + 1)
    | some v =>
      unfold State.writeAll
      dsimp only
      refine SegSame.trans ?_ (ih _ _)
      split
      · exact .of_touches (State.poke_touches ..) rfl
      · split
        · exact .refl
        · exact State.writeSock_segs _ _ _ _ _ _ _ hc

theorem State.issued_segs (s : State) (c n moves : Nat) (hc : c < 128) : SegSame s (State.issued s c n moves) := by
  unfold State.issued
  dsimp only
  with_reducible refine SegSame.trans ?_ (State.charge_segs (hc := hc) ..)
  with_reducible refine SegSame.trans ?_ (.of_touches (State.onCore_touches ..) rfl)
  split
  refine SegSame.count _ ?_ (by simp only [corePaired, coreReg]; omega)
  refine SegSame.count _ ?_ (by simp only [coreIssue, coreReg]; omega)
  with_reducible exact SegSame.refl
  refine SegSame.count _ ?_ (by simp only [coreIssue, coreReg]; omega)
  with_reducible exact SegSame.refl

theorem State.windowFaults_segs (s : State) (c : Nat) (l : List (Move × Option Word)) : SegSame s (s.windowFaults c l) := by
  induction l generalizing s with
  | nil => exact .refl
  | cons x l ih =>
    unfold State.windowFaults
    split
    · exact SegSame.trans (.of_touches (State.raise_touches ..) rfl) (ih _)
    · exact ih _

end Sys2Proof.Machine
end

