-- ==== Sys2Proof/Laws/Issue.lean ====
section
/-!
SUPPORT. What the triggers of an issue do to a tenant whose segments are populated: they start, and what is in flight
stays in flight.
-/
namespace Sys2Proof.Machine
set_option Elab.async false

/-! ### Segments that are populated -/

/-- An access that passes its check reaches a word that exists. -/
theorem State.populated.reaches {s : State} {c t g a : Nat} {need : Need} {u : User} {off : Int} (h : s.populated c t)
    (hg : g < 16) (ha : s.access t g need u off = .ok a) : target c a ≠ none := by
  unfold State.access Seg.check at ha
  dsimp only at ha
  split at ha
  · cases ha
  · next e =>
    cases ha
    split at e
    · cases e
    · split at e
      · cases e
      · split at e
        · cases e
        · split at e
          · cases e
          · split at e
            · cases e
            · exact h.2 g _ _ hg (by assumption) (by omega)

theorem bits_seg (w : Word) : bits w 23 20 < 16 := bits_lt w 23 20

theorem State.populated.checkRun {s : State} {c t g off n : Nat} {need : Need} (h : s.populated c t) (hg : g < 16) (a : Nat) :
    s.checkRun c t g off n need ≠ .gone a := by
  unfold State.checkRun
  split
  · nofun
  · dsimp only
    split
    · nofun
    · next e =>
      have k : target c ((s.seg t g).phys s.frame off) ≠ none :=
        h.reaches (need := need) (u := .dsu) (off := off) hg (by simp only [State.access, e, Int.toNat_natCast])
      rw [if_neg k]
      split <;> nofun

theorem State.populated.blockSource {s : State} {c t k j : Nat} {op : DsuOp} (h : s.populated c t) (a : Nat) :
    (s.blockSource c t op k j).2 ≠ .gone a := by
  have rb (o : ReadOut) (ho : o ≠ .gone a) : (s.readBlock c t j o).2 ≠ .gone a := by
    unfold State.readBlock
    split
    · nofun
    · exact ho
  unfold State.blockSource
  dsimp only
  split
  · nofun
  · split
    · next e => exact absurd e (h.checkRun (bits_seg _) _)
    · split
      · refine rb _ ?_
        split <;> nofun
      · nofun
    · exact rb _ (by nofun)

theorem State.populated.planBlock {s : State} {c t k : Nat} {op : DsuOp} (h : s.populated c t) (f : Fault) :
    (s.planBlock c t op k).2 ≠ .error f := by
  unfold State.planBlock
  dsimp only
  have h1 := State.blockSource_segs s c t op k (s.examined c t op k)
  have g1 := h.blockSource (op := op) (k := k) (j := s.examined c t op k)
  split
  · next e => rw [e] at g1; exact absurd rfl (g1 _)
  · nofun
  · next e =>
    rw [e] at h1
    have hp := h1.populated h
    split
    · nofun
    · split
      · next e3 => exact absurd e3 (hp.checkRun (bits_seg _) _)
      · nofun
      · nofun

theorem startDsu_next {x : At} {op : DsuOp} {s : State} (h : s.populated x.c x.t) : ∃ t, startDsu x op s = .next t := by
  unfold startDsu
  dsimp only
  split
  · split
    · next e => exact absurd (congrArg Prod.snd e) (h.planBlock _)
    · exact ⟨_, rfl⟩
  · split
    · exact ⟨_, rfl⟩
    · split <;> exact ⟨_, rfl⟩

/-- A trigger of a tenant with populated segments starts. -/
theorem startTrigger_next {x : At} {m : Move} {tr : Trigger} {w : Word} {s : State} (h : s.populated x.c x.t) :
    ∃ t, startTrigger x m tr w s = .next t := by
  unfold startTrigger
  split
  case h_5 =>
    unfold startLsu
    dsimp only
    split
    · exact ⟨_, rfl⟩
    · next e =>
      rw [if_neg (h.reaches (bits_seg w) e)]
      split
      · exact ⟨_, rfl⟩
      · split <;> exact ⟨_, rfl⟩
      · exact ⟨_, rfl⟩
      · exact ⟨_, rfl⟩
  case h_7 => exact startDsu_next h
  case h_8 => split <;> exact ⟨_, rfl⟩
  all_goals exact ⟨_, rfl⟩

/-- The triggers of an issue of a tenant with populated segments start. -/
theorem startAll_next {c t step : Nat} {flg : Word} {l : List (Move × Option Word)} {s : State} (h : s.populated c t) :
    ∃ u, startAll c t step flg l s = .next u := by
  induction l generalizing s with
  | nil => exact ⟨s, rfl⟩
  | cons a l ih =>
    obtain ⟨m, v⟩ := a
    unfold startAll
    dsimp only
    split
    · rename_i tr w _
      obtain ⟨u, e⟩ := startTrigger_next (x := ⟨c, t, step, m.pc, m.phys, flg, m.mv.dst.toNat⟩) (m := m) (tr := tr) (w := w) h
      rw [e]
      exact ih ((startTrigger_segs _ _ _ _ _ _ e).populated h)
    · split
      · split
        · exact ih h
        · exact ih ((State.doTransfer_segs s ⟨c, t, step, m.pc, m.phys, flg, m.mv.dst.toNat⟩ _ _).populated h)
      · exact ih h
    · exact ih h

/-- An issue that acts for a tenant with populated segments completes. -/
theorem Ready.run_next {r : Ready} {c : Nat} (h : (r.written c).populated c r.t) : ∃ u, r.run c = .next u :=
  startAll_next h

end Sys2Proof.Machine
end

