-- ==== Sys2Proof/Laws/Prepare.lean ====
section
/-!
SUPPORT. What an issue that acts has passed: the one lemma that unfolds `prepare`.
-/
namespace Sys2Proof.Machine
set_option Elab.async false

/-! ### What a core's wait for its next word leaves alone -/

/-- While a core waits for its next word, only its front end, its predictor, the steps that pass, and the reads of its gathers and
its DSU go on. -/
structure Waits (k q : Core) : Prop where
  phase : q.phase = k.phase
  slot : q.slot = k.slot
  tenant : q.tenant = k.tenant
  pc : q.pc = k.pc
  now : k.now ≤ q.now
  flights : q.flights = k.flights
  buffer : q.buffer = k.buffer
  retired : q.retired = k.retired
  lastRet : q.lastRet = k.lastRet
  trap : q.trap = k.trap
  flgMove : q.flgMove = k.flgMove

theorem Waits.refl {k : Core} : Waits k k := by constructor <;> first | rfl | exact Nat.le_refl _

theorem Waits.trans {a b c : Core} (h : Waits a b) (k : Waits b c) : Waits a c :=
  ⟨k.phase.trans h.phase, k.slot.trans h.slot, k.tenant.trans h.tenant, k.pc.trans h.pc, Nat.le_trans h.now k.now,
    k.flights.trans h.flights, k.buffer.trans h.buffer, k.retired.trans h.retired, k.lastRet.trans h.lastRet,
    k.trap.trans h.trap, k.flgMove.trans h.flgMove⟩

/-- An operation that touches no core leaves it waiting as it was. -/
theorem Waits.of_touches {l : List Part} {s t : State} (c : Nat) (h : Touches l s t) (hl : l.contains .cores = false) :
    Waits (s.core c) (t.core c) := by
  have e : t.cores = s.cores := h.1 .cores (fun q => by rw [← List.contains_iff_mem, hl] at q; cases q)
  simp only [State.core, e]
  exact .refl

/-- One update of the core. -/
theorem Waits.onCore {s : State} {c : Nat} {f : Core → Core} (h : Waits (s.core c) (f (s.core c))) :
    Waits (s.core c) ((s.onCore c f).core c) := by simpa using h

theorem State.flushFront_waits (s : State) (c n : Nat) : Waits (s.core c) ((s.flushFront c n).core c) := by
  unfold State.flushFront
  exact (Waits.of_touches c (State.logDiscards_touches s c n) rfl).trans (Waits.onCore (by constructor <;> first | rfl | exact Nat.le_refl _))

theorem State.dueMode_waits (s : State) (c : Nat) : Waits (s.core c) ((s.dueMode c).core c) := by
  unfold State.dueMode State.applyMode
  split
  · split
    · split
      · exact .refl
      · dsimp only
        split
        · refine ((State.flushFront_waits s c _).trans (.of_touches c (State.setFlag_touches ..) rfl)).trans (Waits.onCore ?_)
          constructor <;> first | rfl | exact Nat.le_refl _
        · exact Waits.onCore (by constructor <;> first | rfl | exact Nat.le_refl _)
    · exact .refl
  · exact .refl

theorem State.enqueueWord_waits (s : State) (c n : Nat) (pc : PAddr) (f : Fetched) :
    Waits (s.core c) ((s.enqueueWord c n pc f).core c) := by
  unfold State.enqueueWord
  dsimp only
  rw [State.core_setCore_self]
  constructor <;> first | rfl | exact Nat.le_refl _

theorem State.secondWord_waits (s : State) (c t n : Nat) (pc : PAddr) (f : Fetched) :
    Waits (s.core c) ((s.secondWord c t n pc f).core c) := by
  unfold State.secondWord
  have h := Waits.of_touches c (State.fetch_touches s c t (pcAdd pc 1)) rfl
  split
  · split
    · split
      · next e => rw [e] at h; exact h.trans (State.enqueueWord_waits ..)
      · next e => rw [e] at h; exact h
    · exact .refl
  · exact .refl

theorem State.fetchStep_waits (s : State) (c t n : Nat) : Waits (s.core c) ((s.fetchStep c t n).core c) := by
  unfold State.fetchStep
  dsimp only
  refine Waits.trans ?_ (Waits.onCore (by constructor <;> first | rfl | exact Nat.le_refl _))
  have h := Waits.of_touches c (State.fetch_touches s c t (s.core c).fetchPc) rfl
  split
  · exact .refl
  · split
    · next e => rw [e] at h; exact (h.trans (State.enqueueWord_waits ..)).trans (State.secondWord_waits ..)
    · next e => rw [e] at h; exact h.trans (Waits.onCore (by constructor <;> first | rfl | exact Nat.le_refl _))

theorem State.runFront_waits (s : State) (c upto : Nat) : Waits (s.core c) ((s.runFront c upto).core c) := by
  unfold State.runFront
  generalize s.tenant c = t
  generalize 16 = i
  induction i generalizing s with
  | zero =>
    unfold State.runSteps
    exact Waits.onCore (by constructor <;> first | rfl | exact Nat.le_refl _)
  | succ i ih =>
    unfold State.runSteps
    split
    · exact .refl
    · exact (State.fetchStep_waits ..).trans (ih _)

theorem State.bringHead_waits (s : State) (c : Nat) : Waits (s.core c) ((s.bringHead c).core c) := by
  unfold State.bringHead State.realign
  have h : Waits (s.core c) ((s.realign c).core c) := by
    unfold State.realign
    refine Waits.onCore ?_
    split
    · split
      · exact .refl
      · constructor <;> first | rfl | exact Nat.le_refl _
    · exact .refl
  dsimp only
  split
  · exact (h.trans (State.runFront_waits ..)).trans (State.runFront_waits ..)
  · exact h.trans (State.runFront_waits ..)

theorem State.gatherTick_waits (s : State) (c upto : Nat) : Waits (s.core c) ((s.gatherTick c upto).core c) := by
  unfold State.gatherTick
  split
  · exact .refl
  · have h := Waits.of_touches c (State.issueGathers_touches s c (s.tenant c) upto (s.core c).gathers) rfl
    split
    next e =>
      rw [e] at h
      exact h.trans (Waits.onCore (by constructor <;> first | rfl | exact Nat.le_refl _))

theorem State.dsuTick_waits (s : State) (c upto : Nat) : Waits (s.core c) ((s.dsuTick c upto).core c) := by
  unfold State.dsuTick
  split
  · exact .refl
  · next r _ =>
    have h := Waits.of_touches c (State.dsuSteps_touches s c (s.tenant c) upto 42 r) rfl
    split
    next e =>
      rw [e] at h
      exact h.trans (Waits.onCore (by constructor <;> first | rfl | exact Nat.le_refl _))

theorem State.charge_waits (s : State) (c n : Nat) (stall : Bool) : Waits (s.core c) ((s.charge c n stall).core c) := by
  unfold State.charge
  dsimp only
  have h := ((State.gatherTick_waits s c ((s.core c).now + n)).trans
    (State.dsuTick_waits (s.gatherTick c ((s.core c).now + n)) c ((s.core c).now + n)))
  generalize (s.gatherTick c ((s.core c).now + n)).dsuTick c ((s.core c).now + n) = u at h ⊢
  have k : Waits (s.core c) ((u.onCore c fun k => { k with now := k.now + n }).core c) :=
    h.trans (Waits.onCore (by constructor <;> first | rfl | exact Nat.le_add_right _ _))
  split
  · exact (k.trans (.of_touches c (State.setFld_touches ..) rfl)).trans (.of_touches c (State.count_touches ..) rfl)
  · exact k.trans (.of_touches c (State.setFld_touches ..) rfl)

theorem State.await_waits (s : State) (c : Nat) (w : FWord) : Waits (s.core c) ((s.await c w).core c) :=
  (State.charge_waits ..).trans (State.runFront_waits ..)

/-! ### The head of the front end is the next word -/

/-- The word at the head of the front end, if there is one, is the next word (R138). -/
def Core.aligned (k : Core) : Prop := ∀ w l, k.front = w :: l → w.pc = k.pc

theorem Core.aligned_nil {k : Core} (h : k.front = []) : k.aligned := fun _ _ e => by rw [h] at e; cases e

theorem State.core_of_touches {l : List Part} {s t : State} (c : Nat) (h : Touches l s t) (hl : l.contains .cores = false) :
    t.core c = s.core c := by
  have e : t.cores = s.cores := h.1 .cores (fun q => by rw [← List.contains_iff_mem, hl] at q; cases q)
  simp only [State.core, e]

theorem State.enqueueWord_aligned {s : State} {c n : Nat} {pc : PAddr} {f : Fetched} (h : (s.core c).aligned)
    (hp : (s.core c).front = [] → pc = (s.core c).pc) : ((s.enqueueWord c n pc f).core c).aligned := by
  unfold State.enqueueWord
  dsimp only
  rw [State.core_setCore_self]
  intro w l e
  dsimp only at e ⊢
  cases hf : (s.core c).front with
  | nil => rw [hf] at e; cases e; exact hp hf
  | cons a b => rw [hf] at e; cases e; exact h _ _ hf

theorem State.enqueueWord_front (s : State) (c n : Nat) (pc : PAddr) (f : Fetched) :
    ((s.enqueueWord c n pc f).core c).front ≠ [] := by
  unfold State.enqueueWord
  dsimp only
  rw [State.core_setCore_self]
  simp

theorem State.secondWord_aligned {s : State} {c t n : Nat} {pc : PAddr} {f : Fetched} (h : (s.core c).aligned)
    (hf : (s.core c).front ≠ []) : ((s.secondWord c t n pc f).core c).aligned := by
  unfold State.secondWord
  have k := State.core_of_touches c (State.fetch_touches s c t (pcAdd pc 1)) rfl
  split
  · split
    · split
      · next e =>
        rw [e] at k
        exact State.enqueueWord_aligned (by rw [k]; exact h) (fun q => absurd (by rw [← k]; exact q) hf)
      · next e => rw [e] at k; dsimp only at k; rw [k]; exact h
    · exact h
  · exact h

theorem State.fetchStep_aligned {s : State} {c t n : Nat} (h : (s.core c).aligned) : ((s.fetchStep c t n).core c).aligned := by
  unfold State.fetchStep
  dsimp only
  have k := State.core_of_touches c (State.fetch_touches s c t (s.core c).fetchPc) rfl
  have upd {u : State} (g : (u.core c).aligned) : ((u.onCore c fun k => { k with paStep := n + 1 }).core c).aligned := by
    rw [State.core_onCore_self]; exact g
  refine upd ?_
  split
  · exact h
  · split
    · next e =>
      rw [e] at k
      refine State.secondWord_aligned (State.enqueueWord_aligned (by rw [k]; exact h) fun q => ?_) (State.enqueueWord_front _ _ _ _ _)
      rw [k] at q ⊢
      simp [Core.fetchPc, q]
    · next e =>
      rw [e] at k
      rw [State.core_onCore_self]
      dsimp only at k
      rw [k]
      exact h

theorem State.runFront_aligned {s : State} {c upto : Nat} (h : (s.core c).aligned) : ((s.runFront c upto).core c).aligned := by
  unfold State.runFront
  generalize s.tenant c = t
  generalize 16 = i
  induction i generalizing s with
  | zero => unfold State.runSteps; rw [State.core_onCore_self]; exact h
  | succ i ih =>
    unfold State.runSteps
    split
    · exact h
    · exact ih (State.fetchStep_aligned h)

theorem State.bringHead_aligned (s : State) (c : Nat) : ((s.bringHead c).core c).aligned := by
  unfold State.bringHead
  have h : ((s.realign c).core c).aligned := by
    unfold State.realign
    rw [State.core_onCore_self]
    split
    · next w l e =>
      split
      · next hw => intro a b q; rw [e] at q; cases q; exact hw
      · exact Core.aligned_nil rfl
    · next e => exact Core.aligned_nil e
  dsimp only
  split
  · exact State.runFront_aligned (State.runFront_aligned h)
  · exact State.runFront_aligned h

theorem State.gatherTick_front (s : State) (c upto : Nat) :
    ((s.gatherTick c upto).core c).front = (s.core c).front ∧ ((s.gatherTick c upto).core c).pc = (s.core c).pc := by
  unfold State.gatherTick
  split
  · exact ⟨rfl, rfl⟩
  · have h := State.core_of_touches c (State.issueGathers_touches s c (s.tenant c) upto (s.core c).gathers) rfl
    split
    next e => rw [e] at h; dsimp only at h; rw [State.core_onCore_self]; exact ⟨by rw [h], by rw [h]⟩

theorem State.dsuTick_front (s : State) (c upto : Nat) :
    ((s.dsuTick c upto).core c).front = (s.core c).front ∧ ((s.dsuTick c upto).core c).pc = (s.core c).pc := by
  unfold State.dsuTick
  split
  · exact ⟨rfl, rfl⟩
  · next r _ =>
    have h := State.core_of_touches c (State.dsuSteps_touches s c (s.tenant c) upto 42 r) rfl
    split
    next e => rw [e] at h; dsimp only at h; rw [State.core_onCore_self]; exact ⟨by rw [h], by rw [h]⟩

theorem State.charge_front (s : State) (c n : Nat) (stall : Bool) :
    ((s.charge c n stall).core c).front = (s.core c).front ∧ ((s.charge c n stall).core c).pc = (s.core c).pc := by
  unfold State.charge
  dsimp only
  have g := State.gatherTick_front s c ((s.core c).now + n)
  have d := State.dsuTick_front (s.gatherTick c ((s.core c).now + n)) c ((s.core c).now + n)
  generalize s.gatherTick c ((s.core c).now + n) = u at g d ⊢
  have k := fun a => State.core_of_touches c (State.setFld_touches a (coreScnt c) 31 0
    (min 0xFFFFFFFF (a.fld (coreScnt c) 31 0 + n))) rfl
  split
  · rw [State.core_of_touches c (State.count_touches ..) rfl, k, State.core_onCore_self]
    exact ⟨d.1.trans g.1, d.2.trans g.2⟩
  · rw [k, State.core_onCore_self]
    exact ⟨d.1.trans g.1, d.2.trans g.2⟩

theorem State.await_aligned {s : State} {c : Nat} {w : FWord} (h : (s.core c).aligned) : ((s.await c w).core c).aligned := by
  unfold State.await State.chargeTo
  refine State.runFront_aligned ?_
  have k := State.charge_front s c (s.headReady c w - (s.core c).now) false
  intro a b e
  rw [k.2]
  exact h a b (by rw [← k.1]; exact e)

/-! ### What has been passed -/

/-- What one or two moves of an issue satisfy beside the selection. -/
inductive MovesOk : List Move → Prop where
  | one (m : Move) : MovesOk [m]
  | two (a b : Move) (h : checkBundle [a.mv, b.mv] = none)
      (hl : (a.mv.dst.toNat < 0x100 ∧ b.mv.dst.toNat < 0x100) ∨
        (pairFirst a.mv = true ∧ (∀ op, sockOf b.mv.dst.toNat ≠ .trig (.dsu op)) ∧
          sockOf b.mv.dst.toNat ≠ .trig (.ctl .eret) ∧ sockOf b.mv.dst.toNat ≠ .trig (.ctl .svc))) : MovesOk [a, b]

/-- An issue that acts: the state `s1` in which windows are resolved and sources read, which a wait has brought about, its moves
`ms0` before and `ms` after the windows are resolved, the pointers after, and the state `s2` after the reads. -/
structure Prepared (sel : List Mv → Bool) (c : Nat) (s : State) (r : Ready) (s1 s2 : State) (ms0 ms : List Move)
    (ptrs : Nat → Nat) : Prop where
  can : s.canIssue c = true
  tenant : r.t = s.tenant c
  waits : Waits (s.core c) (s1.core c)
  step : r.step = (s1.core c).now
  pc : r.pc = (s.core c).pc
  flg : r.flg = s.sock r.t 0x22
  sel : sel (ms0.map (·.mv)) = true
  moves : MovesOk ms0
  windows : s1.windows c r.t (s1.winPtr r.t) ms0 = .ok (ms, ptrs)
  reads : s1.readAll c r.t 0 ms = (s2, r.vs)
  plain : s2.valueTrap c r.t r.vs = none
  state : r.s = (s2.setPtrs r.t ptrs).spendIssue c ms
  before : Touches [.free, .out, .regs, .check, .cores, .events, .deliver, .pair, .host] s s1
  segs : c < 128 → SegSame s s1

/-- The moves of an issue keep their words when windows are resolved. -/
theorem State.windows_mv {s : State} {c t : Nat} {ms0 ms : List Move} {p q : Nat → Nat}
    (h : s.windows c t p ms0 = .ok (ms, q)) :
    ms.map (fun m => (m.mv, m.pc, m.phys, m.on)) = ms0.map (fun m => (m.mv, m.pc, m.phys, m.on)) := by
  induction ms0 generalizing p ms with
  | nil => unfold State.windows at h; cases h; rfl
  | cons m l ih =>
    unfold State.windows at h
    dsimp only at h
    split at h
    · cases h
    · cases h
    · split at h
      · cases h
      · cases h
      · split at h
        · cases h
        · cases h
        · next e => cases h; simp [ih e]

/-- The second word of a pair is one move to another socket, behind a first word that may pair. -/
theorem State.partner_ok {s : State} {c t : Nat} {f : Form} {l : List FWord} (h : s.partner c t f l ≠ []) :
    ∃ m m' : Mv, ∃ x : Move, f.moves = [m] ∧ s.partner c t f l = [x] ∧ x.mv = m' ∧ checkBundle [m, m'] = none ∧
      pairFirst m = true ∧ (∀ op, sockOf m'.dst.toNat ≠ .trig (.dsu op)) ∧
      sockOf m'.dst.toNat ≠ .trig (.ctl .eret) ∧ sockOf m'.dst.toNat ≠ .trig (.ctl .svc) := by
  unfold State.partner at h ⊢
  split at h
  · rename_i m w _ e
    rw [e] at *
    dsimp only at h ⊢
    split at h
    · exact absurd rfl h
    · next hn =>
      rw [if_neg hn]
      split at h
      · rename_i x phys ef
        split at h
        · next hc =>
          rw [if_pos hc]
          simp only [Bool.and_eq_true, decide_eq_true_eq] at hc
          obtain ⟨⟨_, hs⟩, hb⟩ := hc
          unfold pairSecond at hs
          split at hs
          · rename_i m' e'
            simp only [Bool.and_eq_true, bne_iff_ne, ne_eq, decide_eq_true_eq] at hs
            refine ⟨m, m', _, rfl, by simp only [State.movesOf, e', List.map]; rfl, rfl, by rw [e'] at hb; exact hb, ?_, ?_, ?_, ?_⟩
            · simp only [Bool.or_eq_true, not_or, Bool.not_eq_true, Bool.not_eq_false'] at hn
              simpa using hn.1.1.1.1.1.2
            · intro op eo; rw [eo] at hs; simp at hs
            · intro eo; rw [eo] at hs; simp at hs
            · intro eo; rw [eo] at hs; simp at hs
          · cases hs
        · exact absurd rfl h
      · exact absurd rfl h
  · exact absurd rfl h

theorem decodeCheck_bundle {q : Mode} {f : Form} (h : decodeCheck q f = none) : checkBundle f.moves = none := by
  unfold decodeCheck at h
  simp only [orBad] at h
  repeat' split at h
  all_goals first
    | cases h
    | exact h

/-- What the word at the head of the front end has passed when it acts. -/
theorem prepareHead_ready {sel : List Mv → Bool} {c : Nat} {w : FWord} {l : List FWord} {s : State} {r : Ready}
    (h : prepareHead sel c w l s = .ready r) :
    ∃ s2 ms0 ms ptrs, r.t = s.tenant c ∧ r.step = (s.core c).now ∧ r.pc = w.pc ∧ r.flg = s.sock r.t 0x22 ∧
      sel (ms0.map (·.mv)) = true ∧ MovesOk ms0 ∧ s.windows c r.t (s.winPtr r.t) ms0 = .ok (ms, ptrs) ∧
      s.readAll c r.t 0 ms = (s2, r.vs) ∧ s2.valueTrap c r.t r.vs = none ∧ r.s = (s2.setPtrs r.t ptrs).spendIssue c ms := by
  unfold prepareHead at h
  dsimp only at h
  split at h
  · cases h
  · cases h
  · rename_i x phys _
    split at h
    · cases h
    · next hdc =>
      split at h
      · cases h
      · next hsel =>
        have hmv : MovesOk (s.movesOf (s.tenant c) (decodeWord x) w.pc phys w.ck ++ s.partner c (s.tenant c) (decodeWord x) l) := by
          by_cases hn : s.partner c (s.tenant c) (decodeWord x) l = []
          · rw [hn, List.append_nil]
            unfold State.movesOf
            have hc := decodeCheck_bundle hdc
            cases ew : decodeWord x with
            | pair ga sa da gb sb db =>
              rw [ew] at hc
              refine .two _ _ hc (.inl ⟨?_, ?_⟩)
              · exact Nat.lt_of_le_of_lt (show (da.zeroExtend 11).toNat ≤ da.toNat by simp [Nat.mod_le]) da.isLt
              · exact Nat.lt_of_le_of_lt (show (db.zeroExtend 11).toNat ≤ db.toNat by simp [Nat.mod_le]) db.isLt
            | long => exact .one _
            | imm => exact .one _
            | pred => exact .one _
          · obtain ⟨m, m', y, em, es, ey, hne, h1, h2, h3, h4⟩ := State.partner_ok hn
            subst ey
            rw [es]
            unfold State.movesOf
            rw [em]
            exact .two _ _ hne (.inr ⟨h1, h2, h3, h4⟩)
        generalize s.movesOf (s.tenant c) (decodeWord x) w.pc phys w.ck ++ s.partner c (s.tenant c) (decodeWord x) l = ms0 at *
        generalize (if s.partner c (s.tenant c) (decodeWord x) l = [] then 1 else 2) = n at h
        unfold State.prepareMoves at h
        dsimp only at h
        split at h
        · cases h
        · cases h
        · next ms ptrs ew =>
          split at h
          · cases h
          · split at h
            · cases h
            · next ht =>
              cases h
              exact ⟨_, ms0, ms, ptrs, rfl, rfl, rfl, rfl, by simpa using hsel, hmv, ew, rfl, ht, rfl⟩

/-- What an issue that acts has passed. -/
theorem prepare_ready {sel : List Mv → Bool} {c : Nat} {s : State} {r : Ready} (h : prepare sel c s = .ready r) :
    ∃ s1 s2 ms0 ms ptrs, Prepared sel c s r s1 s2 ms0 ms ptrs := by
  unfold prepare at h
  split at h
  · cases h
  · next hcan =>
    dsimp only at h
    have ha := State.bringHead_aligned (s.dueMode c) c
    have hw := (State.dueMode_waits s c).trans (State.bringHead_waits (s.dueMode c) c)
    have hd : Touches [.free, .out, .regs, .check, .cores, .events, .deliver, .pair, .host] s ((s.dueMode c).bringHead c) :=
      (Touches.mono (State.dueMode_touches s c) (by decide)).step (State.bringHead_touches ..) (by decide)
    have hg (hc : c < 128) : SegSame s ((s.dueMode c).bringHead c) := (State.dueMode_segs s c hc).trans (State.bringHead_segs ..)
    generalize (s.dueMode c).bringHead c = u at *
    split at h
    · cases h
    · rename_i w _ _
      split at h
      · cases h
      · split at h
        · cases h
        · have hw2 := hw.trans (State.await_waits u c w)
          have ha2 := State.await_aligned (w := w) ha
          have hd2 := hd.step (State.await_touches u c w) (by decide)
          have hg2 (hc : c < 128) := (hg hc).trans (State.await_segs u c w hc)
          generalize u.await c w = v at *
          split at h
          · next w2 l2 _ e2 =>
            obtain ⟨s2, ms0, ms, ptrs, h1, h2, h3, h4, h5, h6, h7, h8, h9, h10⟩ := prepareHead_ready h
            refine ⟨v, s2, ms0, ms, ptrs, ⟨by simpa using hcan, ?_, hw2, h2, ?_, ?_, h5, h6, h7, h8, h9, h10, hd2, hg2⟩⟩
            · rw [h1]; simp only [State.tenant, hw2.tenant]
            · rw [h3, ha2 _ _ e2, hw2.pc]
            · have : v.ctxs = s.ctxs := hd2.1 .ctxs (by decide)
              rw [h4]; simp only [State.sock, State.ctx, this]
          · cases h

/-- An issue that acts leaves the tenant's segments populated for its triggers. -/
theorem Ready.written_populated {sel : List Mv → Bool} {c : Nat} {s : State} {r : Ready} (h : prepare sel c s = .ready r)
    (hc : c < 128) (hp : s.populated c (s.tenant c)) : (r.written c).populated c r.t := by
  obtain ⟨s1, s2, ms0, ms, ptrs, k⟩ := prepare_ready h
  rw [← k.tenant] at hp
  have e2 : SegSame s s2 := by
    have := State.readAll_segs s1 c r.t 0 ms
    rw [k.reads] at this
    exact (k.segs hc).trans this
  have e3 : SegSame s r.s := by
    rw [k.state]
    exact e2.trans ((State.setPtrs_segs _ _ hp.1).trans (State.spendIssue_segs _ _ _))
  have e4 : SegSame s (r.written c) := by
    unfold Ready.written
    dsimp only
    refine SegSame.trans ?_ (State.windowFaults_segs ..)
    have h1 := e3.trans (((State.popFront_segs r.s c r.n r.step (pcAdd r.pc r.n)).trans
      (State.writeAll_segs _ r.t r.step r.flg 0 r.vs hc)).trans (State.issued_segs _ c r.n r.vs.length hc))
    split
    · exact h1.trans (.of_touches (State.onCore_touches ..) rfl)
    · exact h1
  exact e4.populated hp

/-- An issue of a tenant with populated segments that acts completes. -/
theorem issue_next {op : Op} {c : Nat} {s : State} {r : Ready} (h : prepare (issues op) c s = .ready r) (hc : c < 128)
    (hp : s.populated c (s.tenant c)) : ∃ u, r.run c = .next u :=
  Ready.run_next (Ready.written_populated h hc hp)

end Sys2Proof.Machine
end

