-- ==== Sys2Proof/Laws/TouchesDevice.lean ====
section
/-!
SUPPORT. Which parts of the state each operation touches (Ptp, Planner, TenantReset, Slots, Ports, PairOps, Link, Verdict, Events, Health), and that it keeps the canonical form of
memory.
-/
namespace Sys2Proof.Machine
set_option Elab.async false

/-! ### Ptp -/

theorem State.onClk_touches (s : State) (f : Clock → Clock) :
    Touches [.clk] s (State.onClk s f) := by
  unfold State.onClk
  with_reducible refine Touches.upd ?_
  with_reducible exact Touches.refl

theorem State.wrapPulse_touches (s : State) :
    Touches [.out, .clk] s (State.wrapPulse s) := by
  unfold State.wrapPulse
  dsimp only
  split
  with_reducible exact Touches.refl
  split
  with_reducible refine Touches.step ?_ (State.emit_touches ..) (by decide)
  with_reducible refine Touches.step ?_ (State.onClk_touches ..) (by decide)
  with_reducible exact Touches.refl
  with_reducible refine Touches.step ?_ (State.onClk_touches ..) (by decide)
  with_reducible exact Touches.refl

theorem State.pulseEnd_touches (s : State) :
    Touches [.out, .clk] s (State.pulseEnd s) := by
  unfold State.pulseEnd
  split
  split
  with_reducible refine Touches.step ?_ (State.emit_touches ..) (by decide)
  with_reducible refine Touches.step ?_ (State.onClk_touches ..) (by decide)
  with_reducible exact Touches.refl
  with_reducible exact Touches.refl
  with_reducible exact Touches.refl

theorem State.plainCount_touches (s : State) (n : Nat) :
    Touches [.clk] s (State.plainCount s n) := by
  unfold State.plainCount
  with_reducible refine Touches.step ?_ (State.onClk_touches ..) (by decide)
  with_reducible exact Touches.refl

theorem State.counts_touches (s : State) (x0 x1 : Nat) :
    Touches [.out, .clk] s (State.counts s x0 x1) := by
  induction x0 generalizing s x1 with
  | zero =>
    unfold State.counts
    with_reducible refine Touches.step ?_ (State.plainCount_touches ..) (by decide)
    with_reducible exact Touches.refl
  | succ n ih =>
    unfold State.counts
    split
    with_reducible exact Touches.refl
    dsimp only
    with_reducible refine Touches.step ?_ (ih ..) (by decide)
    with_reducible refine Touches.step ?_ (State.pulseEnd_touches ..) (by decide)
    split
    with_reducible refine Touches.step ?_ (State.wrapPulse_touches ..) (by decide)
    with_reducible refine Touches.step ?_ (State.plainCount_touches ..) (by decide)
    with_reducible refine Touches.step ?_ (State.onClk_touches ..) (by decide)
    with_reducible exact Touches.refl
    with_reducible refine Touches.step ?_ (State.plainCount_touches ..) (by decide)
    with_reducible refine Touches.step ?_ (State.onClk_touches ..) (by decide)
    with_reducible exact Touches.refl

theorem State.advance_touches (s : State) (n : Nat) :
    Touches [.out, .clk] s (State.advance s n) := by
  unfold State.advance
  split
  with_reducible refine Touches.step ?_ (State.plainCount_touches ..) (by decide)
  with_reducible exact Touches.refl
  with_reducible refine Touches.step ?_ (State.counts_touches ..) (by decide)
  with_reducible exact Touches.refl

theorem State.tickBase_touches (s : State) :
    Touches [.out, .clk] s (State.tickBase s) := by
  unfold State.tickBase
  split
  with_reducible refine Touches.step ?_ (State.advance_touches ..) (by decide)
  with_reducible exact Touches.refl
  with_reducible exact Touches.refl

theorem State.reach_touches (s : State) (n : Nat) :
    Touches [.out, .clk] s (State.reach s n) := by
  unfold State.reach
  split
  with_reducible refine Touches.step ?_ (State.advance_touches ..) (by decide)
  with_reducible exact Touches.refl
  with_reducible exact Touches.refl

theorem State.addCount_touches (s : State) :
    Touches [.out, .clk] s (State.addCount s) := by
  unfold State.addCount
  dsimp only
  split
  with_reducible refine Touches.step ?_ (State.wrapPulse_touches ..) (by decide)
  with_reducible refine Touches.step ?_ (State.onClk_touches ..) (by decide)
  with_reducible exact Touches.refl
  with_reducible refine Touches.step ?_ (State.onClk_touches ..) (by decide)
  with_reducible exact Touches.refl

theorem State.omitCount_touches (s : State) :
    Touches [.clk] s (State.omitCount s) := by
  unfold State.omitCount
  with_reducible refine Touches.step ?_ (State.onClk_touches ..) (by decide)
  with_reducible exact Touches.refl

theorem State.stepBase_touches (s : State) (d : Int) :
    Touches [.clk] s (State.stepBase s d) := by
  unfold State.stepBase
  with_reducible refine Touches.step ?_ (State.onClk_touches ..) (by decide)
  with_reducible exact Touches.refl


/-! ### Planner -/

theorem State.onAge_touches (s : State) (f : Planner → Planner) :
    Touches [.age] s (State.onAge s f) := by
  unfold State.onAge
  with_reducible refine Touches.upd ?_
  with_reducible exact Touches.refl

theorem State.ageFlag_touches (s : State) (b n : Nat) :
    Touches [.out, .regs, .events, .deliver, .pair, .host] s (State.ageFlag s b n) := by
  unfold State.ageFlag
  split
  with_reducible exact Touches.refl
  with_reducible refine Touches.step ?_ (State.occur_touches ..) (by decide)
  with_reducible refine Touches.step ?_ (State.setFlag_touches ..) (by decide)
  with_reducible exact Touches.refl

theorem State.scrubCodes_touches (s : State) :
    Touches [.regs, .age] s (State.scrubCodes s) := by
  unfold State.scrubCodes
  with_reducible refine Touches.foldl _ (fun _ _ _ => ?_) ?_
  dsimp only
  with_reducible refine Touches.step ?_ (State.onAge_touches ..) (by decide)
  split
  with_reducible refine Touches.step ?_ (State.count_touches ..) (by decide)
  assumption
  assumption
  with_reducible exact Touches.refl

theorem State.checkCodes_touches (s : State) :
    Touches [.out, .regs, .events, .deliver, .pair, .age, .host] s (State.checkCodes s) := by
  unfold State.checkCodes
  with_reducible refine Touches.foldl _ (fun _ _ _ => ?_) ?_
  dsimp only
  split
  assumption
  with_reducible refine Touches.step ?_ (State.ageFlag_touches ..) (by decide)
  with_reducible refine Touches.step ?_ (State.count_touches ..) (by decide)
  with_reducible refine Touches.step ?_ (State.onAge_touches ..) (by decide)
  assumption
  with_reducible exact Touches.refl

theorem State.clip_touches (s : State) (kind : Nat) :
    Touches [.out, .regs, .events, .deliver, .pair, .host] s (State.clip s kind) := by
  unfold State.clip
  with_reducible refine Touches.step ?_ (State.setFld_touches ..) (by decide)
  with_reducible refine Touches.step ?_ (State.ageFlag_touches ..) (by decide)
  with_reducible exact Touches.refl

theorem State.holdStep_touches (s : State) (n : Nat) :
    Touches [.out, .regs, .events, .deliver, .pair, .host] s (State.holdStep s n) := by
  unfold State.holdStep
  split
  with_reducible refine Touches.step ?_ (faultEdge_touches ..) (by decide)
  with_reducible refine Touches.step ?_ (State.onPair_touches ..) (by decide)
  with_reducible refine Touches.step ?_ (State.setFld_touches ..) (by decide)
  with_reducible refine Touches.step ?_ (State.ageFlag_touches ..) (by decide)
  with_reducible exact Touches.refl
  split
  with_reducible refine Touches.step ?_ (State.setFld_touches ..) (by decide)
  with_reducible refine Touches.step ?_ (State.setFlag_touches ..) (by decide)
  with_reducible exact Touches.refl
  with_reducible exact Touches.refl

theorem State.recordRound_touches (s : State) (readings : List (Nat × Nat)) :
    Touches [.regs] s (State.recordRound s readings) := by
  unfold State.recordRound
  dsimp only
  with_reducible refine Touches.step ?_ (State.setFld_touches ..) (by decide)
  with_reducible refine Touches.foldl _ (fun _ _ _ => ?_) ?_
  with_reducible refine Touches.step ?_ (State.setFld_touches ..) (by decide)
  with_reducible refine Touches.step ?_ (State.setFld_touches ..) (by decide)
  assumption
  with_reducible exact Touches.refl

theorem State.candidate_touches (s : State) (readings : List (Nat × Nat)) (start : Nat) :
    Touches [.out, .regs, .events, .deliver, .pair, .age, .host] s (State.candidate s readings start) := by
  unfold State.candidate
  dsimp only
  split
  with_reducible exact Touches.refl
  with_reducible refine Touches.step ?_ (State.onAge_touches ..) (by decide)
  split
  split
  split
  with_reducible refine Touches.step ?_ (State.setFlag_touches ..) (by decide)
  with_reducible refine Touches.step ?_ (State.holdStep_touches ..) (by decide)
  with_reducible exact Touches.refl
  with_reducible refine Touches.step ?_ (State.holdStep_touches ..) (by decide)
  with_reducible exact Touches.refl
  split
  with_reducible refine Touches.step ?_ (State.setFlag_touches ..) (by decide)
  with_reducible refine Touches.step ?_ (State.holdStep_touches ..) (by decide)
  with_reducible refine Touches.step ?_ (State.clip_touches ..) (by decide)
  with_reducible exact Touches.refl
  with_reducible refine Touches.step ?_ (State.holdStep_touches ..) (by decide)
  with_reducible refine Touches.step ?_ (State.clip_touches ..) (by decide)
  with_reducible exact Touches.refl
  split
  with_reducible refine Touches.step ?_ (State.setFlag_touches ..) (by decide)
  with_reducible refine Touches.step ?_ (State.holdStep_touches ..) (by decide)
  split
  with_reducible exact Touches.refl
  with_reducible refine Touches.step ?_ (State.clip_touches ..) (by decide)
  with_reducible exact Touches.refl
  with_reducible refine Touches.step ?_ (State.holdStep_touches ..) (by decide)
  split
  with_reducible exact Touches.refl
  with_reducible refine Touches.step ?_ (State.clip_touches ..) (by decide)
  with_reducible exact Touches.refl

theorem State.endRound_touches (s : State) (readings : List (Nat × Nat)) :
    Touches [.free, .out, .regs, .events, .deliver, .pair, .age, .host, .clk] s (State.endRound s readings) := by
  unfold State.endRound
  split
  with_reducible exact Touches.refl
  dsimp only
  split
  with_reducible refine Touches.step ?_ (State.spend_touches ..) (by decide)
  with_reducible refine Touches.step ?_ (State.candidate_touches ..) (by decide)
  with_reducible refine Touches.step ?_ (State.recordRound_touches ..) (by decide)
  with_reducible refine Touches.step ?_ (State.checkCodes_touches ..) (by decide)
  with_reducible refine Touches.step ?_ (State.onAge_touches ..) (by decide)
  with_reducible refine Touches.step ?_ (State.reach_touches ..) (by decide)
  with_reducible exact Touches.refl
  with_reducible refine Touches.step ?_ (State.candidate_touches ..) (by decide)
  with_reducible refine Touches.step ?_ (State.recordRound_touches ..) (by decide)
  with_reducible refine Touches.step ?_ (State.checkCodes_touches ..) (by decide)
  with_reducible refine Touches.step ?_ (State.onAge_touches ..) (by decide)
  with_reducible refine Touches.step ?_ (State.reach_touches ..) (by decide)
  with_reducible exact Touches.refl

theorem State.pmbusSend_touches (s : State) (w : PmbusWait) :
    Touches [.out] s (State.pmbusSend s w) := by
  unfold State.pmbusSend
  with_reducible refine Touches.step ?_ (State.emit_touches ..) (by decide)
  with_reducible exact Touches.refl

theorem State.pmbusStart_touches (s : State) (w : PmbusWait) :
    Touches [.out, .age] s (State.pmbusStart s w) := by
  unfold State.pmbusStart
  dsimp only
  with_reducible refine Touches.step ?_ (State.onAge_touches ..) (by decide)
  with_reducible refine Touches.step ?_ (State.pmbusSend_touches ..) (by decide)
  with_reducible exact Touches.refl

theorem State.voutCommand_touches (s : State) (code : Nat) :
    Touches [.out, .age] s (State.voutCommand s code) := by
  unfold State.voutCommand
  split
  with_reducible refine Touches.step ?_ (State.pmbusStart_touches ..) (by decide)
  with_reducible exact Touches.refl
  with_reducible refine Touches.step ?_ (State.onAge_touches ..) (by decide)
  with_reducible exact Touches.refl

theorem State.pmbusEnd_touches (s : State) :
    Touches [.out, .age] s (State.pmbusEnd s) := by
  unfold State.pmbusEnd
  dsimp only
  split
  with_reducible refine Touches.step ?_ (State.pmbusStart_touches ..) (by decide)
  with_reducible refine Touches.step ?_ (State.onAge_touches ..) (by decide)
  with_reducible refine Touches.step ?_ (State.onAge_touches ..) (by decide)
  with_reducible exact Touches.refl
  with_reducible refine Touches.step ?_ (State.onAge_touches ..) (by decide)
  with_reducible exact Touches.refl

theorem State.readVout_touches (s : State) (mv : Nat) :
    Touches [.regs, .age] s (State.readVout s mv) := by
  unfold State.readVout
  dsimp only
  split
  split
  with_reducible refine Touches.step ?_ (State.onAge_touches ..) (by decide)
  with_reducible refine Touches.step ?_ (State.onAge_touches ..) (by decide)
  with_reducible refine Touches.step ?_ (State.setFld_touches ..) (by decide)
  with_reducible exact Touches.refl
  with_reducible refine Touches.step ?_ (State.onAge_touches ..) (by decide)
  with_reducible refine Touches.step ?_ (State.setFld_touches ..) (by decide)
  with_reducible exact Touches.refl
  split
  with_reducible refine Touches.step ?_ (State.onAge_touches ..) (by decide)
  with_reducible refine Touches.step ?_ (State.setFld_touches ..) (by decide)
  with_reducible exact Touches.refl
  with_reducible refine Touches.step ?_ (State.setFld_touches ..) (by decide)
  with_reducible exact Touches.refl

theorem State.readDone_touches (s : State) :
    Touches [.out, .age] s (State.readDone s) := by
  unfold State.readDone
  dsimp only
  split
  with_reducible refine Touches.step ?_ (State.pmbusStart_touches ..) (by decide)
  with_reducible refine Touches.step ?_ (State.pmbusEnd_touches ..) (by decide)
  with_reducible exact Touches.refl
  with_reducible refine Touches.step ?_ (State.pmbusEnd_touches ..) (by decide)
  with_reducible exact Touches.refl

theorem State.pmbusError_touches (s : State) :
    Touches [.out, .regs, .events, .deliver, .pair, .age, .host] s (State.pmbusError s) := by
  unfold State.pmbusError
  with_reducible refine Touches.step ?_ (State.ageFlag_touches ..) (by decide)
  with_reducible refine Touches.step ?_ (State.onAge_touches ..) (by decide)
  with_reducible exact Touches.refl

theorem State.pmbusDone_touches (s : State) (r : Pmbus) :
    Touches [.out, .regs, .events, .deliver, .pair, .age, .host] s (State.pmbusDone s r) := by
  unfold State.pmbusDone
  generalize s.age.inFlight = w; rcases w with _ | _ | _ | _ <;> cases r <;> dsimp only
  with_reducible exact Touches.refl
  with_reducible exact Touches.refl
  with_reducible exact Touches.refl
  with_reducible exact Touches.refl
  with_reducible refine Touches.step ?_ (State.pmbusEnd_touches ..) (by decide)
  with_reducible exact Touches.refl
  with_reducible exact Touches.refl
  with_reducible exact Touches.refl
  split
  with_reducible refine Touches.step ?_ (State.onAge_touches ..) (by decide)
  with_reducible refine Touches.step ?_ (State.pmbusSend_touches ..) (by decide)
  with_reducible exact Touches.refl
  with_reducible refine Touches.step ?_ (State.pmbusEnd_touches ..) (by decide)
  with_reducible refine Touches.step ?_ (State.pmbusError_touches ..) (by decide)
  with_reducible exact Touches.refl
  with_reducible exact Touches.refl
  with_reducible refine Touches.step ?_ (State.readDone_touches ..) (by decide)
  with_reducible refine Touches.step ?_ (State.readVout_touches ..) (by decide)
  with_reducible exact Touches.refl
  with_reducible exact Touches.refl
  split
  with_reducible refine Touches.step ?_ (State.onAge_touches ..) (by decide)
  with_reducible refine Touches.step ?_ (State.pmbusSend_touches ..) (by decide)
  with_reducible exact Touches.refl
  with_reducible refine Touches.step ?_ (State.pmbusEnd_touches ..) (by decide)
  with_reducible refine Touches.step ?_ (State.pmbusError_touches ..) (by decide)
  with_reducible exact Touches.refl
  with_reducible exact Touches.refl
  with_reducible exact Touches.refl
  with_reducible refine Touches.step ?_ (State.pmbusEnd_touches ..) (by decide)
  with_reducible refine Touches.step ?_ (State.setFld_touches ..) (by decide)
  with_reducible exact Touches.refl
  split
  with_reducible refine Touches.step ?_ (State.onAge_touches ..) (by decide)
  with_reducible refine Touches.step ?_ (State.pmbusSend_touches ..) (by decide)
  with_reducible exact Touches.refl
  with_reducible refine Touches.step ?_ (State.pmbusEnd_touches ..) (by decide)
  with_reducible refine Touches.step ?_ (State.pmbusError_touches ..) (by decide)
  with_reducible exact Touches.refl

theorem State.confirmTimeout_touches (s : State) :
    Touches [.out, .regs, .events, .deliver, .pair, .age, .host, .clk] s (State.confirmTimeout s) := by
  unfold State.confirmTimeout
  dsimp only
  split
  with_reducible refine Touches.step ?_ (State.reach_touches ..) (by decide)
  with_reducible exact Touches.refl
  with_reducible refine Touches.step ?_ (State.pmbusError_touches ..) (by decide)
  with_reducible refine Touches.step ?_ (State.reach_touches ..) (by decide)
  with_reducible exact Touches.refl

theorem State.trackHead_touches (s : State) :
    Touches [.out, .regs, .events, .deliver, .pair, .host] s (State.trackHead s) := by
  unfold State.trackHead
  dsimp only
  split
  with_reducible refine Touches.step ?_ (State.ageFlag_touches ..) (by decide)
  with_reducible refine Touches.step ?_ (State.setFld_touches ..) (by decide)
  with_reducible refine Touches.step ?_ (State.setFld_touches ..) (by decide)
  with_reducible exact Touches.refl
  with_reducible refine Touches.step ?_ (State.setFld_touches ..) (by decide)
  with_reducible refine Touches.step ?_ (State.setFld_touches ..) (by decide)
  with_reducible exact Touches.refl

theorem State.planBoundary_touches (s : State) :
    Touches [.out, .regs, .events, .deliver, .pair, .age, .host] s (State.planBoundary s) := by
  unfold State.planBoundary
  dsimp only
  split
  split
  with_reducible refine Touches.step ?_ (State.onPair_touches ..) (by decide)
  with_reducible exact Touches.refl
  with_reducible exact Touches.refl
  split
  split
  with_reducible refine Touches.step ?_ (State.onPair_touches ..) (by decide)
  with_reducible refine Touches.step ?_ (State.trackHead_touches ..) (by decide)
  with_reducible refine Touches.step ?_ (State.onAge_touches ..) (by decide)
  with_reducible refine Touches.foldl _ (fun _ _ _ => ?_) ?_
  with_reducible refine Touches.step ?_ (State.onAge_touches ..) (by decide)
  assumption
  with_reducible refine Touches.step ?_ (State.setFld_touches ..) (by decide)
  with_reducible refine Touches.step ?_ (State.setFld_touches ..) (by decide)
  with_reducible refine Touches.step ?_ (State.setFld_touches ..) (by decide)
  with_reducible exact Touches.refl
  with_reducible refine Touches.step ?_ (State.trackHead_touches ..) (by decide)
  with_reducible refine Touches.step ?_ (State.onAge_touches ..) (by decide)
  with_reducible refine Touches.foldl _ (fun _ _ _ => ?_) ?_
  with_reducible refine Touches.step ?_ (State.onAge_touches ..) (by decide)
  assumption
  with_reducible refine Touches.step ?_ (State.setFld_touches ..) (by decide)
  with_reducible refine Touches.step ?_ (State.setFld_touches ..) (by decide)
  with_reducible refine Touches.step ?_ (State.setFld_touches ..) (by decide)
  with_reducible exact Touches.refl
  split
  with_reducible refine Touches.step ?_ (State.onPair_touches ..) (by decide)
  with_reducible refine Touches.step ?_ (State.trackHead_touches ..) (by decide)
  with_reducible refine Touches.step ?_ (State.voutCommand_touches ..) (by decide)
  with_reducible refine Touches.step ?_ (State.onAge_touches ..) (by decide)
  with_reducible refine Touches.step ?_ (State.onAge_touches ..) (by decide)
  with_reducible refine Touches.foldl _ (fun _ _ _ => ?_) ?_
  with_reducible refine Touches.step ?_ (State.onAge_touches ..) (by decide)
  assumption
  with_reducible refine Touches.step ?_ (State.setFld_touches ..) (by decide)
  with_reducible refine Touches.step ?_ (State.setFld_touches ..) (by decide)
  with_reducible refine Touches.step ?_ (State.setFld_touches ..) (by decide)
  with_reducible exact Touches.refl
  with_reducible refine Touches.step ?_ (State.trackHead_touches ..) (by decide)
  with_reducible refine Touches.step ?_ (State.voutCommand_touches ..) (by decide)
  with_reducible refine Touches.step ?_ (State.onAge_touches ..) (by decide)
  with_reducible refine Touches.step ?_ (State.onAge_touches ..) (by decide)
  with_reducible refine Touches.foldl _ (fun _ _ _ => ?_) ?_
  with_reducible refine Touches.step ?_ (State.onAge_touches ..) (by decide)
  assumption
  with_reducible refine Touches.step ?_ (State.setFld_touches ..) (by decide)
  with_reducible refine Touches.step ?_ (State.setFld_touches ..) (by decide)
  with_reducible refine Touches.step ?_ (State.setFld_touches ..) (by decide)
  with_reducible exact Touches.refl

theorem State.logHead_touches (s : State) :
    Touches [.out, .regs, .age, .clk] s (State.logHead s) := by
  unfold State.logHead
  dsimp only
  with_reducible refine Touches.step ?_ (State.onAge_touches ..) (by decide)
  with_reducible refine Touches.step ?_ (State.setFld_touches ..) (by decide)
  with_reducible refine Touches.step ?_ (State.setReg_touches ..) (by decide)
  with_reducible refine Touches.foldl _ (fun _ _ _ => ?_) ?_
  with_reducible refine Touches.step ?_ (State.setReg_touches ..) (by decide)
  assumption
  with_reducible refine Touches.step ?_ (State.reach_touches ..) (by decide)
  with_reducible exact Touches.refl


/-! ### TenantReset -/

theorem State.setPort_touches (s : State) (p : Nat) (q : Port) :
    Touches [.ports] s (State.setPort s p q) := by
  unfold State.setPort
  with_reducible refine Touches.upd ?_
  with_reducible exact Touches.refl

theorem State.notSent_touches (s : State) (e : Nat) :
    Touches [.out, .regs, .events, .deliver, .pair, .host] s (State.notSent s e) := by
  unfold State.notSent
  split
  with_reducible refine Touches.step ?_ (State.occur_touches ..) (by decide)
  with_reducible exact Touches.refl
  with_reducible exact Touches.refl

theorem State.cancelFrame_touches (s : State) (p e : Nat) :
    Touches [.out, .regs, .events, .deliver, .pair, .host] s (State.cancelFrame s p e) := by
  unfold State.cancelFrame
  with_reducible refine Touches.step ?_ (State.notSent_touches ..) (by decide)
  with_reducible refine Touches.step ?_ (State.count_touches ..) (by decide)
  with_reducible exact Touches.refl

theorem State.cancelFrames_touches (s : State) (p : Nat) (x0 : List Nat) :
    Touches [.out, .regs, .events, .deliver, .pair, .host] s (State.cancelFrames s p x0) := by
  induction x0 generalizing s p with
  | nil =>
    unfold State.cancelFrames
    with_reducible exact Touches.refl
  | cons a l ih =>
    unfold State.cancelFrames
    with_reducible refine Touches.step ?_ (ih ..) (by decide)
    with_reducible refine Touches.step ?_ (State.cancelFrame_touches ..) (by decide)
    with_reducible exact Touches.refl

theorem State.cancelPort_touches (s : State) (t p : Nat) :
    Touches [.out, .regs, .events, .deliver, .pair, .host, .ports] s (State.cancelPort s t p) := by
  unfold State.cancelPort
  dsimp only
  with_reducible refine Touches.step ?_ (State.cancelFrames_touches ..) (by decide)
  with_reducible refine Touches.step ?_ (State.setPort_touches ..) (by decide)
  with_reducible exact Touches.refl

theorem State.resetFlush_touches (s : State) (c h : Nat) :
    Touches [.out, .regs, .mem, .check, .events, .deliver, .frm, .pair, .host] s (State.resetFlush s c h) := by
  unfold State.resetFlush
  split
  with_reducible refine Touches.upd ?_
  with_reducible exact Touches.refl
  with_reducible refine Touches.step ?_ (State.flushNow_touches ..) (by decide)
  with_reducible exact Touches.refl

theorem State.clearTctx_touches (s : State) (t : Nat) :
    Touches [.regs] s (State.clearTctx s t) := by
  unfold State.clearTctx
  dsimp only
  with_reducible refine Touches.step ?_ (State.setReg_touches ..) (by decide)
  with_reducible refine Touches.step ?_ (State.setPtrs_touches ..) (by decide)
  with_reducible exact Touches.refl

theorem State.resetAction_touches (s : State) (c t x0 : Nat) :
    Touches [.out, .regs, .mem, .check, .ctxs, .events, .deliver, .frm, .pair, .host, .ports] s (State.resetAction s c t x0) := by
  unfold State.resetAction
  split
  with_reducible refine Touches.step ?_ (State.count_touches ..) (by decide)
  with_reducible exact Touches.refl
  dsimp only
  with_reducible refine Touches.upd ?_
  with_reducible refine Touches.foldl _ (fun _ _ _ => ?_) ?_
  with_reducible refine Touches.step ?_ (State.cancelPort_touches ..) (by decide)
  assumption
  with_reducible exact Touches.refl
  with_reducible refine Touches.foldl _ (fun _ _ _ => ?_) ?_
  with_reducible refine Touches.step ?_ (State.resetFlush_touches ..) (by decide)
  assumption
  with_reducible exact Touches.refl
  with_reducible refine Touches.step ?_ (State.dropContext_touches ..) (by decide)
  with_reducible refine Touches.step ?_ (State.clearTctx_touches ..) (by decide)
  with_reducible refine Touches.step ?_ (State.setCtx_touches ..) (by decide)
  with_reducible exact Touches.refl
  with_reducible refine Touches.step ?_ (State.setFld_touches ..) (by decide)
  with_reducible refine Touches.step ?_ (State.setFld_touches ..) (by decide)
  with_reducible exact Touches.refl

theorem State.resetPartly_touches (s : State) (c t n : Nat) :
    Touches [.out, .regs, .mem, .check, .ctxs, .events, .deliver, .frm, .pair, .host, .ports] s (State.resetPartly s c t n) := by
  unfold State.resetPartly
  with_reducible refine Touches.foldl _ (fun _ _ _ => ?_) ?_
  with_reducible refine Touches.step ?_ (State.resetAction_touches ..) (by decide)
  assumption
  with_reducible exact Touches.refl

theorem State.resetTenant_touches (s : State) (c t : Nat) :
    Touches [.out, .regs, .mem, .check, .ctxs, .events, .deliver, .frm, .pair, .host, .ports] s (State.resetTenant s c t) := by
  unfold State.resetTenant
  with_reducible refine Touches.step ?_ (State.resetPartly_touches ..) (by decide)
  with_reducible exact Touches.refl

theorem State.doReset_touches (s : State) (c t : Nat) :
    Touches [.free, .out, .regs, .mem, .check, .ctxs, .events, .deliver, .frm, .pair, .host, .ports] s (State.doReset s c t) := by
  unfold State.doReset
  dsimp only
  with_reducible refine Touches.step ?_ (State.endAll_touches ..) (by decide)
  with_reducible refine Touches.step ?_ (State.forwardInput_touches ..) (by decide)
  with_reducible refine Touches.step ?_ (State.resetTenant_touches ..) (by decide)
  with_reducible refine Touches.upd ?_
  with_reducible exact Touches.refl

theorem State.copySeg_touches (s : State) (src dst len : Nat) :
    Touches [.free, .out, .regs, .mem, .check, .events, .deliver, .pair, .host] s (State.copySeg s src dst len) := by
  unfold State.copySeg
  split
  with_reducible refine Touches.step ?_ (State.pokes_touches ..) (by decide)
  with_reducible refine Touches.step ?_ (Touches.of_fst (by assumption) (State.engineWords_touches ..)) (by decide)
  with_reducible exact Touches.refl

theorem State.doChore_touches (s : State) (c : Nat) (x0 : Chore) :
    Touches [.free, .out, .regs, .mem, .check, .cores, .ctxs, .events, .deliver, .frm, .pair, .host, .ports] s (State.doChore s c x0) := by
  unfold State.doChore
  split
  with_reducible refine Touches.step ?_ (State.drain_touches ..) (by decide)
  with_reducible exact Touches.refl
  with_reducible refine Touches.step ?_ (State.copySeg_touches ..) (by decide)
  with_reducible exact Touches.refl
  dsimp only
  with_reducible refine Touches.step ?_ (State.resetFlush_touches ..) (by decide)
  with_reducible refine Touches.upd ?_
  with_reducible exact Touches.refl
  with_reducible refine Touches.step ?_ (State.doReset_touches ..) (by decide)
  with_reducible exact Touches.refl

theorem State.cutChore_touches (s : State) (c n : Nat) (x0 : Chore) :
    Touches [.free, .out, .regs, .mem, .check, .cores, .ctxs, .events, .deliver, .frm, .pair, .host, .ports] s (State.cutChore s c n x0) := by
  unfold State.cutChore
  split
  with_reducible refine Touches.step ?_ (State.settle_touches ..) (by decide)
  with_reducible exact Touches.refl
  with_reducible refine Touches.step ?_ (State.copySeg_touches ..) (by decide)
  with_reducible exact Touches.refl
  with_reducible exact Touches.refl
  with_reducible refine Touches.step ?_ (State.spend_touches ..) (by decide)
  with_reducible refine Touches.step ?_ (State.resetPartly_touches ..) (by decide)
  with_reducible exact Touches.refl

theorem State.doChores_touches (s : State) (c : Nat) (x0 : List Chore) :
    Touches [.free, .out, .regs, .mem, .check, .cores, .ctxs, .events, .deliver, .frm, .pair, .host, .ports] s (State.doChores s c x0) := by
  induction x0 generalizing s c with
  | nil =>
    unfold State.doChores
    with_reducible exact Touches.refl
  | cons a l ih =>
    unfold State.doChores
    with_reducible refine Touches.step ?_ (ih ..) (by decide)
    with_reducible refine Touches.step ?_ (State.doChore_touches ..) (by decide)
    with_reducible exact Touches.refl

theorem State.doSteps_touches (s : State) (c x0 : Nat) (x1 : List Chore) :
    Touches [.free, .out, .regs, .mem, .check, .cores, .ctxs, .events, .deliver, .frm, .pair, .host, .ports] s (State.doSteps s c x0 x1) := by
  induction x1 generalizing s c x0 with
  | nil =>
    unfold State.doSteps
    with_reducible exact Touches.refl
  | cons a l ih =>
    unfold State.doSteps
    split
    with_reducible refine Touches.step ?_ (ih ..) (by decide)
    with_reducible refine Touches.step ?_ (State.doChore_touches ..) (by decide)
    with_reducible exact Touches.refl
    with_reducible refine Touches.step ?_ (State.cutChore_touches ..) (by decide)
    with_reducible exact Touches.refl

theorem State.noteOpen_touches (s : State) (c k : Nat) :
    Touches [.frm] s (State.noteOpen s c k) := by
  unfold State.noteOpen
  with_reducible refine Touches.upd ?_
  with_reducible exact Touches.refl

theorem State.hostFlushes_touches (s : State) :
    Touches [.out, .regs, .mem, .check, .events, .deliver, .frm, .pair, .host] s (State.hostFlushes s) := by
  unfold State.hostFlushes
  dsimp only
  with_reducible refine Touches.foldl _ (fun _ _ _ => ?_) ?_
  split
  assumption
  with_reducible refine Touches.step ?_ (State.endAll_touches ..) (by decide)
  with_reducible refine Touches.step ?_ (State.flushNow_touches ..) (by decide)
  with_reducible refine Touches.upd ?_
  assumption
  with_reducible exact Touches.refl


/-! ### Slots -/

theorem State.loadMode_touches (s : State) (c : Nat) (width lock det : Bool) :
    Touches [.regs] s (State.loadMode s c width lock det) := by
  unfold State.loadMode
  with_reducible refine Touches.step ?_ (State.setFld_touches ..) (by decide)
  with_reducible exact Touches.refl

theorem State.reachOpen_touches (s : State) (c k : Nat) :
    Touches [.out, .clk] s (State.reachOpen s c k) := by
  unfold State.reachOpen
  with_reducible refine Touches.step ?_ (State.reach_touches ..) (by decide)
  with_reducible exact Touches.refl

theorem openSlot_touches (c k : Nat) (s : State) :
    Touches [.out, .regs, .cores, .frm, .clk] s (openSlot c k s) := by
  unfold openSlot
  split
  with_reducible exact Touches.refl
  dsimp only
  with_reducible refine Touches.step ?_ (State.onCore_touches ..) (by decide)
  with_reducible refine Touches.step ?_ (State.setFld_touches ..) (by decide)
  with_reducible refine Touches.step ?_ (State.setFld_touches ..) (by decide)
  with_reducible refine Touches.step ?_ (State.loadMode_touches ..) (by decide)
  with_reducible refine Touches.step ?_ (State.noteOpen_touches ..) (by decide)
  with_reducible refine Touches.step ?_ (State.reachOpen_touches ..) (by decide)
  with_reducible exact Touches.refl

theorem endTenant_touches (c slack : Nat) (s : State) :
    Touches [.free, .out, .regs, .mem, .check, .cores, .ctxs, .events, .deliver, .pair, .host] s (endTenant c slack s) := by
  unfold endTenant
  split
  with_reducible exact Touches.refl
  dsimp only
  with_reducible refine Touches.step ?_ (State.forecast_touches ..) (by decide)
  with_reducible refine Touches.step ?_ (State.setFld_touches ..) (by decide)
  with_reducible refine Touches.step ?_ (State.exit_touches ..) (by decide)
  with_reducible refine Touches.step ?_ (State.passTo_touches ..) (by decide)
  with_reducible exact Touches.refl

theorem State.undoEntry_touches (s : State) (c : Nat) :
    Touches [.regs, .mem, .check, .events] s (State.undoEntry s c) := by
  unfold State.undoEntry
  split
  with_reducible exact Touches.refl
  split
  with_reducible exact Touches.refl
  dsimp only
  split
  with_reducible refine Touches.upd ?_
  with_reducible refine Touches.step ?_ (State.pokes_touches ..) (by decide)
  with_reducible refine Touches.step ?_ (State.setReg_touches ..) (by decide)
  with_reducible exact Touches.refl
  with_reducible refine Touches.step ?_ (State.pokes_touches ..) (by decide)
  with_reducible refine Touches.step ?_ (State.setReg_touches ..) (by decide)
  with_reducible exact Touches.refl

theorem State.stopRunning_touches (s : State) (c cause : Nat) :
    Touches [.free, .out, .regs, .mem, .check, .cores, .ctxs, .events, .deliver, .frm, .pair, .host] s (State.stopRunning s c cause) := by
  unfold State.stopRunning
  with_reducible refine Touches.step ?_ (State.stopTenant_touches ..) (by decide)
  with_reducible refine Touches.step ?_ (State.undoEntry_touches ..) (by decide)
  with_reducible exact Touches.refl

theorem budgetFault_touches (c held : Nat) (s : State) :
    Touches [.free, .out, .regs, .mem, .check, .cores, .ctxs, .events, .deliver, .frm, .pair, .host] s (budgetFault c held s) := by
  unfold budgetFault
  dsimp only
  split
  with_reducible refine Touches.step ?_ (State.stopRunning_touches ..) (by decide)
  with_reducible refine Touches.step ?_ (State.passTo_touches ..) (by decide)
  with_reducible exact Touches.refl
  with_reducible exact Touches.refl

theorem paceFault_touches (c held : Nat) (s : State) :
    Touches [.free, .out, .regs, .mem, .check, .cores, .ctxs, .events, .deliver, .frm, .pair, .host, .clk] s (paceFault c held s) := by
  unfold paceFault
  dsimp only
  split
  with_reducible exact Touches.refl
  with_reducible refine Touches.step ?_ (State.stopRunning_touches ..) (by decide)
  with_reducible refine Touches.step ?_ (State.passTo_touches ..) (by decide)
  with_reducible refine Touches.step ?_ (State.reach_touches ..) (by decide)
  with_reducible exact Touches.refl

theorem closeSlot_touches (c : Nat) (s : State) :
    Touches [.free, .out, .regs, .cores, .clk] s (closeSlot c s) := by
  unfold closeSlot
  dsimp only
  split
  with_reducible exact Touches.refl
  with_reducible refine Touches.step ?_ (State.onCore_touches ..) (by decide)
  with_reducible refine Touches.step ?_ (State.spend_touches ..) (by decide)
  with_reducible refine Touches.step ?_ (State.setFld_touches ..) (by decide)
  with_reducible refine Touches.step ?_ (State.reach_touches ..) (by decide)
  with_reducible exact Touches.refl

theorem State.startTest_touches (s : State) (c : Nat) :
    Touches [.cores] s (State.startTest s c) := by
  unfold State.startTest
  split
  split
  with_reducible refine Touches.step ?_ (State.onCore_touches ..) (by decide)
  with_reducible exact Touches.refl
  with_reducible exact Touches.refl
  with_reducible exact Touches.refl

theorem sentrySlot_touches (c : Nat) (s : State) :
    Touches [.out, .regs, .cores, .frm, .clk] s (sentrySlot c s) := by
  unfold sentrySlot
  split
  dsimp only
  with_reducible refine Touches.step ?_ (State.startTest_touches ..) (by decide)
  with_reducible refine Touches.step ?_ (State.onCore_touches ..) (by decide)
  with_reducible refine Touches.step ?_ (State.setFld_touches ..) (by decide)
  with_reducible refine Touches.step ?_ (State.loadMode_touches ..) (by decide)
  with_reducible refine Touches.step ?_ (State.noteOpen_touches ..) (by decide)
  with_reducible refine Touches.step ?_ (State.reachOpen_touches ..) (by decide)
  with_reducible exact Touches.refl
  with_reducible exact Touches.refl

theorem State.dropTest_touches (s : State) (c : Nat) (t : Test) :
    Touches [.regs, .cores] s (State.dropTest s c t) := by
  unfold State.dropTest
  split
  with_reducible refine Touches.step ?_ (State.onCore_touches ..) (by decide)
  with_reducible exact Touches.refl
  with_reducible refine Touches.step ?_ (State.onCore_touches ..) (by decide)
  with_reducible exact Touches.refl
  with_reducible refine Touches.step ?_ (State.count_touches ..) (by decide)
  with_reducible exact Touches.refl

theorem State.reportTest_touches (s : State) (k code : Nat) (fail : Option Nat) :
    Touches [.free, .out, .regs, .events, .deliver, .pair, .host] s (State.reportTest s k code fail) := by
  unfold State.reportTest
  dsimp only
  with_reducible refine Touches.step ?_ (State.occur_touches ..) (by decide)
  with_reducible refine Touches.step ?_ (State.endCmd_touches ..) (by decide)
  with_reducible refine Touches.step ?_ (State.spend_touches ..) (by decide)
  with_reducible refine Touches.step ?_ (State.setDatas_touches ..) (by decide)
  with_reducible exact Touches.refl

theorem State.failTest_touches (s : State) (c : Nat) :
    Touches [.free, .out, .regs, .mem, .check, .cores, .ctxs, .events, .deliver, .frm, .pair, .host] s (State.failTest s c) := by
  unfold State.failTest
  dsimp only
  split
  with_reducible refine Touches.step ?_ (State.error_touches ..) (by decide)
  with_reducible refine Touches.step ?_ (State.occur_touches ..) (by decide)
  with_reducible exact Touches.refl
  with_reducible refine Touches.step ?_ (faultEdge_touches ..) (by decide)
  with_reducible refine Touches.step ?_ (State.takeOffline_touches ..) (by decide)
  with_reducible refine Touches.step ?_ (State.error_touches ..) (by decide)
  with_reducible refine Touches.step ?_ (State.occur_touches ..) (by decide)
  with_reducible exact Touches.refl

theorem completeTest_touches (c : Nat) (fail : Option Nat) (s : State) :
    Touches [.free, .out, .regs, .mem, .check, .cores, .ctxs, .events, .deliver, .frm, .pair, .host] s (completeTest c fail s) := by
  unfold completeTest
  split
  dsimp only
  split
  split
  split
  with_reducible refine Touches.step ?_ (State.startTest_touches ..) (by decide)
  with_reducible refine Touches.step ?_ (State.failTest_touches ..) (by decide)
  with_reducible refine Touches.step ?_ (State.reportTest_touches ..) (by decide)
  with_reducible refine Touches.step ?_ (State.onCore_touches ..) (by decide)
  with_reducible refine Touches.step ?_ (State.dropTest_touches ..) (by decide)
  with_reducible refine Touches.step ?_ (State.charge_touches ..) (by decide)
  with_reducible exact Touches.refl
  with_reducible refine Touches.step ?_ (State.failTest_touches ..) (by decide)
  with_reducible refine Touches.step ?_ (State.reportTest_touches ..) (by decide)
  with_reducible refine Touches.step ?_ (State.onCore_touches ..) (by decide)
  with_reducible refine Touches.step ?_ (State.dropTest_touches ..) (by decide)
  with_reducible refine Touches.step ?_ (State.charge_touches ..) (by decide)
  with_reducible exact Touches.refl
  split
  with_reducible refine Touches.step ?_ (State.startTest_touches ..) (by decide)
  with_reducible refine Touches.step ?_ (State.failTest_touches ..) (by decide)
  with_reducible refine Touches.step ?_ (State.onCore_touches ..) (by decide)
  with_reducible refine Touches.step ?_ (State.dropTest_touches ..) (by decide)
  with_reducible refine Touches.step ?_ (State.charge_touches ..) (by decide)
  with_reducible exact Touches.refl
  with_reducible refine Touches.step ?_ (State.failTest_touches ..) (by decide)
  with_reducible refine Touches.step ?_ (State.onCore_touches ..) (by decide)
  with_reducible refine Touches.step ?_ (State.dropTest_touches ..) (by decide)
  with_reducible refine Touches.step ?_ (State.charge_touches ..) (by decide)
  with_reducible exact Touches.refl
  split
  split
  with_reducible refine Touches.step ?_ (State.startTest_touches ..) (by decide)
  with_reducible refine Touches.step ?_ (State.reportTest_touches ..) (by decide)
  with_reducible refine Touches.step ?_ (State.onCore_touches ..) (by decide)
  with_reducible refine Touches.step ?_ (State.dropTest_touches ..) (by decide)
  with_reducible refine Touches.step ?_ (State.charge_touches ..) (by decide)
  with_reducible exact Touches.refl
  with_reducible refine Touches.step ?_ (State.reportTest_touches ..) (by decide)
  with_reducible refine Touches.step ?_ (State.onCore_touches ..) (by decide)
  with_reducible refine Touches.step ?_ (State.dropTest_touches ..) (by decide)
  with_reducible refine Touches.step ?_ (State.charge_touches ..) (by decide)
  with_reducible exact Touches.refl
  split
  with_reducible refine Touches.step ?_ (State.startTest_touches ..) (by decide)
  with_reducible refine Touches.step ?_ (State.onCore_touches ..) (by decide)
  with_reducible refine Touches.step ?_ (State.dropTest_touches ..) (by decide)
  with_reducible refine Touches.step ?_ (State.charge_touches ..) (by decide)
  with_reducible exact Touches.refl
  with_reducible refine Touches.step ?_ (State.onCore_touches ..) (by decide)
  with_reducible refine Touches.step ?_ (State.dropTest_touches ..) (by decide)
  with_reducible refine Touches.step ?_ (State.charge_touches ..) (by decide)
  with_reducible exact Touches.refl
  with_reducible exact Touches.refl

theorem State.handOff_touches (s : State) (c : Nat) :
    Touches [.regs] s (State.handOff s c) := by
  unfold State.handOff
  with_reducible refine Touches.step ?_ (State.setFlag_touches ..) (by decide)
  with_reducible exact Touches.refl

theorem State.sendWords_touches (s : State) (l : List (Nat × Word)) (x0 : Nat) :
    Touches [.out, .pair] s (State.sendWords s l x0) := by
  induction x0 generalizing s l with
  | zero =>
    unfold State.sendWords
    with_reducible exact Touches.refl
  | succ n ih =>
    unfold State.sendWords
    split
    with_reducible exact Touches.refl
    with_reducible refine Touches.step ?_ (ih ..) (by decide)
    with_reducible refine Touches.step ?_ (State.send_touches ..) (by decide)
    with_reducible exact Touches.refl

theorem State.sendActset_touches (s : State) :
    Touches [.out, .pair] s (State.sendActset s) := by
  unfold State.sendActset
  with_reducible refine Touches.step ?_ (State.sendWords_touches ..) (by decide)
  with_reducible exact Touches.refl

theorem State.atHousekeeping_touches (s : State) :
    Touches [.out, .regs, .mem, .check, .events, .deliver, .frm, .pair, .host] s (State.atHousekeeping s) := by
  unfold State.atHousekeeping
  dsimp only
  split
  split
  with_reducible refine Touches.step ?_ (State.send_touches ..) (by decide)
  with_reducible refine Touches.step ?_ (State.hostFlushes_touches ..) (by decide)
  with_reducible exact Touches.refl
  with_reducible refine Touches.step ?_ (State.sendActset_touches ..) (by decide)
  with_reducible refine Touches.step ?_ (State.send_touches ..) (by decide)
  with_reducible refine Touches.step ?_ (State.hostFlushes_touches ..) (by decide)
  with_reducible exact Touches.refl
  with_reducible refine Touches.step ?_ (State.hostFlushes_touches ..) (by decide)
  with_reducible exact Touches.refl

theorem State.openHousekeeping_touches (s : State) (c : Nat) :
    Touches [.out, .regs, .cores, .frm, .clk] s (State.openHousekeeping s c) := by
  unfold State.openHousekeeping
  with_reducible refine Touches.step ?_ (State.onCore_touches ..) (by decide)
  with_reducible refine Touches.step ?_ (State.setFld_touches ..) (by decide)
  with_reducible refine Touches.step ?_ (State.loadMode_touches ..) (by decide)
  with_reducible refine Touches.step ?_ (State.noteOpen_touches ..) (by decide)
  with_reducible refine Touches.step ?_ (State.reachOpen_touches ..) (by decide)
  with_reducible exact Touches.refl

theorem housekeeping_touches (c : Nat) (s : State) :
    Touches [.free, .out, .regs, .mem, .check, .cores, .ctxs, .events, .deliver, .frm, .pair, .host, .ports, .clk] s (housekeeping c s) := by
  unfold housekeeping
  split
  with_reducible exact Touches.refl
  dsimp only
  split
  split
  with_reducible refine Touches.step ?_ (State.handOff_touches ..) (by decide)
  with_reducible refine Touches.step ?_ (State.noteOpen_touches ..) (by decide)
  with_reducible refine Touches.step ?_ (State.atHousekeeping_touches ..) (by decide)
  with_reducible exact Touches.refl
  with_reducible refine Touches.step ?_ (State.onCore_touches ..) (by decide)
  with_reducible refine Touches.step ?_ (State.handOff_touches ..) (by decide)
  with_reducible refine Touches.step ?_ (State.charge_touches ..) (by decide)
  with_reducible refine Touches.step ?_ (State.doChores_touches ..) (by decide)
  with_reducible refine Touches.step ?_ (State.openHousekeeping_touches ..) (by decide)
  with_reducible refine Touches.step ?_ (State.atHousekeeping_touches ..) (by decide)
  with_reducible exact Touches.refl
  split
  with_reducible refine Touches.step ?_ (State.handOff_touches ..) (by decide)
  with_reducible refine Touches.step ?_ (State.noteOpen_touches ..) (by decide)
  with_reducible exact Touches.refl
  with_reducible refine Touches.step ?_ (State.onCore_touches ..) (by decide)
  with_reducible refine Touches.step ?_ (State.handOff_touches ..) (by decide)
  with_reducible refine Touches.step ?_ (State.charge_touches ..) (by decide)
  with_reducible refine Touches.step ?_ (State.doChores_touches ..) (by decide)
  with_reducible refine Touches.step ?_ (State.openHousekeeping_touches ..) (by decide)
  with_reducible exact Touches.refl

theorem housekeepingOverrun_touches (c n : Nat) (s : State) :
    Touches [.free, .out, .regs, .mem, .check, .cores, .ctxs, .events, .deliver, .frm, .pair, .host, .ports, .clk] s (housekeepingOverrun c n s) := by
  unfold housekeepingOverrun
  split
  with_reducible exact Touches.refl
  dsimp only
  with_reducible refine Touches.step ?_ (State.occur_touches ..) (by decide)
  with_reducible refine Touches.step ?_ (State.onCore_touches ..) (by decide)
  with_reducible refine Touches.upd ?_
  with_reducible refine Touches.step ?_ (State.charge_touches ..) (by decide)
  with_reducible refine Touches.step ?_ (State.doSteps_touches ..) (by decide)
  with_reducible refine Touches.step ?_ (State.reach_touches ..) (by decide)
  with_reducible refine Touches.step ?_ (State.openHousekeeping_touches ..) (by decide)
  split
  with_reducible refine Touches.step ?_ (State.atHousekeeping_touches ..) (by decide)
  with_reducible exact Touches.refl
  with_reducible exact Touches.refl


/-! ### Ports -/

theorem State.onPort_touches (s : State) (p : Nat) (f : Port → Port) :
    Touches [.ports] s (State.onPort s p f) := by
  unfold State.onPort
  with_reducible refine Touches.step ?_ (State.setPort_touches ..) (by decide)
  with_reducible exact Touches.refl

theorem State.restartTimer_touches (s : State) (e : Nat) :
    Touches [.timers] s (State.restartTimer s e) := by
  unfold State.restartTimer
  split
  with_reducible refine Touches.upd ?_
  with_reducible exact Touches.refl
  with_reducible exact Touches.refl

theorem State.queueWrite_touches (s : State) (p : Nat) (x : Exch) (ws : List Word) :
    Touches [.ports] s (State.queueWrite s p x ws) := by
  unfold State.queueWrite
  dsimp only
  with_reducible refine Touches.step ?_ (State.onPort_touches ..) (by decide)
  with_reducible exact Touches.refl

theorem State.parse_touches (s : State) (p e : Nat) (x : Exch) (ws : List Word) :
    Touches [.out, .regs, .events, .deliver, .pair, .host, .ports, .timers] s (State.parse s p e x ws) := by
  unfold State.parse
  dsimp only
  split
  with_reducible refine Touches.step ?_ (State.occur_touches ..) (by decide)
  with_reducible refine Touches.step ?_ (State.queueWrite_touches ..) (by decide)
  with_reducible refine Touches.step ?_ (State.restartTimer_touches ..) (by decide)
  with_reducible refine Touches.step ?_ (State.setFlag_touches ..) (by decide)
  with_reducible refine Touches.step ?_ (State.count_touches ..) (by decide)
  with_reducible refine Touches.step ?_ (State.count_touches ..) (by decide)
  with_reducible exact Touches.refl
  with_reducible refine Touches.step ?_ (State.queueWrite_touches ..) (by decide)
  with_reducible refine Touches.step ?_ (State.restartTimer_touches ..) (by decide)
  with_reducible refine Touches.step ?_ (State.setFlag_touches ..) (by decide)
  with_reducible refine Touches.step ?_ (State.count_touches ..) (by decide)
  with_reducible refine Touches.step ?_ (State.count_touches ..) (by decide)
  with_reducible exact Touches.refl

theorem State.dropRx_touches (s : State) (p : Nat) :
    Touches [.regs] s (State.dropRx s p) := by
  unfold State.dropRx
  with_reducible refine Touches.step ?_ (State.count_touches ..) (by decide)
  with_reducible exact Touches.refl

theorem State.offerRx_touches (s : State) (p n : Nat) (item : List (Nat × Word)) :
    Touches [.out, .regs, .mem, .check, .events, .deliver, .pair, .host] s (State.offerRx s p n item).1 := by
  unfold State.offerRx
  dsimp only
  split
  dsimp only
  with_reducible refine Touches.step ?_ (State.dropRx_touches ..) (by decide)
  with_reducible refine Touches.step ?_ (Touches.of_fst (by assumption) (State.produce_touches ..)) (by decide)
  with_reducible exact Touches.refl
  dsimp only
  with_reducible refine Touches.step ?_ (Touches.of_fst (by assumption) (State.produce_touches ..)) (by decide)
  with_reducible exact Touches.refl
  dsimp only
  with_reducible refine Touches.step ?_ (State.dropRx_touches ..) (by decide)
  with_reducible refine Touches.step ?_ (Touches.of_fst (by assumption) (State.produce_touches ..)) (by decide)
  with_reducible exact Touches.refl
  split
  dsimp only
  with_reducible refine Touches.step ?_ (State.dropRx_touches ..) (by decide)
  with_reducible refine Touches.step ?_ (Touches.of_fst (by assumption) (State.produce_touches ..)) (by decide)
  with_reducible exact Touches.refl
  dsimp only
  with_reducible refine Touches.step ?_ (State.commit_touches ..) (by decide)
  with_reducible refine Touches.step ?_ (Touches.of_fst (by assumption) (State.produce_touches ..)) (by decide)
  with_reducible exact Touches.refl

theorem State.retryRx_touches (s : State) (p x0 : Nat) :
    Touches [.out, .regs, .mem, .check, .events, .deliver, .pair, .host, .ports] s (State.retryRx s p x0) := by
  induction x0 generalizing s p with
  | zero =>
    unfold State.retryRx
    with_reducible exact Touches.refl
  | succ n ih =>
    unfold State.retryRx
    split
    with_reducible exact Touches.refl
    split
    with_reducible refine Touches.step ?_ (Touches.of_fst (by assumption) (State.offerRx_touches ..)) (by decide)
    with_reducible exact Touches.refl
    with_reducible refine Touches.step ?_ (ih ..) (by decide)
    with_reducible refine Touches.step ?_ (State.onPort_touches ..) (by decide)
    with_reducible refine Touches.step ?_ (Touches.of_fst (by assumption) (State.offerRx_touches ..)) (by decide)
    with_reducible exact Touches.refl

theorem State.retryAll_touches (s : State) :
    Touches [.out, .regs, .mem, .check, .events, .deliver, .pair, .host, .ports] s (State.retryAll s) := by
  unfold State.retryAll
  with_reducible refine Touches.foldl _ (fun _ _ _ => ?_) ?_
  with_reducible refine Touches.step ?_ (State.retryRx_touches ..) (by decide)
  assumption
  with_reducible exact Touches.refl

theorem State.queueRx_touches (s : State) (p : Nat) (tsv : Bool) (bs : List Byte) :
    Touches [.free, .out, .regs, .mem, .check, .events, .deliver, .pair, .host, .ports] s (State.queueRx s p tsv bs) := by
  unfold State.queueRx
  split
  with_reducible refine Touches.step ?_ (State.dropRx_touches ..) (by decide)
  with_reducible exact Touches.refl
  dsimp only
  with_reducible refine Touches.step ?_ (State.retryRx_touches ..) (by decide)
  with_reducible refine Touches.step ?_ (State.onPort_touches ..) (by decide)
  split
  with_reducible exact Touches.refl
  with_reducible refine Touches.step ?_ (State.spend_touches ..) (by decide)
  with_reducible refine Touches.step ?_ (State.spend_touches ..) (by decide)
  with_reducible exact Touches.refl

theorem State.queueFrame_touches (s : State) (p : Nat) (r : Rx) (bs : List Byte) :
    Touches [.free, .out, .regs, .mem, .check, .events, .deliver, .pair, .host, .ports] s (State.queueFrame s p r bs) := by
  unfold State.queueFrame
  split
  with_reducible refine Touches.step ?_ (State.queueRx_touches ..) (by decide)
  with_reducible exact Touches.refl
  with_reducible refine Touches.step ?_ (State.queueRx_touches ..) (by decide)
  with_reducible exact Touches.refl

theorem State.receiveFrame_touches (s : State) (p : Nat) (bs : List Byte) (fcsOk : Bool) :
    Touches [.free, .out, .regs, .mem, .check, .events, .deliver, .pair, .host, .ports, .timers] s (State.receiveFrame s p bs fcsOk) := by
  unfold State.receiveFrame
  split
  with_reducible exact Touches.refl
  split
  with_reducible refine Touches.step ?_ (State.count_touches ..) (by decide)
  with_reducible exact Touches.refl
  dsimp only
  split
  with_reducible exact Touches.refl
  split
  with_reducible refine Touches.step ?_ (State.count_touches ..) (by decide)
  with_reducible exact Touches.refl
  split
  with_reducible refine Touches.step ?_ (State.queueFrame_touches ..) (by decide)
  with_reducible exact Touches.refl
  split
  with_reducible refine Touches.step ?_ (State.queueFrame_touches ..) (by decide)
  with_reducible exact Touches.refl
  split
  with_reducible refine Touches.step ?_ (State.count_touches ..) (by decide)
  with_reducible exact Touches.refl
  with_reducible refine Touches.step ?_ (State.parse_touches ..) (by decide)
  with_reducible exact Touches.refl

theorem State.writeInput_touches (s : State) (set a : Nat) (w : Word) :
    Touches [.mem, .check, .pair] s (State.writeInput s set a w) := by
  unfold State.writeInput
  split
  split
  with_reducible refine Touches.upd ?_
  with_reducible exact Touches.refl
  with_reducible refine Touches.step ?_ (State.poke_touches ..) (by decide)
  with_reducible exact Touches.refl
  with_reducible refine Touches.step ?_ (State.poke_touches ..) (by decide)
  with_reducible exact Touches.refl

theorem State.writeParse_touches (s : State) (w : ParseWrite) :
    Touches [.mem, .check, .pair, .ports] s (State.writeParse s w) := by
  unfold State.writeParse
  dsimp only
  with_reducible refine Touches.foldl _ (fun _ _ _ => ?_) ?_
  with_reducible refine Touches.step ?_ (State.onPort_touches ..) (by decide)
  assumption
  with_reducible refine Touches.foldl _ (fun _ _ _ => ?_) ?_
  with_reducible refine Touches.step ?_ (State.writeInput_touches ..) (by decide)
  assumption
  with_reducible exact Touches.refl

theorem State.expire_touches (s : State) (e : Nat) :
    Touches [.out, .regs, .events, .deliver, .pair, .host, .ports, .timers, .clk] s (State.expire s e) := by
  unfold State.expire
  dsimp only
  split
  with_reducible exact Touches.refl
  split
  with_reducible exact Touches.refl
  split
  with_reducible refine Touches.step ?_ (State.occur_touches ..) (by decide)
  split
  with_reducible refine Touches.step ?_ (State.queueWrite_touches ..) (by decide)
  with_reducible refine Touches.step ?_ (State.setFlag_touches ..) (by decide)
  with_reducible refine Touches.step ?_ (State.setFlag_touches ..) (by decide)
  with_reducible refine Touches.upd ?_
  with_reducible refine Touches.step ?_ (State.reach_touches ..) (by decide)
  with_reducible exact Touches.refl
  with_reducible refine Touches.step ?_ (State.setFlag_touches ..) (by decide)
  with_reducible refine Touches.step ?_ (State.setFlag_touches ..) (by decide)
  with_reducible refine Touches.upd ?_
  with_reducible refine Touches.step ?_ (State.reach_touches ..) (by decide)
  with_reducible exact Touches.refl
  split
  with_reducible refine Touches.step ?_ (State.queueWrite_touches ..) (by decide)
  with_reducible refine Touches.step ?_ (State.setFlag_touches ..) (by decide)
  with_reducible refine Touches.step ?_ (State.setFlag_touches ..) (by decide)
  with_reducible refine Touches.upd ?_
  with_reducible refine Touches.step ?_ (State.reach_touches ..) (by decide)
  with_reducible exact Touches.refl
  with_reducible refine Touches.step ?_ (State.setFlag_touches ..) (by decide)
  with_reducible refine Touches.step ?_ (State.setFlag_touches ..) (by decide)
  with_reducible refine Touches.upd ?_
  with_reducible refine Touches.step ?_ (State.reach_touches ..) (by decide)
  with_reducible exact Touches.refl

theorem State.lateFrame_touches (s : State) (p e : Nat) :
    Touches [.out, .regs, .events, .deliver, .pair, .host] s (State.lateFrame s p e) := by
  unfold State.lateFrame
  with_reducible refine Touches.step ?_ (State.notSent_touches ..) (by decide)
  with_reducible refine Touches.step ?_ (State.count_touches ..) (by decide)
  with_reducible exact Touches.refl

theorem State.dataOf_touches (s : State) (x : Exch) :
    Touches [.out, .regs, .check, .events, .deliver, .pair, .host] s (State.dataOf s x).1 := by
  unfold State.dataOf
  split
  dsimp only
  with_reducible refine Touches.step ?_ (Touches.of_fst (by assumption) (State.engineReads_touches ..)) (by decide)
  with_reducible exact Touches.refl
  dsimp only
  with_reducible refine Touches.step ?_ (Touches.of_fst (by assumption) (State.engineReads_touches ..)) (by decide)
  with_reducible exact Touches.refl

theorem State.assemble_touches (s : State) (p x0 : Nat) :
    Touches [.out, .regs, .check, .events, .deliver, .pair, .host, .ports] s (State.assemble s p x0) := by
  induction x0 generalizing s p with
  | zero =>
    unfold State.assemble
    with_reducible exact Touches.refl
  | succ n ih =>
    unfold State.assemble
    split
    with_reducible exact Touches.refl
    dsimp only
    split
    with_reducible refine Touches.step ?_ (ih ..) (by decide)
    with_reducible refine Touches.step ?_ (State.cancelFrame_touches ..) (by decide)
    with_reducible refine Touches.step ?_ (State.onPort_touches ..) (by decide)
    with_reducible exact Touches.refl
    split
    with_reducible refine Touches.step ?_ (ih ..) (by decide)
    with_reducible refine Touches.step ?_ (State.lateFrame_touches ..) (by decide)
    with_reducible refine Touches.step ?_ (Touches.of_fst (by assumption) (State.dataOf_touches ..)) (by decide)
    with_reducible refine Touches.step ?_ (State.onPort_touches ..) (by decide)
    with_reducible exact Touches.refl
    with_reducible refine Touches.step ?_ (State.onPort_touches ..) (by decide)
    with_reducible refine Touches.step ?_ (Touches.of_fst (by assumption) (State.dataOf_touches ..)) (by decide)
    with_reducible refine Touches.step ?_ (State.onPort_touches ..) (by decide)
    with_reducible exact Touches.refl

theorem State.withhold_touches (s : State) (x0 : List Nat) :
    Touches [.out, .regs, .check, .events, .deliver, .pair, .host] s (State.withhold s x0) := by
  induction x0 generalizing s with
  | nil =>
    unfold State.withhold
    with_reducible exact Touches.refl
  | cons a l ih =>
    unfold State.withhold
    dsimp only
    with_reducible refine Touches.step ?_ (ih ..) (by decide)
    split
    with_reducible exact Touches.refl
    with_reducible refine Touches.step ?_ (State.dataOf_touches ..) (by decide)
    with_reducible exact Touches.refl

theorem State.lateFrames_touches (s : State) (p : Nat) (x0 : List Nat) :
    Touches [.out, .regs, .events, .deliver, .pair, .host] s (State.lateFrames s p x0) := by
  induction x0 generalizing s p with
  | nil =>
    unfold State.lateFrames
    with_reducible exact Touches.refl
  | cons a l ih =>
    unfold State.lateFrames
    dsimp only
    with_reducible refine Touches.step ?_ (ih ..) (by decide)
    split
    with_reducible refine Touches.step ?_ (State.cancelFrame_touches ..) (by decide)
    with_reducible exact Touches.refl
    with_reducible refine Touches.step ?_ (State.lateFrame_touches ..) (by decide)
    with_reducible exact Touches.refl

theorem State.lateSending_touches (s : State) (p : Nat) (x : Sending) :
    Touches [.out, .regs, .events, .deliver, .pair, .host] s (State.lateSending s p x) := by
  unfold State.lateSending
  dsimp only
  split
  with_reducible refine Touches.step ?_ (State.occur_touches ..) (by decide)
  with_reducible refine Touches.step ?_ (State.count_touches ..) (by decide)
  with_reducible exact Touches.refl
  with_reducible refine Touches.step ?_ (State.count_touches ..) (by decide)
  with_reducible exact Touches.refl

theorem State.transmit_touches (s : State) (p : Nat) :
    Touches [.out, .regs, .check, .events, .deliver, .pair, .host, .ports] s (State.transmit s p) := by
  unfold State.transmit
  dsimp only
  split
  with_reducible refine Touches.step ?_ (State.withhold_touches ..) (by decide)
  with_reducible exact Touches.refl
  split
  with_reducible refine Touches.step ?_ (State.lateFrames_touches ..) (by decide)
  with_reducible exact Touches.refl
  split
  with_reducible refine Touches.step ?_ (State.assemble_touches ..) (by decide)
  with_reducible refine Touches.step ?_ (State.onPort_touches ..) (by decide)
  with_reducible exact Touches.refl
  with_reducible refine Touches.step ?_ (State.onPort_touches ..) (by decide)
  with_reducible exact Touches.refl

theorem State.transmitPoint_touches (s : State) (p : Nat) :
    Touches [.out, .regs, .check, .events, .deliver, .pair, .host, .ports, .clk] s (State.transmitPoint s p) := by
  unfold State.transmitPoint
  dsimp only
  split
  with_reducible refine Touches.step ?_ (State.transmit_touches ..) (by decide)
  with_reducible refine Touches.step ?_ (State.onPort_touches ..) (by decide)
  with_reducible refine Touches.step ?_ (State.reach_touches ..) (by decide)
  with_reducible exact Touches.refl
  with_reducible refine Touches.step ?_ (State.onPort_touches ..) (by decide)
  with_reducible refine Touches.step ?_ (State.reach_touches ..) (by decide)
  with_reducible exact Touches.refl

theorem State.frameSent_touches (s : State) (p : Nat) :
    Touches [.out, .regs, .check, .events, .deliver, .pair, .host, .ports] s (State.frameSent s p) := by
  unfold State.frameSent
  split
  with_reducible exact Touches.refl
  split
  with_reducible refine Touches.step ?_ (State.onPort_touches ..) (by decide)
  with_reducible exact Touches.refl
  dsimp only
  with_reducible refine Touches.step ?_ (State.assemble_touches ..) (by decide)
  split
  with_reducible refine Touches.step ?_ (State.occur_touches ..) (by decide)
  with_reducible refine Touches.step ?_ (State.count_touches ..) (by decide)
  with_reducible refine Touches.step ?_ (State.count_touches ..) (by decide)
  with_reducible refine Touches.step ?_ (State.emit_touches ..) (by decide)
  with_reducible refine Touches.step ?_ (State.onPort_touches ..) (by decide)
  with_reducible exact Touches.refl
  with_reducible refine Touches.step ?_ (State.count_touches ..) (by decide)
  with_reducible refine Touches.step ?_ (State.count_touches ..) (by decide)
  with_reducible refine Touches.step ?_ (State.emit_touches ..) (by decide)
  with_reducible refine Touches.step ?_ (State.onPort_touches ..) (by decide)
  with_reducible exact Touches.refl

theorem State.twoStep_touches (s : State) (p : Nat) :
    Touches [.regs] s (State.twoStep s p) := by
  unfold State.twoStep
  dsimp only
  with_reducible refine Touches.step ?_ (State.setReg_touches ..) (by decide)
  with_reducible refine Touches.step ?_ (State.setReg_touches ..) (by decide)
  with_reducible exact Touches.refl

theorem State.sendItem_touches (s : State) (p : Nat) (ws : List Word) :
    Touches [.out, .regs] s (State.sendItem s p ws) := by
  unfold State.sendItem
  dsimp only
  with_reducible refine Touches.step ?_ (State.count_touches ..) (by decide)
  with_reducible refine Touches.step ?_ (State.emit_touches ..) (by decide)
  split
  with_reducible refine Touches.step ?_ (State.twoStep_touches ..) (by decide)
  with_reducible exact Touches.refl
  with_reducible exact Touches.refl

theorem State.sendHead_touches (s : State) (p h : Nat) (next : Word) (ws : List Word) :
    Touches [.out, .regs, .mem, .check, .events, .deliver, .pair, .host, .ports, .clk] s (State.sendHead s p h next ws) := by
  unfold State.sendHead
  dsimp only
  split
  with_reducible exact Touches.refl
  with_reducible refine Touches.step ?_ (State.onPort_touches ..) (by decide)
  with_reducible refine Touches.step ?_ (State.sendItem_touches ..) (by decide)
  with_reducible refine Touches.step ?_ (State.take_touches ..) (by decide)
  with_reducible refine Touches.step ?_ (State.reach_touches ..) (by decide)
  with_reducible exact Touches.refl

theorem State.sendNext_touches (s : State) (p : Nat) :
    Touches [.out, .regs, .mem, .check, .events, .deliver, .pair, .host, .ports, .clk] s (State.sendNext s p) := by
  unfold State.sendNext
  dsimp only
  split
  with_reducible exact Touches.refl
  split
  with_reducible refine Touches.step ?_ (Touches.of_fst (by assumption) (State.consume_touches ..)) (by decide)
  with_reducible exact Touches.refl
  split
  with_reducible refine Touches.step ?_ (State.count_touches ..) (by decide)
  with_reducible refine Touches.step ?_ (State.take_touches ..) (by decide)
  with_reducible refine Touches.step ?_ (Touches.of_fst (by assumption) (State.engineReads_touches ..)) (by decide)
  with_reducible refine Touches.step ?_ (Touches.of_fst (by assumption) (State.consume_touches ..)) (by decide)
  with_reducible exact Touches.refl
  with_reducible refine Touches.step ?_ (State.sendHead_touches ..) (by decide)
  with_reducible refine Touches.step ?_ (Touches.of_fst (by assumption) (State.engineReads_touches ..)) (by decide)
  with_reducible refine Touches.step ?_ (Touches.of_fst (by assumption) (State.consume_touches ..)) (by decide)
  with_reducible exact Touches.refl

theorem State.leaveUnsent_touches (s : State) (p : Nat) (x : Option Sending) (es : List Nat) :
    Touches [.out, .regs, .events, .deliver, .pair, .host] s (State.leaveUnsent s p x es) := by
  unfold State.leaveUnsent
  split
  with_reducible exact Touches.refl
  with_reducible refine Touches.step ?_ (State.lateFrames_touches ..) (by decide)
  split
  with_reducible refine Touches.step ?_ (State.lateSending_touches ..) (by decide)
  with_reducible exact Touches.refl
  with_reducible exact Touches.refl

theorem State.portDown_touches (s : State) (p : Nat) :
    Touches [.out, .regs, .events, .deliver, .pair, .host, .ports] s (State.portDown s p) := by
  unfold State.portDown
  dsimp only
  with_reducible refine Touches.step ?_ (State.leaveUnsent_touches ..) (by decide)
  with_reducible refine Touches.step ?_ (State.setPort_touches ..) (by decide)
  with_reducible refine Touches.step ?_ (State.setFld_touches ..) (by decide)
  with_reducible exact Touches.refl

theorem State.idle_touches (s : State) :
    Touches [.out, .regs, .mem, .check, .events, .deliver, .pair, .host, .ports, .clk] s (State.idle s) := by
  unfold State.idle
  with_reducible refine Touches.step ?_ (State.retryAll_touches ..) (by decide)
  with_reducible refine Touches.step ?_ (State.tickBase_touches ..) (by decide)
  with_reducible exact Touches.refl


/-! ### PairOps -/

theorem State.setWhy_touches (s : State) (code : Nat) :
    Touches [.regs] s (State.setWhy s code) := by
  unfold State.setWhy
  with_reducible refine Touches.step ?_ (State.setReg_touches ..) (by decide)
  with_reducible exact Touches.refl

theorem State.askJoin_touches (s : State) :
    Touches [.out, .pair] s (State.askJoin s) := by
  unfold State.askJoin
  dsimp only
  with_reducible refine Touches.step ?_ (State.send_touches ..) (by decide)
  with_reducible refine Touches.step ?_ (State.onPair_touches ..) (by decide)
  with_reducible exact Touches.refl

theorem State.rejoin_touches (s : State) :
    Touches [.out, .regs, .pair] s (State.rejoin s) := by
  unfold State.rejoin
  split
  with_reducible exact Touches.refl
  split
  split
  with_reducible refine Touches.step ?_ (State.setWhy_touches ..) (by decide)
  with_reducible exact Touches.refl
  with_reducible refine Touches.step ?_ (State.askJoin_touches ..) (by decide)
  with_reducible exact Touches.refl
  split
  with_reducible refine Touches.step ?_ (State.setWhy_touches ..) (by decide)
  with_reducible exact Touches.refl
  with_reducible exact Touches.refl

theorem State.stopPorts_touches (s : State) :
    Touches [.ports] s (State.stopPorts s) := by
  unfold State.stopPorts
  with_reducible refine Touches.foldl _ (fun _ _ _ => ?_) ?_
  with_reducible refine Touches.step ?_ (State.setPort_touches ..) (by decide)
  assumption
  with_reducible exact Touches.refl

theorem State.drop_touches (s : State) (reason : Nat) :
    Touches [.out, .regs, .events, .deliver, .pair, .host, .ports] s (State.drop s reason) := by
  unfold State.drop
  dsimp only
  with_reducible refine Touches.step ?_ (State.rejoin_touches ..) (by decide)
  with_reducible refine Touches.step ?_ (State.occur_touches ..) (by decide)
  with_reducible refine Touches.step ?_ (State.onPair_touches ..) (by decide)
  with_reducible refine Touches.step ?_ (State.onPair_touches ..) (by decide)
  with_reducible refine Touches.step ?_ (State.setWhy_touches ..) (by decide)
  with_reducible refine Touches.step ?_ (State.stopPorts_touches ..) (by decide)
  with_reducible exact Touches.refl

theorem State.solo_touches (s : State) :
    Touches [.pair] s (State.solo s) := by
  unfold State.solo
  with_reducible refine Touches.step ?_ (State.onPair_touches ..) (by decide)
  with_reducible exact Touches.refl

theorem State.takeover_touches (s : State) :
    Touches [.out, .regs, .events, .deliver, .pair, .host] s (State.takeover s) := by
  unfold State.takeover
  with_reducible refine Touches.step ?_ (State.occur_touches ..) (by decide)
  with_reducible refine Touches.step ?_ (State.count_touches ..) (by decide)
  with_reducible refine Touches.step ?_ (State.solo_touches ..) (by decide)
  with_reducible exact Touches.refl

theorem State.sendWaiting_touches (s : State) (x0 : Nat) :
    Touches [.out, .pair] s (State.sendWaiting s x0) := by
  induction x0 generalizing s with
  | zero =>
    unfold State.sendWaiting
    with_reducible exact Touches.refl
  | succ n ih =>
    unfold State.sendWaiting
    split
    with_reducible exact Touches.refl
    split
    with_reducible refine Touches.step ?_ (ih ..) (by decide)
    with_reducible refine Touches.step ?_ (State.launch_touches ..) (by decide)
    with_reducible refine Touches.step ?_ (State.onPair_touches ..) (by decide)
    with_reducible exact Touches.refl
    with_reducible exact Touches.refl

theorem State.armPartner_touches (s : State) :
    Touches [.regs, .pair] s (State.armPartner s) := by
  unfold State.armPartner
  split
  with_reducible exact Touches.refl
  split
  with_reducible exact Touches.refl
  dsimp only
  split
  with_reducible refine Touches.step ?_ (State.setFlag_touches ..) (by decide)
  with_reducible refine Touches.step ?_ (State.setFld_touches ..) (by decide)
  with_reducible refine Touches.step ?_ (State.onPair_touches ..) (by decide)
  with_reducible exact Touches.refl
  with_reducible refine Touches.step ?_ (State.onPair_touches ..) (by decide)
  with_reducible exact Touches.refl

theorem State.acked_touches (s : State) (a : BitVec 12) :
    Touches [.out, .regs, .pair] s (State.acked s a) := by
  unfold State.acked
  split
  with_reducible exact Touches.refl
  with_reducible refine Touches.step ?_ (State.armPartner_touches ..) (by decide)
  with_reducible refine Touches.step ?_ (State.sendWaiting_touches ..) (by decide)
  with_reducible refine Touches.step ?_ (State.onPair_touches ..) (by decide)
  with_reducible exact Touches.refl

theorem State.linkToDown_touches (s : State) :
    Touches [.out, .regs, .events, .deliver, .pair, .host] s (State.linkToDown s) := by
  unfold State.linkToDown
  split
  with_reducible exact Touches.refl
  with_reducible refine Touches.step ?_ (State.occur_touches ..) (by decide)
  with_reducible refine Touches.step ?_ (State.onPair_touches ..) (by decide)
  with_reducible refine Touches.step ?_ (State.setFld_touches ..) (by decide)
  with_reducible exact Touches.refl

theorem State.partnerSilent_touches (s : State) (pwHigh : Bool) :
    Touches [.out, .regs, .events, .deliver, .pair, .host, .ports] s (State.partnerSilent s pwHigh) := by
  unfold State.partnerSilent
  split
  with_reducible exact Touches.refl
  dsimp only
  split
  with_reducible refine Touches.step ?_ (State.solo_touches ..) (by decide)
  with_reducible refine Touches.step ?_ (State.occur_touches ..) (by decide)
  with_reducible refine Touches.step ?_ (State.onPair_touches ..) (by decide)
  with_reducible exact Touches.refl
  with_reducible refine Touches.step ?_ (State.onPair_touches ..) (by decide)
  with_reducible refine Touches.step ?_ (State.occur_touches ..) (by decide)
  with_reducible refine Touches.step ?_ (State.onPair_touches ..) (by decide)
  with_reducible exact Touches.refl
  with_reducible refine Touches.step ?_ (State.drop_touches ..) (by decide)
  with_reducible refine Touches.step ?_ (State.occur_touches ..) (by decide)
  with_reducible refine Touches.step ?_ (State.onPair_touches ..) (by decide)
  with_reducible exact Touches.refl
  split
  with_reducible refine Touches.step ?_ (State.drop_touches ..) (by decide)
  with_reducible refine Touches.step ?_ (State.occur_touches ..) (by decide)
  with_reducible refine Touches.step ?_ (State.onPair_touches ..) (by decide)
  with_reducible exact Touches.refl
  with_reducible refine Touches.step ?_ (State.occur_touches ..) (by decide)
  with_reducible refine Touches.step ?_ (State.onPair_touches ..) (by decide)
  with_reducible exact Touches.refl
  split
  with_reducible refine Touches.step ?_ (State.drop_touches ..) (by decide)
  with_reducible refine Touches.step ?_ (State.occur_touches ..) (by decide)
  with_reducible refine Touches.step ?_ (State.onPair_touches ..) (by decide)
  with_reducible exact Touches.refl
  with_reducible refine Touches.step ?_ (State.occur_touches ..) (by decide)
  with_reducible refine Touches.step ?_ (State.onPair_touches ..) (by decide)
  with_reducible exact Touches.refl
  with_reducible refine Touches.step ?_ (State.occur_touches ..) (by decide)
  with_reducible refine Touches.step ?_ (State.onPair_touches ..) (by decide)
  with_reducible exact Touches.refl

theorem State.seePw_touches (s : State) (high : Bool) :
    Touches [.pins] s (State.seePw s high) := by
  unfold State.seePw
  with_reducible refine Touches.upd ?_
  with_reducible exact Touches.refl

theorem State.lostLink_touches (s : State) :
    Touches [.out, .regs, .events, .deliver, .pair, .host, .ports] s (State.lostLink s) := by
  unfold State.lostLink
  with_reducible refine Touches.step ?_ (State.partnerSilent_touches ..) (by decide)
  with_reducible refine Touches.step ?_ (State.linkToDown_touches ..) (by decide)
  with_reducible exact Touches.refl

theorem State.replay_touches (s : State) :
    Touches [.out, .regs, .events, .deliver, .pair, .host, .ports] s (State.replay s) := by
  unfold State.replay
  split
  with_reducible exact Touches.refl
  dsimp only
  split
  with_reducible refine Touches.step ?_ (State.lostLink_touches ..) (by decide)
  with_reducible refine Touches.step ?_ (State.onPair_touches ..) (by decide)
  with_reducible refine Touches.step ?_ (State.occur_touches ..) (by decide)
  with_reducible refine Touches.step ?_ (State.count_touches ..) (by decide)
  with_reducible refine Touches.foldl _ (fun _ _ _ => ?_) ?_
  with_reducible refine Touches.step ?_ (State.emit_touches ..) (by decide)
  assumption
  with_reducible exact Touches.refl
  with_reducible refine Touches.step ?_ (State.onPair_touches ..) (by decide)
  with_reducible refine Touches.step ?_ (State.occur_touches ..) (by decide)
  with_reducible refine Touches.step ?_ (State.count_touches ..) (by decide)
  with_reducible refine Touches.foldl _ (fun _ _ _ => ?_) ?_
  with_reducible refine Touches.step ?_ (State.emit_touches ..) (by decide)
  assumption
  with_reducible exact Touches.refl

theorem State.adoptFrame_touches (s : State) (frame : Nat) :
    Touches [.out, .regs, .frm, .host] s (State.adoptFrame s frame) := by
  unfold State.adoptFrame
  dsimp only
  split
  with_reducible refine Touches.upd ?_
  with_reducible refine Touches.step ?_ (State.setFld_touches ..) (by decide)
  with_reducible exact Touches.refl
  with_reducible refine Touches.step ?_ (State.tick_touches ..) (by decide)
  with_reducible refine Touches.upd ?_
  with_reducible refine Touches.step ?_ (State.setFld_touches ..) (by decide)
  with_reducible exact Touches.refl

theorem State.beginJoin_touches (s : State) (frame : Nat) :
    Touches [.out, .regs, .frm, .pair, .host] s (State.beginJoin s frame) := by
  unfold State.beginJoin
  with_reducible refine Touches.step ?_ (State.onPair_touches ..) (by decide)
  with_reducible refine Touches.step ?_ (State.adoptFrame_touches ..) (by decide)
  with_reducible exact Touches.refl

theorem State.startJoin_touches (s : State) :
    Touches [.out, .pair] s (State.startJoin s) := by
  unfold State.startJoin
  with_reducible refine Touches.step ?_ (State.send_touches ..) (by decide)
  with_reducible refine Touches.step ?_ (State.onPair_touches ..) (by decide)
  with_reducible exact Touches.refl

theorem State.firstMeeting_touches (s : State) (m : IdentMsg) :
    Touches [.out, .regs, .events, .deliver, .frm, .pair, .host, .ports] s (State.firstMeeting s m) := by
  unfold State.firstMeeting
  split
  split
  with_reducible refine Touches.step ?_ (State.occur_touches ..) (by decide)
  with_reducible refine Touches.step ?_ (State.solo_touches ..) (by decide)
  with_reducible exact Touches.refl
  split
  with_reducible refine Touches.step ?_ (State.occur_touches ..) (by decide)
  with_reducible refine Touches.step ?_ (State.drop_touches ..) (by decide)
  with_reducible exact Touches.refl
  with_reducible exact Touches.refl
  split
  split
  split
  with_reducible refine Touches.step ?_ (State.onPair_touches ..) (by decide)
  with_reducible exact Touches.refl
  dsimp only
  with_reducible refine Touches.step ?_ (State.send_touches ..) (by decide)
  with_reducible refine Touches.step ?_ (State.onPair_touches ..) (by decide)
  with_reducible exact Touches.refl
  split
  with_reducible refine Touches.step ?_ (State.beginJoin_touches ..) (by decide)
  with_reducible exact Touches.refl
  with_reducible refine Touches.step ?_ (State.startJoin_touches ..) (by decide)
  with_reducible refine Touches.step ?_ (State.solo_touches ..) (by decide)
  with_reducible exact Touches.refl
  split
  with_reducible refine Touches.step ?_ (State.beginJoin_touches ..) (by decide)
  with_reducible exact Touches.refl
  with_reducible exact Touches.refl

theorem State.meetPartner_touches (s : State) (m : IdentMsg) :
    Touches [.out, .regs, .events, .deliver, .frm, .pair, .host, .ports] s (State.meetPartner s m) := by
  unfold State.meetPartner
  split
  split
  with_reducible refine Touches.step ?_ (State.firstMeeting_touches ..) (by decide)
  with_reducible exact Touches.refl
  with_reducible exact Touches.refl
  split
  split
  with_reducible refine Touches.step ?_ (State.occur_touches ..) (by decide)
  with_reducible refine Touches.step ?_ (State.setWhy_touches ..) (by decide)
  with_reducible exact Touches.refl
  with_reducible refine Touches.step ?_ (State.rejoin_touches ..) (by decide)
  with_reducible exact Touches.refl
  with_reducible refine Touches.step ?_ (State.rejoin_touches ..) (by decide)
  with_reducible exact Touches.refl
  split
  with_reducible refine Touches.step ?_ (State.occur_touches ..) (by decide)
  with_reducible refine Touches.step ?_ (State.drop_touches ..) (by decide)
  with_reducible exact Touches.refl
  with_reducible exact Touches.refl
  with_reducible exact Touches.refl
  with_reducible exact Touches.refl
  split
  split
  with_reducible refine Touches.step ?_ (State.occur_touches ..) (by decide)
  with_reducible exact Touches.refl
  with_reducible refine Touches.step ?_ (State.startJoin_touches ..) (by decide)
  with_reducible exact Touches.refl
  with_reducible exact Touches.refl

theorem State.checkUp_touches (s : State) :
    Touches [.out, .regs, .events, .deliver, .frm, .pair, .host, .ports] s (State.checkUp s) := by
  unfold State.checkUp
  split
  split
  with_reducible exact Touches.refl
  with_reducible refine Touches.step ?_ (State.meetPartner_touches ..) (by decide)
  with_reducible refine Touches.step ?_ (State.occur_touches ..) (by decide)
  with_reducible refine Touches.step ?_ (State.onPair_touches ..) (by decide)
  with_reducible exact Touches.refl
  with_reducible exact Touches.refl

theorem State.sendIdent_touches (s : State) :
    Touches [.out, .pair] s (State.sendIdent s) := by
  unfold State.sendIdent
  split
  with_reducible refine Touches.step ?_ (State.send_touches ..) (by decide)
  with_reducible refine Touches.step ?_ (State.onPair_touches ..) (by decide)
  with_reducible exact Touches.refl
  with_reducible exact Touches.refl

theorem State.answer_touches (s : State) (nak : Bool) :
    Touches [.out] s (State.answer s nak) := by
  unfold State.answer
  split
  with_reducible exact Touches.refl
  with_reducible refine Touches.step ?_ (State.emit_touches ..) (by decide)
  with_reducible exact Touches.refl

theorem State.accept_touches (s : State) (h : Ack) :
    Touches [.out, .regs, .events, .deliver, .frm, .pair, .host, .ports] s (State.accept s h) := by
  unfold State.accept
  dsimp only
  with_reducible refine Touches.step ?_ (State.answer_touches ..) (by decide)
  with_reducible refine Touches.step ?_ (State.checkUp_touches ..) (by decide)
  split
  with_reducible refine Touches.step ?_ (State.replay_touches ..) (by decide)
  split
  with_reducible refine Touches.step ?_ (State.acked_touches ..) (by decide)
  with_reducible refine Touches.step ?_ (State.onPair_touches ..) (by decide)
  with_reducible exact Touches.refl
  with_reducible refine Touches.step ?_ (State.onPair_touches ..) (by decide)
  with_reducible exact Touches.refl
  split
  with_reducible refine Touches.step ?_ (State.acked_touches ..) (by decide)
  with_reducible refine Touches.step ?_ (State.onPair_touches ..) (by decide)
  with_reducible exact Touches.refl
  with_reducible refine Touches.step ?_ (State.onPair_touches ..) (by decide)
  with_reducible exact Touches.refl

/-- A packet received: it is acknowledged, then it has its own effect. -/
theorem State.receive_touches {l : List Part} (s : State) (h : Ack) (f : State → State) (hf : ∀ u, Touches l u (f u))
    (hl : [Part.out, .regs, .events, .deliver, .frm, .pair, .host, .ports].all (l.contains ·) = true) :
    Touches l s (State.receive s h f) := by
  unfold State.receive
  split
  · exact (Touches.mono (State.accept_touches ..) hl).step (hf _) (by
      exact List.all_eq_true.2 fun p hp => List.contains_iff_mem.2 hp)
  · exact Touches.refl

theorem State.sendSet_touches (s : State) (mk : Nat → List Word → Body) (ws : List Word) (fr : Byte) :
    Touches [.out, .pair] s (State.sendSet s mk ws fr) := by
  unfold State.sendSet
  with_reducible refine Touches.step ?_ (State.sendFrom_touches ..) (by decide)
  with_reducible exact Touches.refl


/-! ### Link -/

theorem State.identify_touches (s : State) (m : IdentMsg) :
    Touches [.out, .regs, .events, .deliver, .frm, .pair, .host, .ports] s (State.identify s m) := by
  unfold State.identify
  dsimp only
  split
  split
  with_reducible refine Touches.step ?_ (State.meetPartner_touches ..) (by decide)
  with_reducible refine Touches.step ?_ (State.onPair_touches ..) (by decide)
  with_reducible exact Touches.refl
  with_reducible refine Touches.step ?_ (State.checkUp_touches ..) (by decide)
  with_reducible refine Touches.step ?_ (State.onPair_touches ..) (by decide)
  with_reducible exact Touches.refl
  split
  with_reducible refine Touches.step ?_ (State.meetPartner_touches ..) (by decide)
  with_reducible refine Touches.step ?_ (State.onPair_touches ..) (by decide)
  with_reducible exact Touches.refl
  with_reducible refine Touches.step ?_ (State.checkUp_touches ..) (by decide)
  with_reducible refine Touches.step ?_ (State.onPair_touches ..) (by decide)
  with_reducible exact Touches.refl

theorem State.learnJoin_touches (s : State) (j : Nat) (fr : Byte) :
    Touches [.out, .regs, .frm, .pair, .host] s (State.learnJoin s j fr) := by
  unfold State.learnJoin
  split
  with_reducible exact Touches.refl
  dsimp only
  with_reducible refine Touches.step ?_ (State.onPair_touches ..) (by decide)
  with_reducible refine Touches.step ?_ (State.adoptFrame_touches ..) (by decide)
  with_reducible exact Touches.refl

theorem State.takePending_touches (s : State) (b : BitVec 1024) :
    Touches [.events, .pair] s (State.takePending s b) := by
  unfold State.takePending
  split
  with_reducible refine Touches.upd ?_
  with_reducible exact Touches.refl
  with_reducible exact Touches.refl

theorem State.answerSwap_touches (s : State) (target : Nat) (crc : Digest) :
    Touches [.out, .pair] s (State.answerSwap s target crc) := by
  unfold State.answerSwap
  split
  dsimp only
  with_reducible refine Touches.step ?_ (State.send_touches ..) (by decide)
  with_reducible refine Touches.step ?_ (State.onPair_touches ..) (by decide)
  with_reducible exact Touches.refl
  with_reducible exact Touches.refl

theorem State.placeWords_touches (s : State) (addrs : List Nat) (x0 : List Word) :
    Touches [.mem, .check] s (State.placeWords s addrs x0) := by
  induction x0 generalizing s addrs with
  | nil =>
    unfold State.placeWords
    with_reducible exact Touches.refl
  | cons a l ih =>
    unfold State.placeWords
    split
    with_reducible exact Touches.refl
    with_reducible refine Touches.step ?_ (ih ..) (by decide)
    with_reducible refine Touches.step ?_ (State.poke_touches ..) (by decide)
    with_reducible exact Touches.refl

theorem State.takeDelivery_touches (s : State) (fr : Byte) (w : Word) :
    Touches [.out, .regs, .events, .deliver, .pair, .host, .ports] s (State.takeDelivery s fr w) := by
  unfold State.takeDelivery
  dsimp only
  split
  with_reducible refine Touches.step ?_ (State.drop_touches ..) (by decide)
  with_reducible refine Touches.step ?_ (State.occur_touches ..) (by decide)
  with_reducible refine Touches.step ?_ (State.count_touches ..) (by decide)
  with_reducible exact Touches.refl
  with_reducible refine Touches.upd ?_
  with_reducible exact Touches.refl

theorem State.joinDelivery_touches (s : State) (fr : Byte) (w : Word) :
    Touches [.deliver] s (State.joinDelivery s fr w) := by
  unfold State.joinDelivery
  split
  split
  with_reducible refine Touches.upd ?_
  with_reducible exact Touches.refl
  with_reducible exact Touches.refl
  with_reducible exact Touches.refl

theorem State.takeDeliveries_touches (s : State) (fr : Byte) (x0 : List Word) :
    Touches [.out, .regs, .events, .deliver, .pair, .host, .ports] s (State.takeDeliveries s fr x0) := by
  induction x0 generalizing s fr with
  | nil =>
    unfold State.takeDeliveries
    with_reducible exact Touches.refl
  | cons a l ih =>
    unfold State.takeDeliveries
    split
    with_reducible refine Touches.step ?_ (ih ..) (by decide)
    with_reducible refine Touches.step ?_ (State.takeDelivery_touches ..) (by decide)
    with_reducible exact Touches.refl
    split
    with_reducible refine Touches.step ?_ (ih ..) (by decide)
    with_reducible refine Touches.step ?_ (State.joinDelivery_touches ..) (by decide)
    with_reducible exact Touches.refl
    with_reducible exact Touches.refl

theorem State.takeHostw_touches (s : State) (f : Nat) (w : Nat × Word) :
    Touches [.frm, .pair] s (State.takeHostw s f w) := by
  unfold State.takeHostw
  split
  with_reducible refine Touches.step ?_ (State.requestReset_touches ..) (by decide)
  with_reducible exact Touches.refl
  split
  with_reducible refine Touches.upd ?_
  with_reducible exact Touches.refl
  with_reducible refine Touches.step ?_ (State.onPair_touches ..) (by decide)
  with_reducible exact Touches.refl

theorem State.measure_touches (s : State) (t1 t2 t3 t4 : Int) :
    Touches [.regs] s (State.measure s t1 t2 t3 t4).1 := by
  unfold State.measure
  dsimp only
  with_reducible refine Touches.step ?_ (State.setFld_touches ..) (by decide)
  with_reducible refine Touches.step ?_ (State.setFld_touches ..) (by decide)
  with_reducible exact Touches.refl

theorem State.align_touches (s : State) (theta : Int) :
    Touches [.out, .regs, .events, .deliver, .pair, .host, .ports, .clk] s (State.align s theta) := by
  unfold State.align
  split
  with_reducible refine Touches.step ?_ (State.stepBase_touches ..) (by decide)
  with_reducible exact Touches.refl
  with_reducible refine Touches.step ?_ (State.stepBase_touches ..) (by decide)
  with_reducible exact Touches.refl
  split
  with_reducible refine Touches.step ?_ (State.drop_touches ..) (by decide)
  with_reducible refine Touches.step ?_ (State.occur_touches ..) (by decide)
  with_reducible exact Touches.refl
  with_reducible refine Touches.step ?_ (State.onPair_touches ..) (by decide)
  with_reducible exact Touches.refl
  split
  with_reducible refine Touches.step ?_ (State.drop_touches ..) (by decide)
  with_reducible refine Touches.step ?_ (State.occur_touches ..) (by decide)
  with_reducible exact Touches.refl
  with_reducible refine Touches.step ?_ (State.onPair_touches ..) (by decide)
  with_reducible exact Touches.refl
  with_reducible exact Touches.refl

theorem State.slew_touches (s : State) :
    Touches [.out, .pair, .clk] s (State.slew s) := by
  unfold State.slew
  dsimp only
  split
  with_reducible exact Touches.refl
  split
  with_reducible refine Touches.step ?_ (State.onPair_touches ..) (by decide)
  with_reducible refine Touches.step ?_ (State.addCount_touches ..) (by decide)
  with_reducible exact Touches.refl
  with_reducible refine Touches.step ?_ (State.onPair_touches ..) (by decide)
  with_reducible refine Touches.step ?_ (State.omitCount_touches ..) (by decide)
  with_reducible exact Touches.refl

theorem State.discard_touches (s : State) (count : Bool) :
    Touches [.out, .regs, .pair] s (State.discard s count) := by
  unfold State.discard
  dsimp only
  split
  split
  with_reducible refine Touches.step ?_ (State.count_touches ..) (by decide)
  with_reducible exact Touches.refl
  with_reducible refine Touches.step ?_ (State.onPair_touches ..) (by decide)
  with_reducible refine Touches.step ?_ (State.answer_touches ..) (by decide)
  with_reducible refine Touches.step ?_ (State.count_touches ..) (by decide)
  with_reducible exact Touches.refl
  split
  with_reducible exact Touches.refl
  with_reducible refine Touches.step ?_ (State.onPair_touches ..) (by decide)
  with_reducible refine Touches.step ?_ (State.answer_touches ..) (by decide)
  with_reducible exact Touches.refl

theorem State.laneAlign_touches (s : State) (skew : BitVec 20) :
    Touches [.out, .regs, .pair] s (State.laneAlign s skew) := by
  unfold State.laneAlign
  split
  with_reducible exact Touches.refl
  with_reducible refine Touches.step ?_ (State.sendIdent_touches ..) (by decide)
  with_reducible refine Touches.step ?_ (State.onPair_touches ..) (by decide)
  with_reducible refine Touches.step ?_ (State.setFld_touches ..) (by decide)
  with_reducible exact Touches.refl

theorem State.takeOver_touches (s : State) (pwHigh : Bool) :
    Touches [.out, .regs, .events, .deliver, .pair, .host, .ports] s (State.takeOver s pwHigh) := by
  unfold State.takeOver
  split
  split
  with_reducible refine Touches.step ?_ (State.drop_touches ..) (by decide)
  with_reducible exact Touches.refl
  with_reducible refine Touches.step ?_ (State.takeover_touches ..) (by decide)
  with_reducible exact Touches.refl
  with_reducible exact Touches.refl


/-! ### Verdict -/

theorem State.reachPoint_touches (s : State) (us : Nat) :
    Touches [.out, .clk] s (State.reachPoint s us) := by
  unfold State.reachPoint
  with_reducible refine Touches.step ?_ (State.reach_touches ..) (by decide)
  with_reducible exact Touches.refl

theorem State.digestDone_touches (s : State) (k : Nat) :
    Touches [.free, .out, .regs, .check, .events, .deliver, .pair, .host] s (State.digestDone s k) := by
  unfold State.digestDone
  split
  split
  dsimp only
  split
  with_reducible refine Touches.step ?_ (State.send_touches ..) (by decide)
  with_reducible refine Touches.step ?_ (State.onPair_touches ..) (by decide)
  with_reducible refine Touches.step ?_ (Touches.of_fst (by assumption) (State.engineWords_touches ..)) (by decide)
  with_reducible refine Touches.step ?_ (Touches.of_fst (by assumption) (State.engineWords_touches ..)) (by decide)
  with_reducible exact Touches.refl
  with_reducible refine Touches.step ?_ (State.setReg_touches ..) (by decide)
  with_reducible refine Touches.step ?_ (State.setReg_touches ..) (by decide)
  with_reducible refine Touches.step ?_ (State.onPair_touches ..) (by decide)
  with_reducible refine Touches.step ?_ (Touches.of_fst (by assumption) (State.engineWords_touches ..)) (by decide)
  with_reducible refine Touches.step ?_ (Touches.of_fst (by assumption) (State.engineWords_touches ..)) (by decide)
  with_reducible exact Touches.refl

theorem State.digestPoint_touches (s : State) :
    Touches [.free, .out, .regs, .check, .events, .deliver, .frm, .pair, .host, .clk] s (State.digestPoint s) := by
  unfold State.digestPoint
  dsimp only
  with_reducible refine Touches.step ?_ (State.digestDone_touches ..) (by decide)
  with_reducible refine Touches.upd ?_
  with_reducible refine Touches.step ?_ (State.reachPoint_touches ..) (by decide)
  with_reducible exact Touches.refl

theorem State.selfCheck_touches (s : State) :
    Touches [.out, .regs, .events, .deliver, .pair, .host] s (State.selfCheck s) := by
  unfold State.selfCheck
  split
  with_reducible exact Touches.refl
  split
  dsimp only
  split
  split
  with_reducible refine Touches.step ?_ (State.setFlag_touches ..) (by decide)
  with_reducible exact Touches.refl
  with_reducible refine Touches.step ?_ (faultEdge_touches ..) (by decide)
  with_reducible refine Touches.step ?_ (State.occur_touches ..) (by decide)
  with_reducible refine Touches.step ?_ (State.onPair_touches ..) (by decide)
  with_reducible refine Touches.step ?_ (State.setFlag_touches ..) (by decide)
  with_reducible exact Touches.refl
  split
  with_reducible refine Touches.step ?_ (State.setFlag_touches ..) (by decide)
  with_reducible exact Touches.refl
  with_reducible refine Touches.step ?_ (faultEdge_touches ..) (by decide)
  with_reducible refine Touches.step ?_ (State.occur_touches ..) (by decide)
  with_reducible refine Touches.step ?_ (State.onPair_touches ..) (by decide)
  with_reducible refine Touches.step ?_ (State.setFlag_touches ..) (by decide)
  with_reducible exact Touches.refl
  with_reducible exact Touches.refl

theorem State.recordDigests_touches (s : State) :
    Touches [.regs] s (State.recordDigests s) := by
  unfold State.recordDigests
  dsimp only
  split
  with_reducible refine Touches.step ?_ (State.setReg_touches ..) (by decide)
  with_reducible refine Touches.step ?_ (State.setReg_touches ..) (by decide)
  split
  with_reducible refine Touches.step ?_ (State.setReg_touches ..) (by decide)
  with_reducible refine Touches.step ?_ (State.setReg_touches ..) (by decide)
  with_reducible exact Touches.refl
  with_reducible exact Touches.refl
  split
  with_reducible refine Touches.step ?_ (State.setReg_touches ..) (by decide)
  with_reducible refine Touches.step ?_ (State.setReg_touches ..) (by decide)
  with_reducible exact Touches.refl
  with_reducible exact Touches.refl

theorem State.act_touches (s : State) (k v prev : Nat) :
    Touches [.out, .regs, .events, .deliver, .pair, .host, .ports] s (State.act s k v prev) := by
  unfold State.act
  split
  dsimp only
  split
  split
  split
  with_reducible refine Touches.step ?_ (State.drop_touches ..) (by decide)
  with_reducible refine Touches.step ?_ (State.stopPorts_touches ..) (by decide)
  with_reducible refine Touches.step ?_ (State.onPair_touches ..) (by decide)
  with_reducible refine Touches.step ?_ (State.onPair_touches ..) (by decide)
  with_reducible refine Touches.step ?_ (State.occur_touches ..) (by decide)
  with_reducible refine Touches.step ?_ (State.count_touches ..) (by decide)
  with_reducible exact Touches.refl
  with_reducible refine Touches.step ?_ (State.solo_touches ..) (by decide)
  with_reducible refine Touches.step ?_ (State.onPair_touches ..) (by decide)
  with_reducible refine Touches.step ?_ (State.onPair_touches ..) (by decide)
  with_reducible refine Touches.step ?_ (State.occur_touches ..) (by decide)
  with_reducible refine Touches.step ?_ (State.count_touches ..) (by decide)
  with_reducible exact Touches.refl
  split
  with_reducible refine Touches.step ?_ (State.drop_touches ..) (by decide)
  with_reducible refine Touches.step ?_ (State.stopPorts_touches ..) (by decide)
  with_reducible refine Touches.step ?_ (State.onPair_touches ..) (by decide)
  with_reducible refine Touches.step ?_ (State.onPair_touches ..) (by decide)
  with_reducible refine Touches.step ?_ (State.occur_touches ..) (by decide)
  with_reducible refine Touches.step ?_ (State.count_touches ..) (by decide)
  with_reducible exact Touches.refl
  with_reducible refine Touches.step ?_ (State.solo_touches ..) (by decide)
  with_reducible refine Touches.step ?_ (State.onPair_touches ..) (by decide)
  with_reducible refine Touches.step ?_ (State.onPair_touches ..) (by decide)
  with_reducible refine Touches.step ?_ (State.occur_touches ..) (by decide)
  with_reducible refine Touches.step ?_ (State.count_touches ..) (by decide)
  with_reducible exact Touches.refl
  split
  split
  with_reducible refine Touches.step ?_ (State.drop_touches ..) (by decide)
  with_reducible refine Touches.step ?_ (State.stopPorts_touches ..) (by decide)
  with_reducible refine Touches.step ?_ (State.onPair_touches ..) (by decide)
  with_reducible refine Touches.step ?_ (State.occur_touches ..) (by decide)
  with_reducible refine Touches.step ?_ (State.count_touches ..) (by decide)
  with_reducible exact Touches.refl
  with_reducible refine Touches.step ?_ (State.solo_touches ..) (by decide)
  with_reducible refine Touches.step ?_ (State.onPair_touches ..) (by decide)
  with_reducible refine Touches.step ?_ (State.occur_touches ..) (by decide)
  with_reducible refine Touches.step ?_ (State.count_touches ..) (by decide)
  with_reducible exact Touches.refl
  split
  with_reducible refine Touches.step ?_ (State.drop_touches ..) (by decide)
  with_reducible refine Touches.step ?_ (State.stopPorts_touches ..) (by decide)
  with_reducible refine Touches.step ?_ (State.onPair_touches ..) (by decide)
  with_reducible refine Touches.step ?_ (State.occur_touches ..) (by decide)
  with_reducible refine Touches.step ?_ (State.count_touches ..) (by decide)
  with_reducible exact Touches.refl
  with_reducible refine Touches.step ?_ (State.solo_touches ..) (by decide)
  with_reducible refine Touches.step ?_ (State.onPair_touches ..) (by decide)
  with_reducible refine Touches.step ?_ (State.occur_touches ..) (by decide)
  with_reducible refine Touches.step ?_ (State.count_touches ..) (by decide)
  with_reducible exact Touches.refl
  split
  dsimp only
  split
  with_reducible refine Touches.step ?_ (State.solo_touches ..) (by decide)
  with_reducible refine Touches.step ?_ (State.send_touches ..) (by decide)
  with_reducible refine Touches.step ?_ (State.occur_touches ..) (by decide)
  with_reducible exact Touches.refl
  with_reducible refine Touches.step ?_ (State.occur_touches ..) (by decide)
  with_reducible exact Touches.refl
  split
  with_reducible refine Touches.step ?_ (State.occur_touches ..) (by decide)
  with_reducible exact Touches.refl
  with_reducible exact Touches.refl

theorem State.verdictPoint_touches (s : State) :
    Touches [.out, .regs, .events, .deliver, .pair, .host, .ports] s (State.verdictPoint s) := by
  unfold State.verdictPoint
  dsimp only
  with_reducible refine Touches.step ?_ (State.selfCheck_touches ..) (by decide)
  split
  with_reducible refine Touches.step ?_ (State.act_touches ..) (by decide)
  with_reducible refine Touches.step ?_ (State.onPair_touches ..) (by decide)
  with_reducible refine Touches.step ?_ (State.setFld_touches ..) (by decide)
  with_reducible refine Touches.step ?_ (State.setFld_touches ..) (by decide)
  with_reducible refine Touches.step ?_ (State.setFld_touches ..) (by decide)
  with_reducible refine Touches.step ?_ (State.recordDigests_touches ..) (by decide)
  with_reducible exact Touches.refl
  with_reducible exact Touches.refl

theorem State.judgePoint_touches (s : State) :
    Touches [.out, .regs, .events, .deliver, .frm, .pair, .host, .ports, .clk] s (State.judgePoint s) := by
  unfold State.judgePoint
  dsimp only
  with_reducible refine Touches.step ?_ (State.verdictPoint_touches ..) (by decide)
  with_reducible refine Touches.upd ?_
  with_reducible refine Touches.step ?_ (State.reachPoint_touches ..) (by decide)
  with_reducible exact Touches.refl

theorem State.cutoff_touches (s : State) :
    Touches [.free, .out, .regs, .check, .events, .deliver, .frm, .pair, .host, .clk] s (State.cutoff s) := by
  unfold State.cutoff
  dsimp only
  split
  with_reducible refine Touches.step ?_ (State.forwardInput_touches ..) (by decide)
  with_reducible refine Touches.upd ?_
  with_reducible refine Touches.step ?_ (State.reachPoint_touches ..) (by decide)
  with_reducible exact Touches.refl
  split
  with_reducible refine Touches.step ?_ (State.onPair_touches ..) (by decide)
  with_reducible refine Touches.upd ?_
  with_reducible refine Touches.step ?_ (State.reachPoint_touches ..) (by decide)
  with_reducible exact Touches.refl
  with_reducible refine Touches.upd ?_
  with_reducible refine Touches.step ?_ (State.reachPoint_touches ..) (by decide)
  with_reducible exact Touches.refl


/-! ### Events -/

theorem State.timer_touches (s : State) (c : Nat) :
    Touches [.out, .regs, .events, .deliver, .pair, .host, .clk] s (State.timer s c) := by
  unfold State.timer
  dsimp only
  split
  with_reducible refine Touches.step ?_ (State.occur_touches ..) (by decide)
  with_reducible refine Touches.step ?_ (State.reach_touches ..) (by decide)
  with_reducible exact Touches.refl
  with_reducible exact Touches.refl

theorem State.enterEvent_touches (s : State) (c n : Nat) :
    Touches [.free, .out, .regs, .mem, .check, .cores, .ctxs, .events, .deliver, .frm, .pair, .host] s (State.enterEvent s c n) := by
  unfold State.enterEvent
  dsimp only
  with_reducible refine Touches.step ?_ (State.enter_touches ..) (by decide)
  with_reducible refine Touches.upd ?_
  with_reducible exact Touches.refl

theorem State.acceptEvent_touches (s : State) (c held : Nat) :
    Touches [.free, .out, .regs, .mem, .check, .cores, .ctxs, .events, .deliver, .frm, .pair, .host] s (State.acceptEvent s c held) := by
  unfold State.acceptEvent
  split
  with_reducible exact Touches.refl
  dsimp only
  split
  with_reducible refine Touches.step ?_ (State.enterEvent_touches ..) (by decide)
  with_reducible refine Touches.step ?_ (State.passTo_touches ..) (by decide)
  with_reducible exact Touches.refl
  with_reducible exact Touches.refl

theorem State.acceptTrap_touches (s : State) (c held : Nat) :
    Touches [.free, .out, .regs, .mem, .check, .cores, .ctxs, .events, .deliver, .frm, .pair, .host] s (State.acceptTrap s c held) := by
  unfold State.acceptTrap
  split
  with_reducible exact Touches.refl
  split
  with_reducible exact Touches.refl
  with_reducible refine Touches.step ?_ (State.enter_touches ..) (by decide)
  with_reducible exact Touches.refl


/-! ### Health -/

theorem State.endPass_touches (s : State) (a : Nat) :
    Touches [.regs, .clk] s (State.endPass s a) := by
  unfold State.endPass
  split
  split
  dsimp only
  with_reducible refine Touches.step ?_ (State.onClk_touches ..) (by decide)
  split
  with_reducible refine Touches.step ?_ (State.setFlag_touches ..) (by decide)
  with_reducible exact Touches.refl
  with_reducible exact Touches.refl
  with_reducible exact Touches.refl

theorem State.scrubWord_touches (s : State) (a : Nat) (found : Found) :
    Touches [.out, .regs, .check, .events, .deliver, .pair, .host, .clk] s (State.scrubWord s a found) := by
  unfold State.scrubWord
  split
  with_reducible exact Touches.refl
  dsimp only
  with_reducible refine Touches.step ?_ (State.endPass_touches ..) (by decide)
  split
  with_reducible refine Touches.step ?_ (State.count_touches ..) (by decide)
  split
  with_reducible exact Touches.refl
  with_reducible refine Touches.step ?_ (State.error_touches ..) (by decide)
  with_reducible refine Touches.step ?_ (State.rewrite_touches ..) (by decide)
  with_reducible exact Touches.refl
  with_reducible refine Touches.step ?_ (State.error_touches ..) (by decide)
  with_reducible refine Touches.upd ?_
  with_reducible exact Touches.refl
  split
  with_reducible exact Touches.refl
  with_reducible refine Touches.step ?_ (State.error_touches ..) (by decide)
  with_reducible refine Touches.step ?_ (State.rewrite_touches ..) (by decide)
  with_reducible exact Touches.refl
  with_reducible refine Touches.step ?_ (State.error_touches ..) (by decide)
  with_reducible refine Touches.upd ?_
  with_reducible exact Touches.refl

theorem State.stopPart_touches (s : State) :
    Touches [.out, .regs, .host] s (State.stopPart s) := by
  unfold State.stopPart
  with_reducible refine Touches.step ?_ (faultEdge_touches ..) (by decide)
  with_reducible refine Touches.step ?_ (State.setFlag_touches ..) (by decide)
  with_reducible exact Touches.refl

theorem State.coreLost_touches (s : State) (c : Nat) :
    Touches [.free, .out, .regs, .mem, .check, .cores, .ctxs, .events, .deliver, .frm, .pair, .host] s (State.coreLost s c) := by
  unfold State.coreLost
  split
  with_reducible exact Touches.refl
  with_reducible refine Touches.step ?_ (faultEdge_touches ..) (by decide)
  with_reducible refine Touches.step ?_ (State.takeOffline_touches ..) (by decide)
  with_reducible exact Touches.refl

theorem State.damage_touches (s : State) (d : Damage) (r : Nat) :
    Touches [.free, .out, .regs, .mem, .check, .cores, .ctxs, .events, .deliver, .frm, .pair, .host] s (State.damage s d r) := by
  unfold State.damage
  split
  with_reducible refine Touches.step ?_ (State.coreLost_touches ..) (by decide)
  with_reducible refine Touches.step ?_ (State.error_touches ..) (by decide)
  with_reducible exact Touches.refl
  with_reducible refine Touches.step ?_ (State.stopPart_touches ..) (by decide)
  with_reducible refine Touches.step ?_ (State.error_touches ..) (by decide)
  with_reducible exact Touches.refl
  with_reducible refine Touches.step ?_ (State.error_touches ..) (by decide)
  with_reducible exact Touches.refl

theorem State.scrubReg_touches (s : State) (r : Nat) (found : Found) :
    Touches [.free, .out, .regs, .mem, .check, .cores, .ctxs, .events, .deliver, .frm, .pair, .host] s (State.scrubReg s r found) := by
  unfold State.scrubReg
  split
  with_reducible refine Touches.step ?_ (State.error_touches ..) (by decide)
  with_reducible exact Touches.refl
  with_reducible refine Touches.step ?_ (State.damage_touches ..) (by decide)
  with_reducible refine Touches.upd ?_
  with_reducible exact Touches.refl
  with_reducible exact Touches.refl

theorem State.scrubMicro_touches (s : State) (c : Nat) (found : Found) :
    Touches [.free, .out, .regs, .mem, .check, .cores, .ctxs, .events, .deliver, .frm, .pair, .host] s (State.scrubMicro s c found) := by
  unfold State.scrubMicro
  split
  with_reducible exact Touches.refl
  with_reducible refine Touches.step ?_ (State.m1_touches ..) (by decide)
  with_reducible refine Touches.step ?_ (State.error_touches ..) (by decide)
  with_reducible exact Touches.refl

theorem State.scrubPlan_touches (s : State) (found : Found) :
    Touches [.out, .regs, .events, .deliver, .pair, .host] s (State.scrubPlan s found) := by
  unfold State.scrubPlan
  split
  with_reducible exact Touches.refl
  with_reducible refine Touches.step ?_ (State.error_touches ..) (by decide)
  with_reducible exact Touches.refl
  with_reducible refine Touches.step ?_ (State.stopPart_touches ..) (by decide)
  with_reducible refine Touches.step ?_ (State.error_touches ..) (by decide)
  with_reducible exact Touches.refl

theorem State.scrub_touches (s : State) (loc : ScrubLoc) (found : Found) :
    Touches [.free, .out, .regs, .mem, .check, .cores, .ctxs, .events, .deliver, .frm, .pair, .host, .clk] s (State.scrub s loc found) := by
  unfold State.scrub
  split
  with_reducible refine Touches.step ?_ (State.scrubWord_touches ..) (by decide)
  with_reducible exact Touches.refl
  with_reducible refine Touches.step ?_ (State.scrubReg_touches ..) (by decide)
  with_reducible exact Touches.refl
  with_reducible refine Touches.step ?_ (State.scrubPlan_touches ..) (by decide)
  with_reducible exact Touches.refl
  with_reducible refine Touches.step ?_ (State.scrubMicro_touches ..) (by decide)
  with_reducible exact Touches.refl

theorem State.newTemperature_touches (s : State) (tj : BitVec 16) :
    Touches [.out, .regs, .events, .deliver, .pair, .host] s (State.newTemperature s tj) := by
  unfold State.newTemperature
  dsimp only
  split
  with_reducible refine Touches.step ?_ (State.occur_touches ..) (by decide)
  with_reducible refine Touches.step ?_ (State.setFld_touches ..) (by decide)
  with_reducible exact Touches.refl
  with_reducible refine Touches.step ?_ (State.setFld_touches ..) (by decide)
  with_reducible exact Touches.refl

end Sys2Proof.Machine
end

