-- ==== Sys2Proof/Laws/TouchesPart.lean ====
section
/-!
SUPPORT. Which parts of the state each operation touches (Boundary, HostAccess, Clocks, Swap, Commands, HostWrite, Loader, Reset), and that it keeps the canonical form of
memory.
-/
namespace Sys2Proof.Machine
set_option Elab.async false

/-! ### Boundary -/

theorem State.copyJoinSet_touches (s : State) (j : Nat) :
    Touches [.mem, .check] s (State.copyJoinSet s j) := by
  unfold State.copyJoinSet
  split
  with_reducible refine Touches.step ?_ (State.copyWords_touches ..) (by decide)
  with_reducible exact Touches.refl
  with_reducible exact Touches.refl

theorem State.lateAtEnd_touches (s : State) (p : Nat) :
    Touches [.out, .regs, .events, .deliver, .pair, .host, .ports] s (State.lateAtEnd s p) := by
  unfold State.lateAtEnd
  dsimp only
  with_reducible refine Touches.step ?_ (State.leaveUnsent_touches ..) (by decide)
  with_reducible refine Touches.step ?_ (State.onPort_touches ..) (by decide)
  with_reducible exact Touches.refl

theorem State.dropLate_touches (s : State) (k p : Nat) :
    Touches [.out, .regs, .events, .deliver, .pair, .host, .ports] s (State.dropLate s k p) := by
  unfold State.dropLate
  dsimp only
  with_reducible refine Touches.foldl _ (fun _ _ _ => ?_) ?_
  with_reducible refine Touches.step ?_ (State.occur_touches ..) (by decide)
  with_reducible refine Touches.step ?_ (State.count_touches ..) (by decide)
  assumption
  with_reducible refine Touches.step ?_ (State.setPort_touches ..) (by decide)
  with_reducible exact Touches.refl

theorem State.portFlush_touches (s : State) (p : Nat) :
    Touches [.out, .regs, .mem, .check, .events, .deliver, .frm, .pair, .host, .ports] s (State.portFlush s p) := by
  unfold State.portFlush
  dsimp only
  split
  with_reducible exact Touches.refl
  split
  with_reducible refine Touches.step ?_ (State.onPort_touches ..) (by decide)
  with_reducible exact Touches.refl
  split
  with_reducible exact Touches.refl
  with_reducible refine Touches.step ?_ (State.flushNow_touches ..) (by decide)
  with_reducible refine Touches.step ?_ (State.onPort_touches ..) (by decide)
  with_reducible exact Touches.refl

theorem State.endFrame_touches (s : State) (k : Nat) :
    Touches [.out, .regs, .mem, .check, .events, .deliver, .frm, .pair, .host, .ports] s (State.endFrame s k) := by
  unfold State.endFrame
  dsimp only
  with_reducible refine Touches.step ?_ (State.onPair_touches ..) (by decide)
  with_reducible refine Touches.foldl _ (fun _ _ _ => ?_) ?_
  with_reducible refine Touches.step ?_ (State.portFlush_touches ..) (by decide)
  with_reducible refine Touches.step ?_ (State.dropLate_touches ..) (by decide)
  assumption
  with_reducible refine Touches.foldl _ (fun _ _ _ => ?_) ?_
  with_reducible refine Touches.step ?_ (State.setFld_touches ..) (by decide)
  assumption
  with_reducible refine Touches.upd ?_
  with_reducible refine Touches.foldl _ (fun _ _ _ => ?_) ?_
  with_reducible refine Touches.step ?_ (State.lateAtEnd_touches ..) (by decide)
  assumption
  with_reducible refine Touches.step ?_ (State.copyJoinSet_touches ..) (by decide)
  with_reducible exact Touches.refl

theorem State.restoreOwn_touches (s : State) (k : Nat) :
    Touches [.mem, .check] s (State.restoreOwn s k) := by
  unfold State.restoreOwn
  split
  split
  with_reducible refine Touches.foldl _ (fun _ _ _ => ?_) ?_
  with_reducible refine Touches.step ?_ (State.poke_touches ..) (by decide)
  assumption
  with_reducible exact Touches.refl
  with_reducible exact Touches.refl
  with_reducible exact Touches.refl

theorem State.finishJoin_touches (s : State) (j : Nat) :
    Touches [.out, .regs, .recto, .verso, .events, .deliver, .pair, .host, .ports] s (State.finishJoin s j) := by
  unfold State.finishJoin
  split
  · exact (State.drop_touches ..).mono (by decide)
  · dsimp only
    refine Touches.step ?_ (State.occur_touches ..) (by decide)
    refine Touches.step ?_ (State.onPair_touches ..) (by decide)
    split
    · split
      · exact Touches.refl
      · exact (State.setActive_touches _ _ fun _ => Memory.wf_fill _ _ _ rfl).mono (by decide)
    · exact Touches.refl

theorem State.publish_touches (s : State) (k : Nat) :
    Touches [.out, .regs, .recto, .verso, .mem, .check, .events, .deliver, .pair, .host, .ports] s (State.publish s k) := by
  unfold State.publish
  split
  split
  with_reducible exact Touches.refl
  with_reducible refine Touches.step ?_ (State.drop_touches ..) (by decide)
  with_reducible refine Touches.step ?_ (State.send_touches ..) (by decide)
  with_reducible refine Touches.step ?_ (State.occur_touches ..) (by decide)
  with_reducible exact Touches.refl
  split
  with_reducible exact Touches.refl
  with_reducible refine Touches.step ?_ (State.drop_touches ..) (by decide)
  with_reducible refine Touches.step ?_ (State.send_touches ..) (by decide)
  with_reducible refine Touches.step ?_ (State.occur_touches ..) (by decide)
  with_reducible exact Touches.refl
  split
  split
  with_reducible refine Touches.step ?_ (State.finishJoin_touches ..) (by decide)
  with_reducible exact Touches.refl
  split
  with_reducible refine Touches.step ?_ (State.occur_touches ..) (by decide)
  with_reducible exact Touches.refl
  with_reducible exact Touches.refl
  with_reducible exact Touches.refl
  dsimp only
  split
  split
  with_reducible refine Touches.step ?_ (State.occur_touches ..) (by decide)
  with_reducible refine Touches.step ?_ (State.onPair_touches ..) (by decide)
  split
  with_reducible exact Touches.refl
  with_reducible refine Touches.step ?_ (State.restoreOwn_touches ..) (by decide)
  with_reducible exact Touches.refl
  split
  with_reducible refine Touches.step ?_ (State.occur_touches ..) (by decide)
  split
  with_reducible exact Touches.refl
  with_reducible refine Touches.step ?_ (State.restoreOwn_touches ..) (by decide)
  with_reducible exact Touches.refl
  split
  with_reducible exact Touches.refl
  with_reducible refine Touches.step ?_ (State.restoreOwn_touches ..) (by decide)
  with_reducible exact Touches.refl
  split
  with_reducible exact Touches.refl
  with_reducible refine Touches.step ?_ (State.restoreOwn_touches ..) (by decide)
  with_reducible exact Touches.refl
  split
  split
  with_reducible refine Touches.step ?_ (State.occur_touches ..) (by decide)
  with_reducible refine Touches.step ?_ (State.onPair_touches ..) (by decide)
  with_reducible exact Touches.refl
  split
  with_reducible refine Touches.step ?_ (State.occur_touches ..) (by decide)
  with_reducible exact Touches.refl
  with_reducible exact Touches.refl
  with_reducible exact Touches.refl
  with_reducible exact Touches.refl

theorem State.handover_touches (s : State) (k : Nat) :
    Touches [.out, .regs, .events, .deliver, .pair, .host] s (State.handover s k) := by
  unfold State.handover
  split
  with_reducible exact Touches.refl
  dsimp only
  split
  with_reducible refine Touches.step ?_ (State.onPair_touches ..) (by decide)
  with_reducible refine Touches.step ?_ (State.onPair_touches ..) (by decide)
  with_reducible exact Touches.refl
  with_reducible refine Touches.step ?_ (State.occur_touches ..) (by decide)
  with_reducible refine Touches.step ?_ (State.onPair_touches ..) (by decide)
  with_reducible refine Touches.step ?_ (State.onPair_touches ..) (by decide)
  with_reducible exact Touches.refl
  with_reducible refine Touches.step ?_ (State.occur_touches ..) (by decide)
  with_reducible refine Touches.step ?_ (State.onPair_touches ..) (by decide)
  with_reducible refine Touches.step ?_ (State.onPair_touches ..) (by decide)
  with_reducible exact Touches.refl
  with_reducible refine Touches.step ?_ (State.onPair_touches ..) (by decide)
  with_reducible exact Touches.refl

theorem State.startForwarding_touches (s : State) :
    Touches [.pair] s (State.startForwarding s) := by
  unfold State.startForwarding
  with_reducible refine Touches.step ?_ (State.onPair_touches ..) (by decide)
  with_reducible exact Touches.refl

theorem State.restartTimers_touches (s : State) :
    Touches [.timers] s (State.restartTimers s) := by
  unfold State.restartTimers
  with_reducible refine Touches.upd ?_
  with_reducible exact Touches.refl

theorem State.refuseSwap_touches (s : State) (why : Nat) :
    Touches [.out, .regs, .host] s (State.refuseSwap s why) := by
  unfold State.refuseSwap
  with_reducible refine Touches.step ?_ (State.cause_touches ..) (by decide)
  with_reducible refine Touches.step ?_ (State.setFlag_touches ..) (by decide)
  with_reducible refine Touches.step ?_ (State.setFld_touches ..) (by decide)
  with_reducible exact Touches.refl

theorem State.dropCaches_touches (s : State) :
    Touches [.cores] s (State.dropCaches s) := by
  unfold State.dropCaches
  with_reducible refine Touches.foldl _ (fun _ _ _ => ?_) ?_
  with_reducible refine Touches.step ?_ (State.onCore_touches ..) (by decide)
  assumption
  with_reducible exact Touches.refl

theorem State.swapStep_touches (s : State) (k : Nat) :
    Touches [.out, .regs, .cores, .frm, .host, .timers] s (State.swapStep s k) := by
  unfold State.swapStep
  dsimp only
  split
  with_reducible refine Touches.step ?_ (State.setFlag_touches ..) (by decide)
  with_reducible exact Touches.refl
  split
  with_reducible refine Touches.step ?_ (State.cause_touches ..) (by decide)
  with_reducible refine Touches.step ?_ (State.restartTimers_touches ..) (by decide)
  with_reducible refine Touches.step ?_ (State.dropCaches_touches ..) (by decide)
  with_reducible refine Touches.step ?_ (State.setFlag_touches ..) (by decide)
  with_reducible refine Touches.step ?_ (State.setFlag_touches ..) (by decide)
  with_reducible refine Touches.step ?_ (State.setFlag_touches ..) (by decide)
  with_reducible refine Touches.step ?_ (State.setFlag_touches ..) (by decide)
  with_reducible refine Touches.upd ?_
  with_reducible refine Touches.step ?_ (State.setFlag_touches ..) (by decide)
  with_reducible exact Touches.refl
  split
  with_reducible refine Touches.step ?_ (State.refuseSwap_touches ..) (by decide)
  with_reducible refine Touches.step ?_ (State.setFlag_touches ..) (by decide)
  with_reducible refine Touches.step ?_ (State.setFlag_touches ..) (by decide)
  with_reducible exact Touches.refl
  with_reducible refine Touches.step ?_ (State.setFlag_touches ..) (by decide)
  with_reducible exact Touches.refl

theorem State.applyLv_touches (s : State) (r : Nat) (v : Word) :
    Touches [.regs] s (State.applyLv s r v) := by
  unfold State.applyLv
  dsimp only
  with_reducible refine Touches.step ?_ (State.setReg_touches ..) (by decide)
  with_reducible exact Touches.refl

theorem State.hostPoke_touches (s : State) (a : Nat) (v : Word) :
    Touches [.regs, .mem, .check] s (State.hostPoke s a v) := by
  unfold State.hostPoke
  split
  with_reducible refine Touches.step ?_ (State.count_touches ..) (by decide)
  with_reducible exact Touches.refl
  with_reducible refine Touches.step ?_ (State.poke_touches ..) (by decide)
  with_reducible exact Touches.refl

theorem State.performHeld_touches (s : State) (w : HeldWrite) :
    Touches [.regs, .mem, .check] s (State.performHeld s w) := by
  unfold State.performHeld
  split
  with_reducible refine Touches.step ?_ (State.hostPoke_touches ..) (by decide)
  with_reducible exact Touches.refl
  with_reducible refine Touches.step ?_ (State.applyLv_touches ..) (by decide)
  with_reducible exact Touches.refl

theorem State.lvStep_touches (s : State) (k : Nat) :
    Touches [.regs, .lv, .mem, .check, .pair] s (State.lvStep s k) := by
  unfold State.lvStep
  dsimp only
  with_reducible refine Touches.upd ?_
  with_reducible refine Touches.foldl _ (fun _ _ _ => ?_) ?_
  with_reducible refine Touches.step ?_ (State.applyLv_touches ..) (by decide)
  assumption
  with_reducible refine Touches.foldl _ (fun _ _ _ => ?_) ?_
  with_reducible refine Touches.step ?_ (State.performHeld_touches ..) (by decide)
  assumption
  with_reducible refine Touches.step ?_ (State.onPair_touches ..) (by decide)
  with_reducible exact Touches.refl

theorem State.readyTenants_touches (s : State) :
    Touches [.regs] s (State.readyTenants s) := by
  unfold State.readyTenants
  with_reducible refine Touches.foldl _ (fun _ _ _ => ?_) ?_
  split
  with_reducible refine Touches.step ?_ (State.setFld_touches ..) (by decide)
  assumption
  assumption
  with_reducible exact Touches.refl

theorem State.stream_touches (s : State) :
    Touches [.free, .out, .regs, .check, .events, .deliver, .pair, .host] s (State.stream s) := by
  unfold State.stream
  split
  with_reducible exact Touches.refl
  dsimp only
  split
  with_reducible refine Touches.step ?_ (State.sendSet_touches ..) (by decide)
  with_reducible refine Touches.step ?_ (State.engineWords_touches ..) (by decide)
  with_reducible refine Touches.step ?_ (State.sendSet_touches ..) (by decide)
  with_reducible refine Touches.step ?_ (State.engineWords_touches ..) (by decide)
  with_reducible exact Touches.refl
  with_reducible refine Touches.step ?_ (State.sendSet_touches ..) (by decide)
  with_reducible refine Touches.step ?_ (State.engineWords_touches ..) (by decide)
  with_reducible exact Touches.refl

theorem State.firstFrame_touches (s : State) :
    Touches [.out, .regs, .mem, .check, .events, .deliver, .frm, .pair, .host, .ports, .timers] s (State.firstFrame s) := by
  unfold State.firstFrame
  dsimp only
  with_reducible refine Touches.foldl _ (fun _ _ _ => ?_) ?_
  with_reducible refine Touches.step ?_ (State.portFlush_touches ..) (by decide)
  assumption
  with_reducible refine Touches.step ?_ (State.onPair_touches ..) (by decide)
  with_reducible refine Touches.step ?_ (State.restartTimers_touches ..) (by decide)
  with_reducible refine Touches.upd ?_
  with_reducible exact Touches.refl

theorem State.laterFrame_touches (s : State) (k : Nat) :
    Touches [.out, .regs, .recto, .verso, .mem, .check, .cores, .events, .deliver, .frm, .pair, .host, .ports, .timers] s (State.laterFrame s k) := by
  unfold State.laterFrame
  dsimp only
  with_reducible refine Touches.step ?_ (State.swapStep_touches ..) (by decide)
  with_reducible refine Touches.step ?_ (State.startForwarding_touches ..) (by decide)
  with_reducible refine Touches.step ?_ (State.handover_touches ..) (by decide)
  with_reducible refine Touches.step ?_ (State.publish_touches ..) (by decide)
  with_reducible refine Touches.step ?_ (State.endFrame_touches ..) (by decide)
  with_reducible refine Touches.step ?_ (State.setFld_touches ..) (by decide)
  with_reducible exact Touches.refl

theorem State.frameBoundary_touches (s : State) :
    Touches [.free, .out, .regs, .lv, .recto, .verso, .mem, .check, .cores, .events, .deliver, .frm, .pair, .age, .host, .ports, .timers, .clk] s (State.frameBoundary s) := by
  unfold State.frameBoundary
  split
  with_reducible exact Touches.refl
  dsimp only
  with_reducible refine Touches.step ?_ (State.stream_touches ..) (by decide)
  split
  with_reducible refine Touches.step ?_ (State.tick_touches ..) (by decide)
  with_reducible refine Touches.step ?_ (State.readyTenants_touches ..) (by decide)
  with_reducible refine Touches.step ?_ (State.planBoundary_touches ..) (by decide)
  with_reducible refine Touches.step ?_ (State.lvStep_touches ..) (by decide)
  with_reducible refine Touches.step ?_ (State.laterFrame_touches ..) (by decide)
  with_reducible refine Touches.upd ?_
  with_reducible refine Touches.step ?_ (State.reach_touches ..) (by decide)
  with_reducible exact Touches.refl
  with_reducible refine Touches.step ?_ (State.readyTenants_touches ..) (by decide)
  with_reducible refine Touches.step ?_ (State.planBoundary_touches ..) (by decide)
  with_reducible refine Touches.step ?_ (State.lvStep_touches ..) (by decide)
  with_reducible refine Touches.step ?_ (State.firstFrame_touches ..) (by decide)
  with_reducible refine Touches.upd ?_
  with_reducible refine Touches.step ?_ (State.reach_touches ..) (by decide)
  with_reducible exact Touches.refl


/-! ### HostAccess -/

theorem State.negotiate_touches (s : State) :
    Touches [.free, .regs] s (State.negotiate s) := by
  unfold State.negotiate
  split
  with_reducible exact Touches.refl
  dsimp only
  with_reducible refine Touches.upd ?_
  with_reducible refine Touches.step ?_ (State.setFld_touches ..) (by decide)
  with_reducible refine Touches.step ?_ (State.setFld_touches ..) (by decide)
  with_reducible exact Touches.refl

theorem State.assign_touches (s : State) (b : Bar) :
    Touches [.free, .regs, .host] s (State.assign s b) := by
  unfold State.assign
  split
  with_reducible exact Touches.refl
  with_reducible refine Touches.step ?_ (State.negotiate_touches ..) (by decide)
  with_reducible refine Touches.upd ?_
  with_reducible exact Touches.refl

/-- A host access through an open BAR has its effect; the BAR may be assigned first. -/
theorem State.viaBar_touches {l : List Part} (s : State) (b : Bar) (f : State → State) (hf : ∀ u, Touches l u (f u))
    (hl : [Part.free, .regs, .host].all (l.contains ·) = true) : Touches l s (State.viaBar s b f) := by
  unfold State.viaBar
  split
  · exact ((State.assign_touches s b).mono hl).step (hf _) (List.all_eq_true.2 fun p hp => List.contains_iff_mem.2 hp)
  · exact Touches.refl

theorem State.readEffect_touches (s : State) (r : Nat) :
    Touches [.clk] s (State.readEffect s r) := by
  unfold State.readEffect
  split
  with_reducible refine Touches.step ?_ (State.onClk_touches ..) (by decide)
  with_reducible exact Touches.refl
  split
  with_reducible refine Touches.step ?_ (State.onClk_touches ..) (by decide)
  with_reducible exact Touches.refl
  with_reducible exact Touches.refl

theorem State.hostWord_touches (s : State) (b : Bar) (i : Nat) :
    Touches [.out, .regs, .check, .events, .deliver, .pair, .host, .clk] s (State.hostWord s b i).1 := by
  unfold State.hostWord
  split
  split
  dsimp only
  with_reducible exact Touches.refl
  split
  dsimp only
  with_reducible refine Touches.step ?_ (State.error_touches ..) (by decide)
  with_reducible exact Touches.refl
  dsimp only
  with_reducible refine Touches.step ?_ (State.readEffect_touches ..) (by decide)
  with_reducible exact Touches.refl
  split
  dsimp only
  with_reducible refine Touches.step ?_ (Touches.of_fst (by assumption) (State.meet_touches ..)) (by decide)
  with_reducible exact Touches.refl
  split
  dsimp only
  with_reducible exact Touches.refl
  dsimp only
  with_reducible exact Touches.refl
  dsimp only
  with_reducible exact Touches.refl
  dsimp only
  with_reducible exact Touches.refl

theorem State.complete_touches (s : State) (v : Nat) (poisoned : Bool) :
    Touches [.out] s (State.complete s v poisoned) := by
  unfold State.complete
  with_reducible refine Touches.step ?_ (State.emit_touches ..) (by decide)
  with_reducible exact Touches.refl

theorem State.readWord_touches (s : State) (b : Bar) (i half : Nat) (whole : Bool) :
    Touches [.out, .regs, .check, .events, .deliver, .pair, .host, .clk] s (State.readWord s b i half whole) := by
  unfold State.readWord
  split
  split
  with_reducible refine Touches.step ?_ (State.complete_touches ..) (by decide)
  with_reducible refine Touches.step ?_ (Touches.of_fst (by assumption) (State.hostWord_touches ..)) (by decide)
  with_reducible exact Touches.refl
  with_reducible refine Touches.step ?_ (State.complete_touches ..) (by decide)
  with_reducible refine Touches.step ?_ (Touches.of_fst (by assumption) (State.hostWord_touches ..)) (by decide)
  with_reducible exact Touches.refl
  split
  split
  with_reducible refine Touches.step ?_ (State.complete_touches ..) (by decide)
  with_reducible refine Touches.step ?_ (Touches.of_fst (by assumption) (State.hostWord_touches ..)) (by decide)
  with_reducible exact Touches.refl
  dsimp only
  with_reducible refine Touches.step ?_ (State.complete_touches ..) (by decide)
  with_reducible refine Touches.upd ?_
  with_reducible refine Touches.step ?_ (Touches.of_fst (by assumption) (State.hostWord_touches ..)) (by decide)
  with_reducible exact Touches.refl
  split
  with_reducible refine Touches.step ?_ (State.complete_touches ..) (by decide)
  with_reducible exact Touches.refl
  split
  with_reducible refine Touches.step ?_ (State.complete_touches ..) (by decide)
  with_reducible refine Touches.step ?_ (Touches.of_fst (by assumption) (State.hostWord_touches ..)) (by decide)
  with_reducible exact Touches.refl
  with_reducible refine Touches.step ?_ (State.complete_touches ..) (by decide)
  with_reducible refine Touches.step ?_ (Touches.of_fst (by assumption) (State.hostWord_touches ..)) (by decide)
  with_reducible exact Touches.refl

theorem State.readAt_touches (s : State) (b : Bar) (i half : Nat) (whole : Bool) :
    Touches [.out, .regs, .check, .events, .deliver, .pair, .host, .clk] s (State.readAt s b i half whole) := by
  unfold State.readAt
  split
  with_reducible refine Touches.step ?_ (State.complete_touches ..) (by decide)
  with_reducible exact Touches.refl
  with_reducible refine Touches.step ?_ (State.readWord_touches ..) (by decide)
  with_reducible exact Touches.refl

theorem State.barRead_touches (s : State) (b : Bar) (off : Nat) (whole : Bool) :
    Touches [.free, .out, .regs, .check, .events, .deliver, .pair, .host, .clk] s (State.barRead s b off whole) := by
  unfold State.barRead
  split
  · exact Touches.refl
  · exact State.viaBar_touches _ _ _ (fun u => (State.readAt_touches ..).mono (by decide)) (by decide)

theorem State.badWrite_touches (s : State) :
    Touches [.regs] s (State.badWrite s) := by
  unfold State.badWrite
  with_reducible refine Touches.step ?_ (State.count_touches ..) (by decide)
  with_reducible exact Touches.refl

/-- A good write has its effect; another is counted and reported at most. -/
theorem State.whenGood_touches {l : List Part} (s : State) (q : Quality) (f : State → State)
    (hf : Touches l s (f s)) (hl : [Part.out, .regs, .host].all (l.contains ·) = true) :
    Touches l s (State.whenGood s q f) := by
  have hb : Touches [.out, .regs, .host] s s.badWrite := (State.badWrite_touches s).mono (by decide)
  unfold State.whenGood
  split
  · exact hf
  · exact hb.mono hl
  · dsimp only
    exact (Touches.step (l := [.out, .regs, .host]) (Touches.upd hb) (State.emit_touches ..) (by decide)).mono hl

theorem State.unmaskVector_touches (s : State) (v : Nat) :
    Touches [.out, .host] s (State.unmaskVector s v) := by
  unfold State.unmaskVector
  split
  with_reducible refine Touches.step ?_ (State.sendMsi_touches ..) (by decide)
  with_reducible refine Touches.upd ?_
  with_reducible exact Touches.refl
  with_reducible exact Touches.refl

theorem State.writeMsix_touches (s : State) (d : Nat) (v : BitVec 32) :
    Touches [.out, .host] s (State.writeMsix s d v) := by
  unfold State.writeMsix
  dsimp only
  split
  with_reducible refine Touches.step ?_ (State.unmaskVector_touches ..) (by decide)
  with_reducible refine Touches.upd ?_
  with_reducible exact Touches.refl
  with_reducible refine Touches.upd ?_
  with_reducible exact Touches.refl

theorem State.highWrite_touches (s : State) (b : Bar) (i : Nat) (v : BitVec 32) :
    Touches [.out, .host] s (State.highWrite s b i v) := by
  unfold State.highWrite
  dsimp only
  split
  split
  with_reducible exact Touches.refl
  with_reducible refine Touches.upd ?_
  with_reducible exact Touches.refl
  with_reducible refine Touches.upd ?_
  with_reducible exact Touches.refl
  split
  with_reducible refine Touches.step ?_ (State.writeMsix_touches ..) (by decide)
  with_reducible exact Touches.refl
  with_reducible exact Touches.refl
  with_reducible exact Touches.refl
  with_reducible exact Touches.refl
  with_reducible refine Touches.upd ?_
  with_reducible exact Touches.refl

theorem State.writeValue_touches (s : State) (b : Bar) (i : Nat) (v : HostVal) :
    Touches [.host] s (State.writeValue s b i v).1 := by
  unfold State.writeValue
  split
  dsimp only
  with_reducible exact Touches.refl
  dsimp only
  with_reducible refine Touches.upd ?_
  with_reducible exact Touches.refl

theorem State.holdWrite_touches (s : State) (addr : Nat) (v : Word) :
    Touches [.out, .pair] s (State.holdWrite s addr v) := by
  unfold State.holdWrite
  dsimp only
  with_reducible refine Touches.step ?_ (State.send_touches ..) (by decide)
  with_reducible refine Touches.step ?_ (State.onPair_touches ..) (by decide)
  with_reducible exact Touches.refl

theorem State.ignored_touches (s : State) :
    Touches [.regs] s (State.ignored s) := by
  unfold State.ignored
  with_reducible refine Touches.step ?_ (State.count_touches ..) (by decide)
  with_reducible exact Touches.refl

theorem State.commonsWrite_touches (s : State) (a : Nat) (v : Word) :
    Touches [.out, .regs, .mem, .check, .pair] s (State.commonsWrite s a v) := by
  unfold State.commonsWrite
  split
  with_reducible refine Touches.step ?_ (State.badWrite_touches ..) (by decide)
  with_reducible exact Touches.refl
  split
  split
  with_reducible refine Touches.step ?_ (State.ignored_touches ..) (by decide)
  with_reducible exact Touches.refl
  split
  with_reducible refine Touches.step ?_ (State.holdWrite_touches ..) (by decide)
  with_reducible exact Touches.refl
  with_reducible refine Touches.step ?_ (State.hostPoke_touches ..) (by decide)
  with_reducible exact Touches.refl
  with_reducible refine Touches.step ?_ (State.hostPoke_touches ..) (by decide)
  with_reducible exact Touches.refl

theorem State.ringDoorbell_touches (s : State) (n : Nat) :
    Touches [.out, .regs, .events, .deliver, .pair, .host] s (State.ringDoorbell s n) := by
  unfold State.ringDoorbell
  split
  with_reducible refine Touches.step ?_ (State.ignored_touches ..) (by decide)
  with_reducible exact Touches.refl
  with_reducible refine Touches.step ?_ (State.occur_touches ..) (by decide)
  with_reducible exact Touches.refl

theorem State.resetHost_touches (s : State) (k : HostReset) :
    Touches [.regs, .host] s (State.resetHost s k) := by
  unfold State.resetHost
  dsimp only
  with_reducible refine Touches.upd ?_
  split
  with_reducible refine Touches.step ?_ (State.setReg_touches ..) (by decide)
  with_reducible refine Touches.step ?_ (State.setReg_touches ..) (by decide)
  with_reducible refine Touches.step ?_ (State.setReg_touches ..) (by decide)
  with_reducible refine Touches.step ?_ (State.setReg_touches ..) (by decide)
  with_reducible refine Touches.step ?_ (State.setReg_touches ..) (by decide)
  with_reducible exact Touches.refl
  with_reducible refine Touches.step ?_ (State.setReg_touches ..) (by decide)
  with_reducible refine Touches.step ?_ (State.setReg_touches ..) (by decide)
  with_reducible refine Touches.step ?_ (State.setReg_touches ..) (by decide)
  with_reducible refine Touches.step ?_ (State.setReg_touches ..) (by decide)
  with_reducible exact Touches.refl


/-! ### Clocks -/

theorem State.ptpCmd_touches (s : State) (load step : Bool) :
    Touches [.clk] s (State.ptpCmd s load step) := by
  unfold State.ptpCmd
  dsimp only
  with_reducible refine Touches.step ?_ (State.onClk_touches ..) (by decide)
  with_reducible exact Touches.refl

theorem State.ppsFall_touches (s : State) :
    Touches [.out, .clk] s (State.ppsFall s) := by
  unfold State.ppsFall
  split
  with_reducible exact Touches.refl
  with_reducible refine Touches.step ?_ (State.pulseEnd_touches ..) (by decide)
  with_reducible refine Touches.step ?_ (State.reach_touches ..) (by decide)
  with_reducible exact Touches.refl

theorem State.capture_touches (s : State) :
    Touches [.regs] s (State.capture s) := by
  unfold State.capture
  split
  with_reducible exact Touches.refl
  dsimp only
  split
  with_reducible refine Touches.step ?_ (State.setFlag_touches ..) (by decide)
  with_reducible refine Touches.step ?_ (State.setFlag_touches ..) (by decide)
  with_reducible refine Touches.step ?_ (State.setReg_touches ..) (by decide)
  with_reducible refine Touches.step ?_ (State.setReg_touches ..) (by decide)
  with_reducible refine Touches.step ?_ (State.setReg_touches ..) (by decide)
  with_reducible refine Touches.step ?_ (State.setReg_touches ..) (by decide)
  with_reducible exact Touches.refl
  with_reducible refine Touches.step ?_ (State.setFlag_touches ..) (by decide)
  with_reducible refine Touches.step ?_ (State.setReg_touches ..) (by decide)
  with_reducible refine Touches.step ?_ (State.setReg_touches ..) (by decide)
  with_reducible refine Touches.step ?_ (State.setReg_touches ..) (by decide)
  with_reducible refine Touches.step ?_ (State.setReg_touches ..) (by decide)
  with_reducible exact Touches.refl

theorem State.selectOut_touches (s : State) (v : Word) :
    Touches [.regs, .clk] s (State.selectOut s v) := by
  unfold State.selectOut
  dsimp only
  split
  with_reducible refine Touches.step ?_ (State.setFlag_touches ..) (by decide)
  with_reducible exact Touches.refl
  split
  with_reducible refine Touches.step ?_ (State.onClk_touches ..) (by decide)
  with_reducible exact Touches.refl
  with_reducible refine Touches.step ?_ (State.onClk_touches ..) (by decide)
  with_reducible refine Touches.step ?_ (State.setReg_touches ..) (by decide)
  with_reducible exact Touches.refl

theorem State.switchDone_touches (s : State) :
    Touches [.regs, .clk] s (State.switchDone s) := by
  unfold State.switchDone
  split
  with_reducible refine Touches.step ?_ (State.onClk_touches ..) (by decide)
  with_reducible exact Touches.refl
  with_reducible refine Touches.step ?_ (State.onClk_touches ..) (by decide)
  with_reducible refine Touches.step ?_ (State.setReg_touches ..) (by decide)
  with_reducible exact Touches.refl


/-! ### Swap -/

theorem State.armSwap_touches (s : State) :
    Touches [.out, .regs, .pair, .host] s (State.armSwap s) := by
  unfold State.armSwap
  dsimp only
  split
  with_reducible refine Touches.step ?_ (State.ignored_touches ..) (by decide)
  with_reducible exact Touches.refl
  split
  with_reducible refine Touches.step ?_ (State.refuseSwap_touches ..) (by decide)
  with_reducible exact Touches.refl
  split
  with_reducible refine Touches.step ?_ (State.refuseSwap_touches ..) (by decide)
  with_reducible exact Touches.refl
  split
  with_reducible refine Touches.step ?_ (State.send_touches ..) (by decide)
  with_reducible refine Touches.step ?_ (State.onPair_touches ..) (by decide)
  with_reducible refine Touches.step ?_ (State.setFlag_touches ..) (by decide)
  with_reducible exact Touches.refl
  with_reducible refine Touches.step ?_ (State.setFlag_touches ..) (by decide)
  with_reducible exact Touches.refl

theorem State.cancelSwap_touches (s : State) :
    Touches [.out, .regs, .host] s (State.cancelSwap s) := by
  unfold State.cancelSwap
  split
  with_reducible refine Touches.step ?_ (State.cause_touches ..) (by decide)
  with_reducible refine Touches.step ?_ (State.setFlag_touches ..) (by decide)
  with_reducible refine Touches.step ?_ (State.setFlag_touches ..) (by decide)
  with_reducible refine Touches.step ?_ (State.setFlag_touches ..) (by decide)
  with_reducible exact Touches.refl
  with_reducible refine Touches.step ?_ (State.refuseSwap_touches ..) (by decide)
  with_reducible exact Touches.refl

theorem State.startCopy_touches (s : State) :
    Touches [.out, .regs, .host] s (State.startCopy s) := by
  unfold State.startCopy
  split
  with_reducible refine Touches.step ?_ (State.refuseSwap_touches ..) (by decide)
  with_reducible exact Touches.refl
  with_reducible refine Touches.step ?_ (State.setFlag_touches ..) (by decide)
  with_reducible exact Touches.refl

theorem State.checkDone_touches (s : State) :
    Touches [.out, .regs, .host] s (State.checkDone s) := by
  unfold State.checkDone
  split
  with_reducible exact Touches.refl
  dsimp only
  split
  with_reducible refine Touches.step ?_ (State.setFlag_touches ..) (by decide)
  with_reducible refine Touches.step ?_ (State.setFlag_touches ..) (by decide)
  with_reducible exact Touches.refl
  with_reducible refine Touches.step ?_ (State.refuseSwap_touches ..) (by decide)
  with_reducible refine Touches.step ?_ (State.setFlag_touches ..) (by decide)
  with_reducible exact Touches.refl

theorem State.copyDone_touches (s : State) :
    Touches [.regs, .recto, .verso] s (State.copyDone s) := by
  unfold State.copyDone
  split
  · exact ((State.setShadow_touches s s.active State.wf_active).mono (by decide)).step (State.setFlag_touches ..) (by decide)
  · exact Touches.refl

theorem State.hostDrop_touches (s : State) :
    Touches [.out, .regs, .events, .deliver, .pair, .host, .ports] s (State.hostDrop s) := by
  unfold State.hostDrop
  split
  with_reducible exact Touches.refl
  dsimp only
  with_reducible refine Touches.step ?_ (State.drop_touches ..) (by decide)
  split
  with_reducible refine Touches.step ?_ (State.send_touches ..) (by decide)
  with_reducible refine Touches.step ?_ (State.onPair_touches ..) (by decide)
  with_reducible exact Touches.refl
  with_reducible refine Touches.step ?_ (State.onPair_touches ..) (by decide)
  with_reducible exact Touches.refl

theorem State.askHandover_touches (s : State) :
    Touches [.out, .regs, .events, .deliver, .pair, .host] s (State.askHandover s) := by
  unfold State.askHandover
  dsimp only
  split
  with_reducible exact Touches.refl
  split
  with_reducible refine Touches.step ?_ (State.occur_touches ..) (by decide)
  with_reducible refine Touches.step ?_ (State.setWhy_touches ..) (by decide)
  with_reducible exact Touches.refl
  with_reducible refine Touches.step ?_ (State.send_touches ..) (by decide)
  with_reducible refine Touches.step ?_ (State.onPair_touches ..) (by decide)
  with_reducible exact Touches.refl

theorem State.hostJoin_touches (s : State) :
    Touches [.out, .regs, .pair] s (State.hostJoin s) := by
  unfold State.hostJoin
  split
  with_reducible refine Touches.step ?_ (State.rejoin_touches ..) (by decide)
  with_reducible refine Touches.step ?_ (State.onPair_touches ..) (by decide)
  with_reducible exact Touches.refl
  with_reducible exact Touches.refl

theorem State.buildSnap_touches (s : State) :
    Touches [.regs, .snap] s (State.buildSnap s) := by
  unfold State.buildSnap
  split
  with_reducible exact Touches.refl
  dsimp only
  with_reducible refine Touches.upd ?_
  with_reducible refine Touches.step ?_ (State.count_touches ..) (by decide)
  with_reducible exact Touches.refl

theorem State.blockRead_touches (s : State) (addr code : Nat) (pec : Pec) :
    Touches [.out, .regs] s (State.blockRead s addr code pec) := by
  unfold State.blockRead
  split
  with_reducible exact Touches.refl
  split
  with_reducible refine Touches.step ?_ (State.emit_touches ..) (by decide)
  with_reducible refine Touches.step ?_ (State.count_touches ..) (by decide)
  with_reducible exact Touches.refl
  split
  with_reducible refine Touches.step ?_ (State.emit_touches ..) (by decide)
  with_reducible exact Touches.refl
  with_reducible refine Touches.step ?_ (State.emit_touches ..) (by decide)
  with_reducible refine Touches.step ?_ (State.count_touches ..) (by decide)
  with_reducible exact Touches.refl


/-! ### Commands -/

theorem State.reject_touches (s : State) :
    Touches [.regs] s (State.reject s) := by
  unfold State.reject
  with_reducible refine Touches.step ?_ (State.count_touches ..) (by decide)
  with_reducible exact Touches.refl

/-- A command that is accepted runs on the slot set up for it; one that is not changes the slot at most. -/
theorem State.accepting_touches {l : List Part} (s : State) (k op : Nat) (tag : Byte) (irq : Bool) (run : State → State)
    (hr : ∀ u, Touches l u (run u)) (hl : [Part.free, .regs, .host].all (l.contains ·) = true) :
    Touches l s (State.accepting s k op tag irq run) := by
  unfold State.accepting
  refine State.viaBar_touches _ _ _ (fun u => ?_) hl
  split
  · exact (Touches.mono (l := [.free, .regs, .host]) (State.reject_touches u) (by decide)).mono hl
  · exact ((Touches.mono (l := [.free, .regs, .host]) (State.setCmd_touches ..) (by decide)).mono hl).step (hr _)
      (List.all_eq_true.2 fun p hp => List.contains_iff_mem.2 hp)

theorem State.failCmd_touches (s : State) (k code : Nat) :
    Touches [.out, .regs, .host] s (State.failCmd s k code) := by
  unfold State.failCmd
  with_reducible refine Touches.step ?_ (State.endCmd_touches ..) (by decide)
  with_reducible exact Touches.refl

theorem State.startCmd_touches (s : State) (k : Nat) :
    Touches [.host] s (State.startCmd s k) := by
  unfold State.startCmd
  with_reducible refine Touches.step ?_ (State.setCmd_touches ..) (by decide)
  with_reducible exact Touches.refl

theorem State.treset_touches (s : State) (k t : Nat) :
    Touches [.out, .regs, .frm, .pair, .host] s (State.treset s k t) := by
  unfold State.treset
  split
  with_reducible refine Touches.step ?_ (State.failCmd_touches ..) (by decide)
  with_reducible refine Touches.step ?_ (State.ignored_touches ..) (by decide)
  with_reducible exact Touches.refl
  split
  with_reducible refine Touches.step ?_ (State.failCmd_touches ..) (by decide)
  with_reducible exact Touches.refl
  dsimp only
  split
  with_reducible refine Touches.step ?_ (State.send_touches ..) (by decide)
  with_reducible refine Touches.step ?_ (State.requestReset_touches ..) (by decide)
  with_reducible refine Touches.step ?_ (State.startCmd_touches ..) (by decide)
  with_reducible exact Touches.refl
  with_reducible refine Touches.step ?_ (State.requestReset_touches ..) (by decide)
  with_reducible refine Touches.step ?_ (State.startCmd_touches ..) (by decide)
  with_reducible exact Touches.refl

theorem State.qflush_touches (s : State) (k h : Nat) :
    Touches [.out, .regs, .frm, .pair, .host] s (State.qflush s k h) := by
  unfold State.qflush
  split
  with_reducible refine Touches.step ?_ (State.failCmd_touches ..) (by decide)
  with_reducible refine Touches.step ?_ (State.ignored_touches ..) (by decide)
  with_reducible exact Touches.refl
  split
  with_reducible refine Touches.step ?_ (State.failCmd_touches ..) (by decide)
  with_reducible exact Touches.refl
  dsimp only
  split
  with_reducible refine Touches.step ?_ (State.send_touches ..) (by decide)
  with_reducible refine Touches.upd ?_
  with_reducible refine Touches.step ?_ (State.startCmd_touches ..) (by decide)
  with_reducible exact Touches.refl
  with_reducible refine Touches.upd ?_
  with_reducible refine Touches.step ?_ (State.startCmd_touches ..) (by decide)
  with_reducible exact Touches.refl

theorem State.flashCmd_touches (s : State) (k : Nat) :
    Touches [.out, .regs, .host] s (State.flashCmd s k) := by
  unfold State.flashCmd
  dsimp only
  split
  with_reducible refine Touches.step ?_ (State.failCmd_touches ..) (by decide)
  with_reducible exact Touches.refl
  split
  with_reducible refine Touches.step ?_ (State.startCmd_touches ..) (by decide)
  with_reducible refine Touches.upd ?_
  with_reducible exact Touches.refl
  with_reducible refine Touches.upd ?_
  with_reducible exact Touches.refl

theorem State.flashWrite_touches (s : State) (a : Nat) (x0 : List Byte) :
    Touches [.flash] s (State.flashWrite s a x0) := by
  induction x0 generalizing s a with
  | nil =>
    unfold State.flashWrite
    with_reducible exact Touches.refl
  | cons a l ih =>
    unfold State.flashWrite
    with_reducible refine Touches.step ?_ (ih ..) (by decide)
    with_reducible refine Touches.upd ?_
    with_reducible exact Touches.refl

theorem State.flashEffect_touches (s : State) (k : Nat) (c : Cmd) (n : Nat) :
    Touches [.flash, .host] s (State.flashEffect s k c n) := by
  unfold State.flashEffect
  dsimp only
  split
  with_reducible refine Touches.step ?_ (State.setDatas_touches ..) (by decide)
  with_reducible exact Touches.refl
  split
  with_reducible refine Touches.step ?_ (State.flashWrite_touches ..) (by decide)
  with_reducible exact Touches.refl
  with_reducible refine Touches.step ?_ (State.flashWrite_touches ..) (by decide)
  with_reducible exact Touches.refl

theorem State.flashBroken_touches (s : State) (c : Cmd) :
    Touches [.free, .flash] s (State.flashBroken s c) := by
  unfold State.flashBroken
  split
  with_reducible exact Touches.refl
  dsimp only
  with_reducible refine Touches.upd ?_
  with_reducible refine Touches.step ?_ (State.flashWrite_touches ..) (by decide)
  with_reducible exact Touches.refl

theorem State.nextFlash_touches (s : State) (k : Nat) :
    Touches [.host] s (State.nextFlash s k) := by
  unfold State.nextFlash
  dsimp only
  split
  split
  with_reducible refine Touches.step ?_ (State.startCmd_touches ..) (by decide)
  with_reducible refine Touches.upd ?_
  with_reducible exact Touches.refl
  with_reducible refine Touches.upd ?_
  with_reducible exact Touches.refl
  with_reducible refine Touches.upd ?_
  with_reducible exact Touches.refl

theorem State.flashEnd_touches (s : State) (k : Nat) (e : CmdEnd) :
    Touches [.free, .out, .regs, .flash, .host] s (State.flashEnd s k e) := by
  unfold State.flashEnd
  dsimp only
  split
  with_reducible refine Touches.step ?_ (State.nextFlash_touches ..) (by decide)
  with_reducible refine Touches.step ?_ (State.endCmd_touches ..) (by decide)
  with_reducible refine Touches.step ?_ (State.flashEffect_touches ..) (by decide)
  with_reducible exact Touches.refl
  with_reducible refine Touches.step ?_ (State.nextFlash_touches ..) (by decide)
  with_reducible refine Touches.step ?_ (State.failCmd_touches ..) (by decide)
  with_reducible refine Touches.step ?_ (State.flashBroken_touches ..) (by decide)
  with_reducible exact Touches.refl
  split
  with_reducible exact Touches.refl
  with_reducible refine Touches.step ?_ (State.nextFlash_touches ..) (by decide)
  with_reducible refine Touches.step ?_ (State.endCmd_touches ..) (by decide)
  with_reducible refine Touches.step ?_ (State.flashEffect_touches ..) (by decide)
  with_reducible exact Touches.refl

theorem State.selfTest_touches (s : State) (k : Nat) :
    Touches [.out, .regs, .cores, .host] s (State.selfTest s k) := by
  unfold State.selfTest
  dsimp only
  split
  with_reducible refine Touches.step ?_ (State.failCmd_touches ..) (by decide)
  with_reducible exact Touches.refl
  with_reducible refine Touches.step ?_ (State.onCore_touches ..) (by decide)
  with_reducible refine Touches.step ?_ (State.startCmd_touches ..) (by decide)
  with_reducible exact Touches.refl

theorem State.withdrawTest_touches (s : State) (k : Nat) :
    Touches [.out, .regs, .cores, .host] s (State.withdrawTest s k) := by
  unfold State.withdrawTest
  dsimp only
  split
  with_reducible refine Touches.step ?_ (State.endCmd_touches ..) (by decide)
  with_reducible refine Touches.step ?_ (State.onCore_touches ..) (by decide)
  with_reducible exact Touches.refl
  with_reducible exact Touches.refl

theorem State.abortCmd_touches (s : State) (k : Nat) :
    Touches [.out, .regs, .cores, .host] s (State.abortCmd s k) := by
  unfold State.abortCmd
  dsimp only
  split
  with_reducible refine Touches.step ?_ (State.nextFlash_touches ..) (by decide)
  with_reducible refine Touches.step ?_ (State.endCmd_touches ..) (by decide)
  with_reducible exact Touches.refl
  split
  with_reducible refine Touches.step ?_ (State.withdrawTest_touches ..) (by decide)
  with_reducible exact Touches.refl
  split
  with_reducible refine Touches.step ?_ (State.setCmd_touches ..) (by decide)
  with_reducible exact Touches.refl
  with_reducible exact Touches.refl
  with_reducible refine Touches.step ?_ (State.reject_touches ..) (by decide)
  with_reducible exact Touches.refl

theorem State.copySnap_touches (s : State) (k : Nat) :
    Touches [.out, .regs, .host] s (State.copySnap s k) := by
  unfold State.copySnap
  with_reducible refine Touches.step ?_ (State.endCmd_touches ..) (by decide)
  with_reducible refine Touches.step ?_ (State.setDatas_touches ..) (by decide)
  with_reducible exact Touches.refl

theorem State.runCmd_touches (s : State) (k : Nat) :
    Touches [.out, .regs, .cores, .frm, .pair, .host] s (State.runCmd s k) := by
  unfold State.runCmd
  dsimp only
  split
  with_reducible refine Touches.step ?_ (State.endCmd_touches ..) (by decide)
  with_reducible exact Touches.refl
  with_reducible refine Touches.step ?_ (State.treset_touches ..) (by decide)
  with_reducible exact Touches.refl
  with_reducible refine Touches.step ?_ (State.qflush_touches ..) (by decide)
  with_reducible exact Touches.refl
  with_reducible refine Touches.step ?_ (State.flashCmd_touches ..) (by decide)
  with_reducible exact Touches.refl
  with_reducible refine Touches.step ?_ (State.flashCmd_touches ..) (by decide)
  with_reducible exact Touches.refl
  with_reducible refine Touches.step ?_ (State.flashCmd_touches ..) (by decide)
  with_reducible exact Touches.refl
  with_reducible refine Touches.step ?_ (State.selfTest_touches ..) (by decide)
  with_reducible exact Touches.refl
  with_reducible refine Touches.step ?_ (State.copySnap_touches ..) (by decide)
  with_reducible exact Touches.refl
  with_reducible refine Touches.step ?_ (State.failCmd_touches ..) (by decide)
  with_reducible exact Touches.refl

theorem State.writeCmd_touches (s : State) (k op : Nat) (tag : Byte) (irq : Bool) :
    Touches [.free, .out, .regs, .cores, .frm, .pair, .host] s (State.writeCmd s k op tag irq) := by
  unfold State.writeCmd
  split
  · exact State.viaBar_touches _ _ _ (fun u => (State.abortCmd_touches ..).mono (by decide)) (by decide)
  · exact State.accepting_touches _ _ _ _ _ _ (fun u => (State.runCmd_touches ..).mono (by decide)) (by decide)


/-! ### HostWrite -/

theorem State.sealCheck_touches (s : State) (r : Nat) (v : Word) :
    Touches [.out, .regs, .events, .deliver, .pair, .host] s (State.sealCheck s r v) := by
  unfold State.sealCheck
  split
  with_reducible refine Touches.step ?_ (State.error_touches ..) (by decide)
  with_reducible refine Touches.step ?_ (State.count_touches ..) (by decide)
  with_reducible exact Touches.refl
  with_reducible exact Touches.refl

theorem State.plainWrite_touches (s : State) (r : Nat) (v : Word) :
    Touches [.regs] s (State.plainWrite s r v) := by
  unfold State.plainWrite
  dsimp only
  with_reducible refine Touches.step ?_ (State.setReg_touches ..) (by decide)
  with_reducible exact Touches.refl

theorem State.lvWrite_touches (s : State) (r : Nat) (v : Word) :
    Touches [.out, .regs, .lv, .pair] s (State.lvWrite s r v) := by
  unfold State.lvWrite
  split
  with_reducible exact Touches.refl
  split
  with_reducible refine Touches.step ?_ (State.ignored_touches ..) (by decide)
  with_reducible exact Touches.refl
  split
  with_reducible refine Touches.step ?_ (State.holdWrite_touches ..) (by decide)
  with_reducible exact Touches.refl
  with_reducible refine Touches.upd ?_
  with_reducible exact Touches.refl

theorem State.shadowWrite_touches (s : State) (x : Nat) (v : Word) :
    Touches [.regs, .recto, .verso, .check] s (State.shadowWrite s x v) := by
  unfold State.shadowWrite
  split
  · exact (State.count_touches ..).mono (by decide)
  · dsimp only
    refine Touches.step ?_ (State.setShadow_touches _ _ fun h => Memory.wf_set _ _ (State.wf_shadow h)) (by decide)
    refine Touches.upd ?_
    exact (State.copyDone_touches s).mono (by decide)

theorem State.enableWrite_touches (s : State) (n : Nat) (v : Word) :
    Touches [.out, .regs, .host] s (State.enableWrite s n v) := by
  unfold State.enableWrite
  dsimp only
  with_reducible refine Touches.foldl _ (fun _ _ _ => ?_) ?_
  split
  with_reducible refine Touches.step ?_ (State.message_touches ..) (by decide)
  assumption
  assumption
  with_reducible refine Touches.step ?_ (State.plainWrite_touches ..) (by decide)
  with_reducible exact Touches.refl

theorem State.causeWrite_touches (s : State) (n : Nat) (v : Word) :
    Touches [.regs, .host] s (State.causeWrite s n v) := by
  unfold State.causeWrite
  dsimp only
  with_reducible refine Touches.upd ?_
  with_reducible refine Touches.step ?_ (State.plainWrite_touches ..) (by decide)
  with_reducible exact Touches.refl

theorem State.swapctlWrite_touches (s : State) (v : Word) :
    Touches [.out, .regs, .pair, .host] s (State.swapctlWrite s v) := by
  unfold State.swapctlWrite
  dsimp only
  split
  with_reducible refine Touches.step ?_ (State.startCopy_touches ..) (by decide)
  split
  with_reducible refine Touches.step ?_ (State.cancelSwap_touches ..) (by decide)
  split
  with_reducible refine Touches.step ?_ (State.armSwap_touches ..) (by decide)
  with_reducible exact Touches.refl
  with_reducible exact Touches.refl
  split
  with_reducible refine Touches.step ?_ (State.armSwap_touches ..) (by decide)
  with_reducible exact Touches.refl
  with_reducible exact Touches.refl
  split
  with_reducible refine Touches.step ?_ (State.cancelSwap_touches ..) (by decide)
  split
  with_reducible refine Touches.step ?_ (State.armSwap_touches ..) (by decide)
  with_reducible exact Touches.refl
  with_reducible exact Touches.refl
  split
  with_reducible refine Touches.step ?_ (State.armSwap_touches ..) (by decide)
  with_reducible exact Touches.refl
  with_reducible exact Touches.refl

theorem State.mirCmdWrite_touches (s : State) (v : Word) :
    Touches [.out, .regs, .events, .deliver, .pair, .host, .ports] s (State.mirCmdWrite s v) := by
  unfold State.mirCmdWrite
  dsimp only
  split
  with_reducible refine Touches.step ?_ (State.hostDrop_touches ..) (by decide)
  split
  with_reducible refine Touches.step ?_ (State.askHandover_touches ..) (by decide)
  split
  with_reducible refine Touches.step ?_ (State.hostJoin_touches ..) (by decide)
  with_reducible exact Touches.refl
  with_reducible exact Touches.refl
  split
  with_reducible refine Touches.step ?_ (State.hostJoin_touches ..) (by decide)
  with_reducible exact Touches.refl
  with_reducible exact Touches.refl
  split
  with_reducible refine Touches.step ?_ (State.askHandover_touches ..) (by decide)
  split
  with_reducible refine Touches.step ?_ (State.hostJoin_touches ..) (by decide)
  with_reducible exact Touches.refl
  with_reducible exact Touches.refl
  split
  with_reducible refine Touches.step ?_ (State.hostJoin_touches ..) (by decide)
  with_reducible exact Touches.refl
  with_reducible exact Touches.refl

theorem State.ptpCmdWrite_touches (s : State) (v : Word) :
    Touches [.clk] s (State.ptpCmdWrite s v) := by
  unfold State.ptpCmdWrite
  split
  with_reducible refine Touches.step ?_ (State.ptpCmd_touches ..) (by decide)
  with_reducible exact Touches.refl
  with_reducible exact Touches.refl

theorem State.writeReg_touches (s : State) (r : Nat) (v : Word) :
    Touches [.out, .regs, .lv, .recto, .verso, .check, .events, .deliver, .pair, .host, .ports, .clk] s (State.writeReg s r v) := by
  unfold State.writeReg
  dsimp only
  refine Touches.ite Touches.refl (Touches.ite Touches.refl ?_)
  refine Touches.ite ((State.swapctlWrite_touches ..).mono (by decide)) ?_
  refine Touches.ite ((State.mirCmdWrite_touches ..).mono (by decide)) ?_
  refine Touches.ite ((State.ptpCmdWrite_touches ..).mono (by decide)) ?_
  refine Touches.ite ((State.selectOut_touches ..).mono (by decide)) ?_
  refine Touches.ite ((State.enableWrite_touches ..).mono (by decide)) ?_
  refine Touches.ite ((State.enableWrite_touches ..).mono (by decide)) ?_
  refine Touches.ite ((State.causeWrite_touches ..).mono (by decide)) ?_
  refine Touches.ite ((State.causeWrite_touches ..).mono (by decide)) ?_
  refine Touches.ite ((State.shadowWrite_touches ..).mono (by decide)) ?_
  have h : Touches [.out, .regs, .lv, .recto, .verso, .check, .events, .deliver, .pair, .host, .ports, .clk] s
      ((s.sealCheck r v).plainWrite r v) :=
    (Touches.mono (State.sealCheck_touches s r v) (by decide)).step (State.plainWrite_touches ..) (by decide)
  exact Touches.ite h (h.step (State.lvWrite_touches ..) (by decide))

theorem State.writeData_touches (s : State) (k n : Nat) (v : Word) :
    Touches [.regs, .host] s (State.writeData s k n v) := by
  unfold State.writeData
  split
  with_reducible refine Touches.step ?_ (State.reject_touches ..) (by decide)
  with_reducible exact Touches.refl
  with_reducible refine Touches.upd ?_
  with_reducible exact Touches.refl

theorem State.writeBar4_touches (s : State) (i : Nat) (v : HostVal) :
    Touches [.free, .out, .regs, .cores, .events, .deliver, .frm, .pair, .host] s (State.writeBar4 s i v) := by
  unfold State.writeBar4
  split
  dsimp only
  with_reducible refine Touches.step ?_ (State.writeCmd_touches ..) (by decide)
  with_reducible refine Touches.step ?_ (State.writeValue_touches ..) (by decide)
  with_reducible exact Touches.refl
  with_reducible refine Touches.step ?_ (State.writeValue_touches ..) (by decide)
  with_reducible exact Touches.refl
  dsimp only
  with_reducible refine Touches.step ?_ (State.writeData_touches ..) (by decide)
  with_reducible refine Touches.step ?_ (State.writeValue_touches ..) (by decide)
  with_reducible exact Touches.refl
  split
  with_reducible refine Touches.step ?_ (State.writeMsix_touches ..) (by decide)
  with_reducible exact Touches.refl
  with_reducible refine Touches.step ?_ (State.writeMsix_touches ..) (by decide)
  with_reducible refine Touches.step ?_ (State.writeMsix_touches ..) (by decide)
  with_reducible exact Touches.refl
  with_reducible exact Touches.refl
  with_reducible refine Touches.step ?_ (State.ringDoorbell_touches ..) (by decide)
  with_reducible exact Touches.refl
  with_reducible exact Touches.refl

theorem State.hostWrite_touches (s : State) (b : Bar) (i : Nat) (v : HostVal) :
    Touches [.free, .out, .regs, .lv, .recto, .verso, .mem, .check, .cores, .events, .deliver, .frm, .pair, .host, .ports, .clk] s (State.hostWrite s b i v) := by
  unfold State.hostWrite
  split
  split
  with_reducible exact Touches.refl
  dsimp only
  with_reducible refine Touches.step ?_ (State.writeReg_touches ..) (by decide)
  with_reducible refine Touches.step ?_ (State.writeValue_touches ..) (by decide)
  with_reducible exact Touches.refl
  dsimp only
  with_reducible refine Touches.step ?_ (State.commonsWrite_touches ..) (by decide)
  with_reducible refine Touches.step ?_ (State.writeValue_touches ..) (by decide)
  with_reducible exact Touches.refl
  with_reducible refine Touches.step ?_ (State.writeBar4_touches ..) (by decide)
  with_reducible exact Touches.refl


/-! ### Loader -/

theorem State.onLdr_touches (s : State) (f : Loader → Loader) :
    Touches [.ldr] s (State.onLdr s f) := by
  unfold State.onLdr
  with_reducible refine Touches.upd ?_
  with_reducible exact Touches.refl

theorem State.toPhase_touches (s : State) (n : Nat) :
    Touches [.regs, .ldr] s (State.toPhase s n) := by
  unfold State.toPhase
  with_reducible refine Touches.step ?_ (State.onLdr_touches ..) (by decide)
  with_reducible refine Touches.step ?_ (State.setFld_touches ..) (by decide)
  with_reducible exact Touches.refl

theorem State.failLoad_touches (s : State) (w : Why) :
    Touches [.ldr] s (State.failLoad s w) := by
  unfold State.failLoad
  with_reducible refine Touches.step ?_ (State.onLdr_touches ..) (by decide)
  with_reducible exact Touches.refl

theorem State.rejectBank_touches (s : State) (b : Bool) (w : Why) :
    Touches [.regs, .ldr] s (State.rejectBank s b w) := by
  unfold State.rejectBank
  with_reducible refine Touches.step ?_ (State.onLdr_touches ..) (by decide)
  with_reducible refine Touches.step ?_ (State.setReg_touches ..) (by decide)
  with_reducible exact Touches.refl

theorem State.giveUp_touches (s : State) :
    Touches [.out, .regs, .ldr, .host] s (State.giveUp s) := by
  unfold State.giveUp
  split
  with_reducible refine Touches.step ?_ (State.cause_touches ..) (by decide)
  with_reducible refine Touches.step ?_ (State.toPhase_touches ..) (by decide)
  with_reducible exact Touches.refl
  with_reducible exact Touches.refl

theorem State.rejectBoth_touches (s : State) (code : Nat) :
    Touches [.out, .regs, .ldr, .host] s (State.rejectBoth s code) := by
  unfold State.rejectBoth
  with_reducible refine Touches.step ?_ (State.giveUp_touches ..) (by decide)
  with_reducible refine Touches.step ?_ (State.rejectBank_touches ..) (by decide)
  with_reducible refine Touches.step ?_ (State.rejectBank_touches ..) (by decide)
  with_reducible exact Touches.refl

theorem State.discover_touches (s : State) (x0 : Option Sfdp) :
    Touches [.out, .regs, .ldr, .host] s (State.discover s x0) := by
  unfold State.discover
  split
  with_reducible refine Touches.step ?_ (State.rejectBoth_touches ..) (by decide)
  with_reducible exact Touches.refl
  split
  with_reducible refine Touches.step ?_ (State.rejectBoth_touches ..) (by decide)
  with_reducible exact Touches.refl
  dsimp only
  with_reducible refine Touches.step ?_ (State.toPhase_touches ..) (by decide)
  with_reducible refine Touches.step ?_ (State.setFlag_touches ..) (by decide)
  with_reducible refine Touches.step ?_ (State.onLdr_touches ..) (by decide)
  with_reducible exact Touches.refl

theorem State.sift_touches (s : State) (b : Bool) :
    Touches [.regs, .ldr] s (State.sift s b) := by
  unfold State.sift
  split
  with_reducible exact Touches.refl
  with_reducible refine Touches.step ?_ (State.rejectBank_touches ..) (by decide)
  with_reducible exact Touches.refl

theorem State.choose_touches (s : State) :
    Touches [.out, .regs, .ldr, .host] s (State.choose s) := by
  unfold State.choose
  dsimp only
  split
  with_reducible refine Touches.step ?_ (State.giveUp_touches ..) (by decide)
  with_reducible refine Touches.step ?_ (State.sift_touches ..) (by decide)
  with_reducible refine Touches.step ?_ (State.sift_touches ..) (by decide)
  with_reducible exact Touches.refl
  with_reducible refine Touches.step ?_ (State.toPhase_touches ..) (by decide)
  with_reducible refine Touches.step ?_ (State.onLdr_touches ..) (by decide)
  with_reducible refine Touches.step ?_ (State.giveUp_touches ..) (by decide)
  with_reducible refine Touches.step ?_ (State.sift_touches ..) (by decide)
  with_reducible refine Touches.step ?_ (State.sift_touches ..) (by decide)
  with_reducible exact Touches.refl

theorem State.loadWords_touches (s : State) (i : Nat) (bs : List Byte) :
    Touches [.mem, .check, .ldr] s (State.loadWords s i bs) := by
  unfold State.loadWords
  dsimp only
  split
  with_reducible refine Touches.step ?_ (State.failLoad_touches ..) (by decide)
  with_reducible exact Touches.refl
  split
  with_reducible refine Touches.step ?_ (State.failLoad_touches ..) (by decide)
  with_reducible exact Touches.refl
  split
  with_reducible refine Touches.step ?_ (State.pokes_touches ..) (by decide)
  with_reducible exact Touches.refl
  with_reducible refine Touches.step ?_ (State.failLoad_touches ..) (by decide)
  with_reducible exact Touches.refl

theorem State.takeSection_touches (s : State) (i : Nat) (x : Sect) (bs : List Byte) :
    Touches [.ldr] s (State.takeSection s i x bs) := by
  unfold State.takeSection
  split
  split
  with_reducible refine Touches.step ?_ (State.failLoad_touches ..) (by decide)
  with_reducible exact Touches.refl
  with_reducible exact Touches.refl
  split
  with_reducible refine Touches.step ?_ (State.onLdr_touches ..) (by decide)
  with_reducible exact Touches.refl
  split
  with_reducible refine Touches.step ?_ (State.onLdr_touches ..) (by decide)
  with_reducible exact Touches.refl
  split
  with_reducible refine Touches.step ?_ (State.onLdr_touches ..) (by decide)
  with_reducible exact Touches.refl
  with_reducible exact Touches.refl

theorem State.readSection_touches (s : State) (start i : Nat) (x : Sect) :
    Touches [.mem, .check, .ldr] s (State.readSection s start i x) := by
  unfold State.readSection
  dsimp only
  split
  split
  with_reducible refine Touches.step ?_ (State.loadWords_touches ..) (by decide)
  with_reducible exact Touches.refl
  split
  with_reducible refine Touches.step ?_ (State.failLoad_touches ..) (by decide)
  with_reducible refine Touches.step ?_ (State.loadWords_touches ..) (by decide)
  with_reducible exact Touches.refl
  with_reducible refine Touches.step ?_ (State.takeSection_touches ..) (by decide)
  with_reducible refine Touches.step ?_ (State.loadWords_touches ..) (by decide)
  with_reducible exact Touches.refl
  split
  with_reducible exact Touches.refl
  split
  with_reducible refine Touches.step ?_ (State.failLoad_touches ..) (by decide)
  with_reducible exact Touches.refl
  with_reducible refine Touches.step ?_ (State.takeSection_touches ..) (by decide)
  with_reducible exact Touches.refl

theorem State.readSections_touches (s : State) (start : Nat) (x0 : List (Nat × Sect)) :
    Touches [.mem, .check, .ldr] s (State.readSections s start x0) := by
  induction x0 generalizing s start with
  | nil =>
    unfold State.readSections
    with_reducible exact Touches.refl
  | cons a l ih =>
    unfold State.readSections
    split
    with_reducible exact Touches.refl
    with_reducible refine Touches.step ?_ (ih ..) (by decide)
    with_reducible refine Touches.step ?_ (State.readSection_touches ..) (by decide)
    with_reducible exact Touches.refl

theorem State.readImage_touches (s : State) :
    Touches [.regs, .mem, .check, .ldr] s (State.readImage s) := by
  unfold State.readImage
  dsimp only
  split
  with_reducible refine Touches.step ?_ (State.failLoad_touches ..) (by decide)
  with_reducible exact Touches.refl
  split
  with_reducible refine Touches.step ?_ (State.readSections_touches ..) (by decide)
  with_reducible refine Touches.step ?_ (State.onLdr_touches ..) (by decide)
  with_reducible exact Touches.refl
  with_reducible refine Touches.step ?_ (State.toPhase_touches ..) (by decide)
  with_reducible refine Touches.step ?_ (State.readSections_touches ..) (by decide)
  with_reducible refine Touches.step ?_ (State.onLdr_touches ..) (by decide)
  with_reducible exact Touches.refl

theorem State.verifyImage_touches (s : State) :
    Touches [.regs, .ldr] s (State.verifyImage s) := by
  unfold State.verifyImage
  split
  with_reducible refine Touches.step ?_ (State.failLoad_touches ..) (by decide)
  with_reducible exact Touches.refl
  with_reducible refine Touches.step ?_ (State.toPhase_touches ..) (by decide)
  with_reducible refine Touches.step ?_ (State.setFlag_touches ..) (by decide)
  with_reducible exact Touches.refl

theorem State.relocWrite_touches (s : State) (e : Reloc) (v : Word) :
    Touches [.mem, .check, .ldr] s (State.relocWrite s e v) := by
  unfold State.relocWrite
  split
  split
  with_reducible refine Touches.step ?_ (State.poke_touches ..) (by decide)
  with_reducible exact Touches.refl
  with_reducible exact Touches.refl
  with_reducible refine Touches.step ?_ (State.onLdr_touches ..) (by decide)
  with_reducible exact Touches.refl

theorem State.relocateAll_touches (s : State) (j : Nat) (x0 : List (Nat × Reloc)) :
    Touches [.regs, .mem, .check, .ldr] s (State.relocateAll s j x0) := by
  induction x0 generalizing s j with
  | nil =>
    unfold State.relocateAll
    with_reducible refine Touches.step ?_ (State.toPhase_touches ..) (by decide)
    with_reducible exact Touches.refl
  | cons a l ih =>
    unfold State.relocateAll
    split
    with_reducible refine Touches.step ?_ (State.failLoad_touches ..) (by decide)
    with_reducible exact Touches.refl
    with_reducible refine Touches.step ?_ (ih ..) (by decide)
    with_reducible refine Touches.step ?_ (State.relocWrite_touches ..) (by decide)
    with_reducible exact Touches.refl

theorem State.putRecord_touches (s : State) (x : Rec) :
    Touches [.regs, .recto, .clk] s (State.putRecord s x) := by
  unfold State.putRecord
  split
  · refine Touches.upd (h_recto := .inr ⟨rfl, fun h => Memory.wf_set _ _ ?_⟩) Touches.refl
    simp only [State.wf, Bool.and_eq_true] at h
    exact h.1.2
  · split
    · exact (State.selectOut_touches ..).mono (by decide)
    · exact (State.setReg_touches ..).mono (by decide)

theorem State.putRecords_touches (s : State) (x0 : List Rec) :
    Touches [.regs, .recto, .ldr, .clk] s (State.putRecords s x0) := by
  induction x0 generalizing s with
  | nil =>
    unfold State.putRecords
    with_reducible exact Touches.refl
  | cons a l ih =>
    unfold State.putRecords
    split
    with_reducible refine Touches.step ?_ (ih ..) (by decide)
    with_reducible refine Touches.step ?_ (State.putRecord_touches ..) (by decide)
    with_reducible exact Touches.refl
    with_reducible refine Touches.step ?_ (State.failLoad_touches ..) (by decide)
    with_reducible exact Touches.refl

theorem State.putPatch_touches (s : State) :
    Touches [.regs, .patch, .ldr] s (State.putPatch s) := by
  unfold State.putPatch
  split
  with_reducible exact Touches.refl
  split
  with_reducible refine Touches.step ?_ (State.failLoad_touches ..) (by decide)
  with_reducible exact Touches.refl
  split
  with_reducible refine Touches.step ?_ (State.failLoad_touches ..) (by decide)
  with_reducible exact Touches.refl
  dsimp only
  with_reducible refine Touches.upd ?_
  with_reducible refine Touches.step ?_ (State.setFld_touches ..) (by decide)
  with_reducible refine Touches.step ?_ (State.setFld_touches ..) (by decide)
  with_reducible exact Touches.refl

theorem State.startTenants_touches (s : State) :
    Touches [.regs] s (State.startTenants s) := by
  unfold State.startTenants
  with_reducible refine Touches.foldl _ (fun _ _ _ => ?_) ?_
  dsimp only
  split
  split
  with_reducible refine Touches.step ?_ (State.setFld_touches ..) (by decide)
  with_reducible refine Touches.step ?_ (State.setFld_touches ..) (by decide)
  assumption
  with_reducible refine Touches.step ?_ (State.setFld_touches ..) (by decide)
  assumption
  split
  with_reducible refine Touches.step ?_ (State.setFld_touches ..) (by decide)
  assumption
  assumption
  with_reducible exact Touches.refl

theorem State.endSetUp_touches (s : State) :
    Touches [.regs, .verso, .ldr, .age] s (State.endSetUp s) := by
  unfold State.endSetUp
  dsimp only
  refine Touches.step ?_ (State.onAge_touches ..) (by decide)
  refine Touches.step ?_ (State.onLdr_touches ..) (by decide)
  refine Touches.step ?_ (State.startTenants_touches ..) (by decide)
  refine Touches.upd (h_verso := .inr ⟨rfl, fun h => ?_⟩) Touches.refl
  simp only [State.wf, Bool.and_eq_true] at h
  exact h.1.2

theorem State.doSetUp_touches (s : State) :
    Touches [.regs, .recto, .verso, .patch, .ldr, .age, .clk] s (State.doSetUp s) := by
  unfold State.doSetUp
  dsimp only
  split
  with_reducible refine Touches.step ?_ (State.putRecords_touches ..) (by decide)
  with_reducible exact Touches.refl
  split
  with_reducible refine Touches.step ?_ (State.failLoad_touches ..) (by decide)
  with_reducible refine Touches.step ?_ (State.putRecords_touches ..) (by decide)
  with_reducible exact Touches.refl
  split
  with_reducible refine Touches.step ?_ (State.putPatch_touches ..) (by decide)
  with_reducible refine Touches.step ?_ (State.putRecords_touches ..) (by decide)
  with_reducible exact Touches.refl
  with_reducible refine Touches.step ?_ (State.endSetUp_touches ..) (by decide)
  with_reducible refine Touches.step ?_ (State.putPatch_touches ..) (by decide)
  with_reducible refine Touches.step ?_ (State.putRecords_touches ..) (by decide)
  with_reducible exact Touches.refl

theorem State.recordDigest_touches (s : State) :
    Touches [.regs] s (State.recordDigest s) := by
  unfold State.recordDigest
  with_reducible refine Touches.foldl _ (fun _ _ _ => ?_) ?_
  with_reducible refine Touches.step ?_ (State.setReg_touches ..) (by decide)
  assumption
  with_reducible exact Touches.refl

theorem State.sealRegs_touches (s : State) :
    Touches [.out, .regs, .ldr, .host] s (State.sealRegs s) := by
  unfold State.sealRegs
  dsimp only
  with_reducible refine Touches.step ?_ (State.cause_touches ..) (by decide)
  with_reducible refine Touches.step ?_ (State.recordDigest_touches ..) (by decide)
  with_reducible refine Touches.step ?_ (State.setReg_touches ..) (by decide)
  with_reducible refine Touches.step ?_ (State.setFlag_touches ..) (by decide)
  with_reducible refine Touches.step ?_ (State.setFlag_touches ..) (by decide)
  with_reducible refine Touches.step ?_ (State.toPhase_touches ..) (by decide)
  with_reducible exact Touches.refl

theorem State.sealPart_touches (s : State) :
    Touches [.out, .regs, .ldr, .pair, .host] s (State.sealPart s) := by
  unfold State.sealPart
  dsimp only
  split
  with_reducible refine Touches.step ?_ (State.sealRegs_touches ..) (by decide)
  with_reducible exact Touches.refl
  with_reducible refine Touches.step ?_ (State.sendIdent_touches ..) (by decide)
  with_reducible refine Touches.step ?_ (State.onPair_touches ..) (by decide)
  with_reducible refine Touches.step ?_ (State.sealRegs_touches ..) (by decide)
  with_reducible exact Touches.refl

theorem State.planFailed_touches (s : State) :
    Touches [.out, .regs, .events, .deliver, .pair, .host] s (State.planFailed s) := by
  unfold State.planFailed
  dsimp only
  with_reducible refine Touches.step ?_ (State.onPair_touches ..) (by decide)
  split
  with_reducible refine Touches.step ?_ (State.setFld_touches ..) (by decide)
  with_reducible refine Touches.step ?_ (State.ageFlag_touches ..) (by decide)
  with_reducible exact Touches.refl
  with_reducible refine Touches.step ?_ (State.ageFlag_touches ..) (by decide)
  with_reducible exact Touches.refl

theorem State.unsetReg_touches (s : State) (r : Nat) (m : Word) :
    Touches [.regs] s (State.unsetReg s r m) := by
  unfold State.unsetReg
  with_reducible refine Touches.step ?_ (State.setReg_touches ..) (by decide)
  with_reducible exact Touches.refl

theorem State.clearOut_touches (s : State) :
    Touches [.regs, .clk] s (State.clearOut s) := by
  unfold State.clearOut
  split
  with_reducible refine Touches.step ?_ (State.onClk_touches ..) (by decide)
  with_reducible refine Touches.step ?_ (State.setFlag_touches ..) (by decide)
  with_reducible exact Touches.refl
  with_reducible exact Touches.refl

theorem State.clearLoad_touches (s : State) :
    Touches [.out, .regs, .recto, .verso, .mem, .check, .patch, .events, .deliver, .pair, .host, .clk] s (State.clearLoad s) := by
  unfold State.clearLoad
  dsimp only
  with_reducible refine Touches.upd ?_
  with_reducible refine Touches.step ?_ (State.setFlag_touches ..) (by decide)
  with_reducible refine Touches.foldl _ (fun _ _ _ => ?_) ?_
  with_reducible refine Touches.step ?_ (State.unsetReg_touches ..) (by decide)
  assumption
  with_reducible refine Touches.foldl _ (fun _ _ _ => ?_) ?_
  with_reducible refine Touches.step ?_ (State.unsetReg_touches ..) (by decide)
  assumption
  with_reducible refine Touches.step ?_ (State.linkToDown_touches ..) (by decide)
  with_reducible refine Touches.step ?_ (State.clearOut_touches ..) (by decide)
  with_reducible exact Touches.refl

theorem State.fallBack_touches (s : State) (w : Why) :
    Touches [.out, .regs, .recto, .verso, .mem, .check, .patch, .events, .deliver, .ldr, .pair, .host, .clk] s (State.fallBack s w) := by
  unfold State.fallBack
  dsimp only
  split
  with_reducible refine Touches.step ?_ (State.giveUp_touches ..) (by decide)
  with_reducible refine Touches.step ?_ (State.onLdr_touches ..) (by decide)
  with_reducible refine Touches.step ?_ (State.clearLoad_touches ..) (by decide)
  with_reducible refine Touches.step ?_ (State.setFlag_touches ..) (by decide)
  with_reducible refine Touches.step ?_ (State.rejectBank_touches ..) (by decide)
  with_reducible exact Touches.refl
  with_reducible refine Touches.step ?_ (State.toPhase_touches ..) (by decide)
  with_reducible refine Touches.step ?_ (State.onLdr_touches ..) (by decide)
  with_reducible refine Touches.step ?_ (State.clearLoad_touches ..) (by decide)
  with_reducible refine Touches.step ?_ (State.setFlag_touches ..) (by decide)
  with_reducible refine Touches.step ?_ (State.rejectBank_touches ..) (by decide)
  with_reducible exact Touches.refl

theorem State.noStrobe_touches (s : State) (a : Nat) :
    Touches [.out, .regs, .ldr, .host] s (State.noStrobe s a) := by
  unfold State.noStrobe
  dsimp only
  split
  split
  with_reducible refine Touches.step ?_ (State.onLdr_touches ..) (by decide)
  with_reducible exact Touches.refl
  split
  with_reducible refine Touches.step ?_ (State.giveUp_touches ..) (by decide)
  with_reducible refine Touches.step ?_ (State.rejectBank_touches ..) (by decide)
  with_reducible refine Touches.step ?_ (State.onLdr_touches ..) (by decide)
  with_reducible exact Touches.refl
  with_reducible refine Touches.step ?_ (State.failLoad_touches ..) (by decide)
  with_reducible refine Touches.step ?_ (State.onLdr_touches ..) (by decide)
  with_reducible exact Touches.refl
  split
  with_reducible refine Touches.step ?_ (State.onLdr_touches ..) (by decide)
  with_reducible exact Touches.refl
  split
  with_reducible refine Touches.step ?_ (State.giveUp_touches ..) (by decide)
  with_reducible refine Touches.step ?_ (State.rejectBank_touches ..) (by decide)
  with_reducible refine Touches.step ?_ (State.onLdr_touches ..) (by decide)
  with_reducible exact Touches.refl
  with_reducible refine Touches.step ?_ (State.failLoad_touches ..) (by decide)
  with_reducible refine Touches.step ?_ (State.onLdr_touches ..) (by decide)
  with_reducible exact Touches.refl


/-! ### Reset -/

theorem State.resetPart_touches (s : State) :
    Touches [.regs, .lv, .recto, .verso, .cores, .ctxs, .patch, .events, .deliver, .frm, .ldr, .pair, .age, .host, .snap, .ports, .timers, .clk] s (State.resetPart s) := by
  unfold State.resetPart
  dsimp only
  with_reducible refine Touches.upd ?_
  with_reducible exact Touches.refl

theorem State.brownOut_touches (s : State) (r : Rail) :
    Touches [.pins, .regs, .lv, .recto, .verso, .cores, .ctxs, .patch, .events, .deliver, .frm, .ldr, .pair, .age, .host, .snap, .ports, .timers, .clk] s (State.brownOut s r) := by
  unfold State.brownOut
  dsimp only
  with_reducible refine Touches.upd ?_
  split
  with_reducible refine Touches.step ?_ (State.resetPart_touches ..) (by decide)
  with_reducible exact Touches.refl
  with_reducible refine Touches.step ?_ (State.setFlag_touches ..) (by decide)
  with_reducible refine Touches.step ?_ (State.resetPart_touches ..) (by decide)
  with_reducible exact Touches.refl

theorem State.sample_touches (s : State) (pairId : Option Bool) (viofl : Viofl) (vout : BitVec 16) :
    Touches [.free, .out, .pins, .regs, .pair, .age] s (State.sample s pairId viofl vout) := by
  unfold State.sample
  dsimp only
  with_reducible refine Touches.step ?_ (State.onAge_touches ..) (by decide)
  with_reducible refine Touches.step ?_ (State.emit_touches ..) (by decide)
  with_reducible refine Touches.upd ?_
  with_reducible refine Touches.step ?_ (State.setFld_touches ..) (by decide)
  with_reducible refine Touches.step ?_ (State.setFld_touches ..) (by decide)
  with_reducible refine Touches.step ?_ (State.onPair_touches ..) (by decide)
  split
  with_reducible refine Touches.step ?_ (State.spend_touches ..) (by decide)
  with_reducible exact Touches.refl
  with_reducible exact Touches.refl

theorem State.release_touches (s : State) (pairId : Option Bool) (viofl : Viofl) (vout : BitVec 16) :
    Touches [.free, .out, .pins, .regs, .pair, .age] s (State.release s pairId viofl vout) := by
  unfold State.release
  dsimp only
  split
  with_reducible refine Touches.step ?_ (State.sample_touches ..) (by decide)
  with_reducible refine Touches.upd ?_
  with_reducible refine Touches.step ?_ (State.setFlag_touches ..) (by decide)
  with_reducible exact Touches.refl
  with_reducible refine Touches.upd ?_
  with_reducible refine Touches.step ?_ (State.setFlag_touches ..) (by decide)
  with_reducible exact Touches.refl

theorem State.brownEnd_touches (s : State) (pairId : Option Bool) (viofl : Viofl) (vout : BitVec 16) :
    Touches [.free, .out, .pins, .regs, .pair, .age] s (State.brownEnd s pairId viofl vout) := by
  unfold State.brownEnd
  dsimp only
  with_reducible refine Touches.step ?_ (State.sample_touches ..) (by decide)
  with_reducible refine Touches.upd ?_
  split
  with_reducible refine Touches.foldl _ (fun _ _ _ => ?_) ?_
  with_reducible refine Touches.step ?_ (State.setFlag_touches ..) (by decide)
  assumption
  with_reducible exact Touches.refl
  with_reducible exact Touches.refl

theorem State.startLoader_touches (s : State) :
    Touches [.out, .regs, .mem, .check, .ldr, .host] s (State.startLoader s) := by
  unfold State.startLoader
  dsimp only
  split
  with_reducible refine Touches.step ?_ (State.rejectBoth_touches ..) (by decide)
  with_reducible refine Touches.upd ?_
  with_reducible exact Touches.refl
  with_reducible refine Touches.step ?_ (State.toPhase_touches ..) (by decide)
  with_reducible refine Touches.upd ?_
  with_reducible exact Touches.refl

theorem State.lock_touches (s : State) :
    Touches [.free, .out, .regs, .mem, .check, .ldr, .age, .host, .clk] s (State.lock s) := by
  unfold State.lock
  dsimp only
  split
  with_reducible refine Touches.step ?_ (State.spend_touches ..) (by decide)
  with_reducible refine Touches.step ?_ (State.onAge_touches ..) (by decide)
  with_reducible refine Touches.step ?_ (State.onClk_touches ..) (by decide)
  with_reducible refine Touches.step ?_ (State.setFlag_touches ..) (by decide)
  with_reducible exact Touches.refl
  with_reducible refine Touches.step ?_ (State.startLoader_touches ..) (by decide)
  with_reducible refine Touches.step ?_ (State.spend_touches ..) (by decide)
  with_reducible refine Touches.step ?_ (State.onAge_touches ..) (by decide)
  with_reducible refine Touches.step ?_ (State.onClk_touches ..) (by decide)
  with_reducible refine Touches.step ?_ (State.setFlag_touches ..) (by decide)
  with_reducible exact Touches.refl

theorem State.loseReady_touches (s : State) (r : RefClk) :
    Touches [.out, .regs, .events, .deliver, .pair, .host] s (State.loseReady s r) := by
  unfold State.loseReady
  dsimp only
  split
  with_reducible refine Touches.step ?_ (State.setFlag_touches ..) (by decide)
  with_reducible refine Touches.step ?_ (State.setFlag_touches ..) (by decide)
  with_reducible exact Touches.refl
  with_reducible refine Touches.step ?_ (State.occur_touches ..) (by decide)
  with_reducible refine Touches.step ?_ (State.setFlag_touches ..) (by decide)
  with_reducible refine Touches.step ?_ (State.setFlag_touches ..) (by decide)
  with_reducible exact Touches.refl

theorem State.lossOf_touches (s : State) (x0 : RefClk) :
    Touches [.out, .regs, .events, .deliver, .pair, .host, .ports] s (State.lossOf s x0) := by
  unfold State.lossOf
  split
  with_reducible refine Touches.step ?_ (State.resetHost_touches ..) (by decide)
  with_reducible refine Touches.step ?_ (faultEdge_touches ..) (by decide)
  with_reducible refine Touches.step ?_ (State.setFlag_touches ..) (by decide)
  with_reducible exact Touches.refl
  with_reducible refine Touches.foldl _ (fun _ _ _ => ?_) ?_
  with_reducible refine Touches.step ?_ (State.portDown_touches ..) (by decide)
  assumption
  with_reducible exact Touches.refl
  split
  with_reducible refine Touches.step ?_ (State.lostLink_touches ..) (by decide)
  with_reducible exact Touches.refl
  with_reducible exact Touches.refl

theorem State.relock_touches (s : State) (r : RefClk) :
    Touches [.regs] s (State.relock s r) := by
  unfold State.relock
  dsimp only
  split
  with_reducible refine Touches.step ?_ (State.setFlag_touches ..) (by decide)
  with_reducible refine Touches.step ?_ (State.setFlag_touches ..) (by decide)
  with_reducible exact Touches.refl
  with_reducible refine Touches.step ?_ (State.setFlag_touches ..) (by decide)
  with_reducible exact Touches.refl

end Sys2Proof.Machine
end

