-- ==== Sys2Proof/Tests/Slice0.lean ====
section
/-!
SUPPORT. Tests of single facts of the spec, and a witness for the hypotheses of every statement.
-/
open Sys2Proof Sys2Proof.Machine
namespace Sys2Proof.Tests
set_option Elab.async false

/-! ### A small state -/

/-- Registers set in a state. -/
def regs (s : State) (l : List (Nat × Word)) : State := l.foldl (fun s x => s.setReg x.1 x.2) s

/-- Tenant 0 of core 0: segment 0 is code and segment 1 data in the core's scratchpad; the slot has a budget. -/
def base : State :=
  regs State.reset [(segDescA 0 0, 0x2401200000), (segDescB 0 0, 64), (segDescA 0 1, 0x5801200040), (segDescB 0 1, 64),
    (frmSlotC 0 0, 1000), (frmTend 0, 0xFFFFFF)]

/-- The core runs the slot of tenant 0 at program address 0, in its step 9. -/
def run (s : State) : State := s.setCore 0 { s.core 0 with phase := .running, slot := 0, tenant := 0, pc := 0, now := 9 }

/-- The running state whose next word is `w`. -/
def at0 (s : State) (w : Word) : State := (run s).poke 0x1200000 w

/-- The word that gives an immediate to a socket. -/
def immWord (dst : Nat) (v : Nat) : Word := encodeWord (.imm 0 (BitVec.ofNat 11 dst) (BitVec.ofNat 23 v))

/-- The word that issues under `op` acts, with `f` of what it does. -/
def readyIs (op : Op) (s : State) (f : Ready → Bool) : Bool :=
  match prepare (issues op) (0 : CoreId).val s with
  | .ready r => f r
  | _ => false

/-- One move acts, with the property and value. -/
def oneIs (p : Move → Bool) (v : Option Word) (r : Ready) : Bool :=
  match r.vs with
  | [(m, x)] => p m && decide (x = v)
  | _ => false

theorem ready_of {op : Op} {s : State} {f : Ready → Bool} (h : readyIs op s f = true) :
    ∃ r, prepare (issues op) (0 : CoreId).val s = .ready r ∧ f r = true := by
  unfold readyIs at h
  split at h
  · exact ⟨_, by assumption, h⟩
  · cases h

theorem one_of {op : Op} {s : State} {p : Move → Bool} {v : Option Word} (h : readyIs op s (oneIs p v) = true) :
    ∃ r m, prepare (issues op) (0 : CoreId).val s = .ready r ∧ r.vs = [(m, v)] ∧ p m = true := by
  obtain ⟨r, hr, h⟩ := ready_of h
  unfold oneIs at h
  split at h
  · next m x e => simp at h; exact ⟨r, m, hr, by rw [e, h.2], h.1⟩
  · cases h

/-- The move names the trigger. -/
def triggersIt (tr : Trigger) (m : Move) : Bool := decide (sockOf m.mv.dst.toNat = .trig tr)

theorem only_of {op : Op} {s : State} {tr : Trigger} {w : Word} (h : readyIs op s (oneIs (triggersIt tr) (some w)) = true) :
    ∃ r m, prepare (issues op) (0 : CoreId).val s = .ready r ∧ r.vs = [(m, some w)] ∧ r.only m tr w := by
  obtain ⟨r, m, hr, e, h⟩ := one_of h
  refine ⟨r, m, hr, e, ⟨by simp [e], by simpa [triggersIt] using h⟩, ?_⟩
  rw [e]
  simp

/-- Every segment of tenant 0 lies in the scratchpad of core 0. -/
def inScratchpad (s : State) : Bool :=
  (range 0 16).all fun g => (s.seg 0 g).cls == 0 ||
    ((s.seg 0 g).cls != 5 && decide (0x1200000 ≤ (s.seg 0 g).base) && decide ((s.seg 0 g).base + (s.seg 0 g).limit ≤ 0x1202000))

theorem inScratchpad_at0 (s : State) (w : Word) : inScratchpad (at0 s w) = inScratchpad s := rfl

theorem populated_of {s : State} (ht : s.tenant 0 = 0) (h : inScratchpad s = true) :
    s.populated 0 (s.tenant 0) := by
  rw [ht]
  refine ⟨by omega, fun g k off hg hc ho => ?_⟩
  have := List.all_eq_true.mp h g (mem_range.mpr (by omega))
  simp [hc] at this
  obtain ⟨⟨h5, hb⟩, hl⟩ := this
  simp only [Seg.phys, h5, if_false]
  unfold target
  have h1 : ¬ (s.seg 0 g).base + off < 0x1000000 := by omega
  have h2 : ¬ (s.seg 0 g).base + off < 0x1200000 := by omega
  have h3 : (s.seg 0 g).base + off < 0x1300000 ∧ ((s.seg 0 g).base + off - 0x1200000) / 0x2000 = 0 := by omega
  rw [if_neg h1, if_neg h2, if_pos h3]
  simp

/-- The next word of core 0 is `x`, fetched in this step. -/
def nextIs (s : State) (x : Word) (p : Nat) : Bool :=
  let k := s.core 0
  decide (s.canIssue 0 = true ∧ s.det 0 = true ∧ k.modeChange = none ∧ k.gathers = [] ∧ k.dsu = none ∧ k.miss = none ∧
    s.settled 0 k.now = true ∧ k.front = [] ∧ k.paStep < k.now ∧ target 0 p = some .sp ∧ s.bad p = none ∧ s.peek p = x) &&
    decide ((s.access (s.tenant 0) (bits k.pc 23 20) .fetch .fetch (bits k.pc 19 0)).toOption = some p)

theorem atWord_of {s : State} {x : Word} {p : Nat} (h : nextIs s x p = true) : s.atWord (0 : CoreId) x p := by
  simp only [nextIs, Bool.and_eq_true, decide_eq_true_eq] at h
  obtain ⟨⟨h1, h2, h3, h4, h5, h6, h7, h8, h9, h10, h11, h12⟩, ha⟩ := h
  refine ⟨⟨h1, h2, h3, h4, h5, h6, h7⟩, .inr ⟨h8, h9, ?_, .inl h10, h11, h12⟩⟩
  revert ha
  cases e : s.access (s.tenant 0) (bits (s.core 0).pc 23 20) .fetch .fetch (bits (s.core 0).pc 19 0) with
  | error d => intro ha; cases ha
  | ok a => intro ha; cases ha; exact e

/-- The outcome is a next state. -/
def answers : Result → Bool
  | .next _ => true
  | _ => false

/-- A packet's acknowledgement. -/
def ack0 : Ack := ⟨true, false, 0, 1⟩

/-! ### Well-formed commands -/

/-- An ill-formed term for each check of WellFormed, beside one at the limit that passes. -/
theorem test_wellformed :
    (Instr.frameReceived 0 (List.replicate 9601 0) true).wf = false ∧ (Instr.frameReceived 0 (List.replicate 9600 0) true).wf = true ∧
    (Instr.actset [(0x1200, 0)] ack0).wf = false ∧ (Instr.actset [(0x11FF, 0), (0x20, 0)] ack0).wf = true ∧
    (Instr.input 0 [] ack0).wf = false ∧ (Instr.mirror 0 (List.replicate 257 0) ack0).wf = false ∧
    (Instr.shared (2 ^ 32) [0] ack0).wf = false ∧ (Instr.input (2 ^ 32 - 1) [0] ack0).wf = true ∧
    (Instr.event [] ack0).wf = false ∧ (Instr.hostw (List.replicate 129 (0, 0)) ack0).wf = false ∧
    (Instr.sentinelRound []).wf = false ∧ (Instr.sentinelRound (List.replicate 136 (1, 1))).wf = true ∧
    (Instr.memoryScrub (.word 0x1300000) .good).wf = false ∧ (Instr.memoryScrub (.reg 0x200000) .good).wf = false ∧
    (Instr.memoryScrub (.word 0x12FFFFF) .good).wf = true ∧
    (Instr.flashReadRetry 0x8000000).wf = false ∧
    (Instr.barRead .bar0 0x1000000 true).wf = false ∧ (Instr.barRead .bar0 4 true).wf = false ∧ (Instr.barRead .bar0 4 false).wf = true ∧
    (Instr.barRead .bar4 2 false).wf = false ∧ (Instr.barHighWrite .bar0 8 0 .good).wf = false ∧
    (Instr.barHighWrite .bar4 0x1FFFC 0 .good).wf = true ∧ (Instr.bar2Write 4 (.low 0) .good).wf = false ∧
    (Instr.registerWrite .bar4 0x20000 (.low 0) .good).wf = false ∧ (Instr.registerWrite .bar4 0x1FFF8 (.low 0) .good).wf = true := by
  decide +kernel

/-! ### The queue -/

theorem witness_StepRunsFrontCommand : ({ State.reset with pending := [.tapReset] } : State).pending = .tapReset :: [] := rfl

theorem witness_EmptyQueueCounts :
    (∀ r ∈ [false, true], ∀ n ∈ [0, 1],
      let s : State := { State.reset with clk := { Clock.reset with running := r, owed := n } }
      s.pending = [] ∧ s.clk.running = r ∧ s.clk.owed = n ∧ (∀ p, p < 4 → (s.port p).rxWait = []) ∧ s.wf = true) ∧
    ({ State.reset with ports := [(0, { Port.reset with rxWait := [(64, [])] })] } : State).pending = [] := by decide +kernel

theorem witness_StepKeepsCanonicalMemory : State.reset.wf = true ∧ answers (step State.reset) = true := by decide +kernel

/-- R243 and R285: the nine bytes "123456789". -/
theorem test_crc_check_values :
    crc32c ((range 0x31 9).map (BitVec.ofNat 8)) = 0xE3069283 ∧ crc64 ((range 0x31 9).map (BitVec.ofNat 8)) = 0x995DC9BBDF1939FA := by
  decide +kernel

/-! ### Instruction words -/

/-- R60 and R70: IMM from a format 10 word, G10 to G9 with DISP −3, and the all-zero word. -/
theorem test_reference_words :
    decodeWord 0x8010567890 = .imm 0 0x020 0x567890 ∧ decodeWord 0xEC0100C000 = .pred true 3 0x002 0x00C 0 ∧
      decodeWord 0x4011823000 = .long 0 0x023 0x023 0 ∧ decodeWord 0 = .pair 0 0 0 0 0 0 := by decide +kernel

/-- R70: 0xFF_FFFF_FFFF is a privilege violation at user level and a reserved guard at supervisor level. -/
theorem test_all_ones_traps :
    (decodeCheck ⟨0, false, false⟩ (decodeWord 0xFFFFFFFFFF)).map (·.code) = some 3 ∧
      (decodeCheck ⟨1, false, false⟩ (decodeWord 0xFFFFFFFFFF)).map (·.code) = some 4 := by decide +kernel

/-! ### Witnesses: the issue of a word -/

theorem witness_OneMoveWordActs :
    let s := at0 base (immWord 0x10 5)
    let m : Mv := ⟨.long 0, .imm 5, 0x10, 0⟩
    s.atWord (0 : CoreId) (immWord 0x10 5) 0x1200000 ∧ decodeCheck (s.mode 0 0) (decodeWord (immWord 0x10 5)) = none ∧
      (decodeWord (immWord 0x10 5)).moves = [m] ∧ winOf m.dst.toNat = none ∧ srcWin m.src = none ∧
      sockOf m.dst.toNat ≠ .trig (.ctl .eret) :=
  ⟨atWord_of (by decide +kernel), by decide +kernel⟩

theorem witness_UnexecutedWordsTrap :
    ((at0 base 0).atWord (0 : CoreId) 0 0x1200000 ∧
      decodeCheck ((at0 base 0).mode 0 ((at0 base 0).tenant 0)) (decodeWord 0) = some ⟨8, 0⟩) ∧
    (let s := run (regs base [(segDescA 0 0, 0x2401000000)])
     let k := s.core 0
     s.canIssue 0 = true ∧ s.det 0 = true ∧ k.modeChange = none ∧ k.gathers = [] ∧ k.dsu = none ∧ k.miss = none ∧
       s.settled 0 k.now = true ∧ k.front = [] ∧ k.paStep < k.now ∧
       (s.access 0 0 .fetch .fetch 0).toOption = some 0x1000000 ∧ target 0 0x1000000 = some .cm) :=
  ⟨⟨atWord_of (by decide +kernel), by decide +kernel⟩, by decide +kernel⟩

/-- Both moves of a pair: G1 to G2 beside ZERO to G3. -/
def pairWord : Word := encodeWord (.pair 0 1 2 0 0x23 3)

theorem witness_SourcesAreReadFirst :
    (∃ r, prepare (issues .move) (0 : CoreId).val (at0 (base.setSock 0 1 9) pairWord) = .ready r ∧
      r.vs.map (fun x => (x.1.mv.src, x.2)) = [(.sock 1, some 9), (.sock 0x23, some 0)]) ∧
    ((at0 (base.setSock 0 1 9) pairWord).core 0).readsEarly 1 = false ∧
    ∃ r m, prepare (issues .move) (0 : CoreId).val (at0 base (immWord 0x10 5)) = .ready r ∧ r.vs = [(m, some 5)] ∧
      decide (m.mv.src = .imm 5) = true := by
  refine ⟨?_, by decide +kernel, one_of (p := fun m => decide (m.mv.src = .imm 5)) (by decide +kernel)⟩
  obtain ⟨r, h, e⟩ := ready_of (op := .move) (s := at0 (base.setSock 0 1 9) pairWord)
    (f := fun r => decide (r.vs.map (fun x => (x.1.mv.src, x.2)) = [(.sock 1, some 9), (.sock 0x23, some 0)])) (by decide +kernel)
  exact ⟨r, h, by simpa using e⟩

theorem witness_MoveWordCopies : ∀ n ∈ [(0x1F, 5), (0x22, 0x55), (0x23, 5)],
    ∃ r m, prepare (issues .move) (0 : CoreId).val (at0 base (immWord n.1 n.2)) = .ready r ∧
      r.vs = [(m, some (word n.2))] ∧ decide (m.mv.dst.toNat = n.1) = true := by
  intro n hn
  have : [(0x1F, 5), (0x22, 0x55), (0x23, 5)].all (fun n => readyIs .move (at0 base (immWord n.1 n.2))
      (oneIs (fun m => decide (m.mv.dst.toNat = n.1)) (some (word n.2)))) = true := by decide +kernel
  exact one_of (List.all_eq_true.mp this n hn)

/-- Tenant 0 at supervisor level of the S-world, CORE_MODE without LOCK. -/
def sup : State := regs base [(evtTctx 0, 0x3010000000), (coreMode 0, 9)]

theorem sup_populated (w : Word) : (at0 sup w).populated (0 : CoreId).val ((at0 sup w).tenant (0 : CoreId)) :=
  populated_of rfl ((inScratchpad_at0 _ _).trans (by decide +kernel))

theorem base_populated (w : Word) : (at0 base w).populated (0 : CoreId).val ((at0 base w).tenant (0 : CoreId)) :=
  populated_of rfl ((inScratchpad_at0 _ _).trans (by decide +kernel))

theorem witness_ImmhAndCoreModeWords :
    (∀ x ∈ [(base, 0x21, 5), (sup, 0x340, 8)],
      let w := immWord x.2.1 x.2.2
      let m : Mv := ⟨.long 0, .imm (BitVec.ofNat 23 x.2.2), BitVec.ofNat 11 x.2.1, 0⟩
      let s := at0 x.1 w
      s.atWord (0 : CoreId) w 0x1200000 ∧ decodeCheck (s.mode 0 (s.tenant 0)) (decodeWord w) = none ∧ (decodeWord w).moves = [m] ∧
        guardHolds (s.sock 0 0x22) (fun i => s.sock 0 (0x380 + i)) m.guard = true ∧ srcWin m.src = none) ∧
    (∃ r m, prepare (issues .immh) (0 : CoreId).val (at0 base (immWord 0x21 5)) = .ready r ∧ r.vs = [(m, some 5)] ∧
      decide (m.mv.dst = 0x21) = true) ∧
    (∃ r m, prepare (issues .coreMode) (0 : CoreId).val (at0 sup (immWord 0x340 8)) = .ready r ∧ r.vs = [(m, some 8)] ∧
      decide (m.mv.dst = 0x340) = true) ∧
    ∀ i ∈ [4, 5], ∀ b ∈ [true, false],
      let s := (run base).setCore 0 { (run base).core 0 with modeChange := some (i, b) }
      (s.core (0 : CoreId)).modeChange = some (i, b) ∧ s.det 0 = true := by
  refine ⟨fun x hx => ?_, one_of (p := fun m => decide (m.mv.dst = 0x21)) (by decide +kernel),
    one_of (p := fun m => decide (m.mv.dst = 0x340)) (by decide +kernel), by decide +kernel⟩
  simp only [List.mem_cons, List.not_mem_nil, or_false] at hx
  rcases hx with rfl | rfl <;> exact ⟨atWord_of (by decide +kernel), by decide +kernel⟩

/-- WIN0 of tenant 0 on segment 1 with four words, its pointer at the last. -/
def windowed : State := regs base [(coreWin 0 0, 0x1000002003)]

theorem witness_WindowWordAccesses :
    (∃ r m, prepare (issues .window) (0 : CoreId).val (at0 windowed (immWord 0x28 5)) = .ready r ∧ r.vs = [(m, some 5)] ∧
      decide (winOf m.mv.dst.toNat = some 0 ∧ srcWin m.mv.src = none) = true) ∧
    (∃ r m, prepare (issues .window) (0 : CoreId).val (at0 (windowed.poke 0x1200043 6) (encodeWord (.long 0 0x28 0x10 0))) = .ready r ∧
      r.vs = [(m, some 6)] ∧ decide (srcWin m.mv.src = some 0 ∧ winOf m.mv.dst.toNat = none) = true) ∧
    (at0 windowed 0).check = [] ∧ bits ((at0 windowed 0).reg (coreWin 0 0)) 22 11 = 4 :=
  ⟨one_of (p := fun m => decide (winOf m.mv.dst.toNat = some 0 ∧ srcWin m.mv.src = none)) (by decide +kernel),
    one_of (p := fun m => decide (srcWin m.mv.src = some 0 ∧ winOf m.mv.dst.toNat = none)) (by decide +kernel),
    by decide +kernel, by decide +kernel⟩

/-! ### Results -/

/-- R76: the greatest positive number and one overflow; R90: 0x99_9999_9999 and one carry. -/
theorem test_add_wraps :
    (aluOut .add 0x7FFFFFFFFF 1 false false).map (·.1) = some 0x8000000000 ∧
      (aluOut .dadj 0x9999999999 1 false false).map (·.1) = some 0 ∧ (aluOut .dadj 0xA 1 false false) = none ∧
      (aluOut .dadjl 0x123C 0x1C false false).map (·.1) = some 0x124C ∧ aluOut .dadjl 0x1231 0x1C false false = none := by
  decide +kernel

/-- R84: −2.5 rounds to −3, −2, −2 and −2 in the four modes. -/
theorem test_rounding : [Round.trunc, .halfUp, .conv, .zero].map (fun m => roundDiv m (-5) 2) = [-3, -2, -2, -2] := by
  decide +kernel

/-- R78 and R80: counts at and above the width; −2^39 by −1. -/
theorem test_shift_and_divide_ends :
    (aluOut .shl 1 39 false false).map (·.1) = some 0x8000000000 ∧ (aluOut .shl 1 40 false false).map (·.1) = some 0 ∧
      (aluOut .sar 0x8000000000 63 false false).map (·.1) = some 0xFFFFFFFFFF ∧
      (mulOut .div 0x8000000000 0xFFFFFFFFFF).map (·.1) = some 0x8000000000 ∧ mulOut .rem 7 0 = none := by decide +kernel

/-- R96: index 39 and index 40; a field that ends at bit 39 and one that leaves the word. -/
theorem test_bit_index_ends :
    (bluOut .bset 0 39).map (·.1) = some 0x8000000000 ∧ bluOut .bset 0 40 = none ∧
      (bluOut .bext 0x8000000000 (39 + 64)).map (·.1) = some 1 ∧ bluOut .bext 0 (39 + 128) = none ∧ bluOut .bext 0 0 = none := by
  decide +kernel

theorem witness_MulResults : ∃ o t : Word, t ≠ 0 ∧ o.toInt = -2 ^ 39 ∧ t.toInt = -1 :=
  ⟨0x8000000000, 0xFFFFFFFFFF, by decide +kernel⟩

theorem witness_RoundingModes : ∃ (x : Int) (d : Nat), 0 < d ∧ x < 0 := ⟨-5, 2, by decide⟩

theorem witness_DsuResults : (∃ n : Nat, 1 ≤ n ∧ n ≤ 99 ∧ n = 1) ∧ ∃ n : Nat, 1 ≤ n ∧ n ≤ 99 ∧ n = 99 := ⟨⟨1, by decide⟩, ⟨99, by decide⟩⟩

/-! ### Witnesses: the function units -/

theorem witness_IssueFrame :
    ∃ r, prepare (issues .move) (0 : CoreId).val (at0 base (immWord 0x1F 5)) = .ready r ∧
      (r.vs.all fun x => decide (sockOf x.1.mv.dst.toNat = .rw)) = true := ready_of (by decide +kernel)

/-- The words that trigger each operation of a block whose first is at `b`, with operand `v`, are ready to act in `s`. -/
theorem triggers_of {α : Type} {ops : List α} {op : α → Op} {tr : α → Trigger} {b v : Nat} {s : State}
    (h : ((range 0 ops.length).zip ops).all (fun x => readyIs (op x.2) (at0 s (immWord (b + x.1) v))
      (oneIs (triggersIt (tr x.2)) (some (word v)))) = true) :
    ∀ x ∈ (range 0 ops.length).zip ops, ∃ r m, prepare (issues (op x.2)) (0 : CoreId).val (at0 s (immWord (b + x.1) v)) = .ready r ∧
      r.vs = [(m, some (word v))] ∧ r.only m (tr x.2) (word v) :=
  fun x hx => only_of (List.all_eq_true.mp h x hx)

theorem witness_AluWordLaunches : ∀ x ∈ (range 0 aluOps.length).zip aluOps,
    ∃ r m, prepare (issues (.alu x.2)) (0 : CoreId).val (at0 base (immWord (0x48 + x.1) 5)) = .ready r ∧
      r.vs = [(m, some (word 5))] ∧ r.only m (.alu 0 x.2) (word 5) := triggers_of (by decide +kernel)

/-- Operands 5 and 0: a divide and a zero divisor. -/
theorem witness_MulWordStarts : ∀ v ∈ [5, 0], ∀ x ∈ (range 0 mulOps.length).zip mulOps,
    ∃ r m, prepare (issues (.mul x.2)) (0 : CoreId).val (at0 base (immWord (0x108 + x.1) v)) = .ready r ∧
      r.vs = [(m, some (word v))] ∧ r.only m (.mul x.2) (word v) := by
  intro v hv
  simp only [List.mem_cons, List.not_mem_nil, or_false] at hv
  rcases hv with rfl | rfl <;> exact triggers_of (by decide +kernel)

theorem witness_FxuWordLaunches : ∀ x ∈ [(0x148, FxuKind.fmac, FxuOp.fmac 0 .trunc), (0x167, .fmsu, .fmsu 3 .zero),
      (0x168, .fmpy, .fmpy 0 .trunc), (0x178, .fadd, .fadd 0), (0x17F, .fsub, .fsub 3), (0x180, .fsts, .fsts 0),
      (0x187, .fstw, .fstw 3), (0x197, .fshr, .fshr 3 .zero)],
    ∃ r m, prepare (issues (.fxu x.2.1)) (0 : CoreId).val (at0 base (immWord x.1 5)) = .ready r ∧ r.vs = [(m, some 5)] ∧
      r.only m (.fxu 0 x.2.2) 5 := by
  intro x hx
  have : ([(0x148, FxuKind.fmac, FxuOp.fmac 0 .trunc), (0x167, .fmsu, .fmsu 3 .zero),
      (0x168, .fmpy, .fmpy 0 .trunc), (0x178, .fadd, .fadd 0), (0x17F, .fsub, .fsub 3), (0x180, .fsts, .fsts 0),
      (0x187, .fstw, .fstw 3), (0x197, .fshr, .fshr 3 .zero)] : List (Nat × FxuKind × FxuOp)).all (fun x =>
        readyIs (.fxu x.2.1) (at0 base (immWord x.1 5)) (oneIs (triggersIt (.fxu 0 x.2.2)) (some 5))) = true := by decide +kernel
  exact only_of (List.all_eq_true.mp this x hx)

/-- BA of BLU0 names word 0 of segment 1. -/
def bitBase : State := base.setSock 0 0xC2 0x4000000

/-- Every form with index 5 (its BA on the data segment), and index 40 (its BA on the code segment). -/
theorem witness_BluWordStarts :
    (∀ x ∈ (range 0 bluOps.length).zip bluOps,
      ∃ r m, prepare (issues (.blu x.2)) (0 : CoreId).val (at0 bitBase (immWord (0xC8 + x.1) 5)) = .ready r ∧
        r.vs = [(m, some (word 5))] ∧ r.only m (.blu 0 x.2) (word 5)) ∧
    (∀ x ∈ (range 0 bluOps.length).zip bluOps,
      ∃ r m, prepare (issues (.blu x.2)) (0 : CoreId).val (at0 base (immWord (0xC8 + x.1) 40)) = .ready r ∧
        r.vs = [(m, some (word 40))] ∧ r.only m (.blu 0 x.2) (word 40)) ∧
    (bitBase.access 0 1 .both .blu 0).toOption = some 0x1200040 ∧ (base.access 0 0 .read .blu 0).toOption = none :=
  ⟨triggers_of (by decide +kernel), triggers_of (by decide +kernel), by decide +kernel⟩

/-- Offsets 63 and 64 of segment 1: the last word, and the segment fault. -/
theorem witness_LsuWordStarts :
    (∀ x ∈ (range 0 lsuOps.length).zip lsuOps,
      ∃ r m, prepare (issues (.lsu x.2)) (0 : CoreId).val (at0 base (immWord (0x88 + x.1) 0x10003F)) = .ready r ∧
        r.vs = [(m, some (word 0x10003F))] ∧ r.only m (.lsu 0 x.2) (word 0x10003F)) ∧
    (∀ x ∈ (range 0 lsuOps.length).zip lsuOps,
      ∃ r m, prepare (issues (.lsu x.2)) (0 : CoreId).val (at0 base (immWord (0x88 + x.1) 0x100040)) = .ready r ∧
        r.vs = [(m, some (word 0x100040))] ∧ r.only m (.lsu 0 x.2) (word 0x100040)) ∧
    (base.access 0 1 .both .lsu 63).toOption = some 0x120007F ∧ (base.access 0 1 .both .lsu 64).toOption = none :=
  ⟨triggers_of (by decide +kernel), triggers_of (by decide +kernel), by decide +kernel⟩

/-- The index vector at word 0 of segment 1. -/
def gatherBase : State := base.setSock 0 0x240 0x100000

/-- A gather of one element whose index word is at 0x1200040, as it is triggered in step 5 and with its element issued. -/
def gather (es : List Elem) : GatherRun := ⟨1, 0, 1, 0, 1, 0, 0, 0x1200000, 5, 5, 2, false, es, 6 + es.length, false⟩

/-- Core 0 with that gather. -/
def gathering (es : List Elem) : State := (run base).setCore 0 { (run base).core 0 with gathers := [gather es] }

theorem witness_GathersRun :
    (∀ x ∈ (range 0 gtuOps.length).zip gtuOps,
      ∃ r m, prepare (issues (.gtu x.2)) (0 : CoreId).val (at0 gatherBase (immWord (0x248 + x.1) 0x100000)) = .ready r ∧
        r.vs = [(m, some (word 0x100000))] ∧ r.only m (.gtu x.2) (word 0x100000)) ∧
    (∀ x ∈ (range 0 gtuOps.length).zip gtuOps,
      ∃ r m, prepare (issues (.gtu x.2)) (0 : CoreId).val (at0 base (immWord (0x248 + x.1) 0x100000)) = .ready r ∧
        r.vs = [(m, some (word 0x100000))] ∧ r.only m (.gtu x.2) (word 0x100000)) ∧
    (gatherBase.seg 0 1).limit = 64 ∧ target 0 (gatherBase.seg 0 1).base = some .sp ∧ (base.seg 0 0).wr = false ∧
    (∀ boff ∈ [(0 : Int), 64],
      let g : GatherRun := { gather [] with boff := boff }
      g.bseg < 16 ∧ (run base).check = [] ∧ ((run base).core 0).flights = [] ∧ ((run base).core 0).buffer = [] ∧
        ((run base).access 0 1 .read .gtu boff).toOption = if boff = 0 then some 0x1200040 else none) ∧
    (∀ e ∈ [Elem.read 0x1200040 6 .target, .fault 9 5],
      let s := gathering [e]
      let k := s.core (0 : CoreId)
      k.gathers = [gather [e]] ∧ (gather [e]).allIssued = true ∧ s.check = [] ∧ k.retired = [] ∧ k.dsu = none ∧ k.hold = [] ∧
        (gather [e]).due < k.now ∧ (gather [e]).waits = false ∧ answers (exec (.gtuElementCompletion ⟨0, 0⟩) s) = true) :=
  ⟨triggers_of (by decide +kernel), triggers_of (by decide +kernel), by decide +kernel⟩

/-- DX and DY on strings of one digit in segment 1. -/
def dsuBase (dc : Word) : State :=
  (((base.setSock 0 sockDC dc).setSock 0 sockDX 0x100000).setSock 0 sockDY 0x100001).pokes 0x1200040 [0x5C, 0x7D]

theorem witness_DsuWordStarts :
    (∀ x ∈ (range 0 dsuOps.length).zip dsuOps,
      ∃ r m, prepare (issues (.dsu x.2)) (0 : CoreId).val (at0 (dsuBase 0x101) (immWord (0x288 + x.1) 0)) = .ready r ∧
        r.vs = [(m, some (word 0))] ∧ r.only m (.dsu x.2) (word 0)) ∧
    (∀ x ∈ (range 0 dsuOps.length).zip dsuOps,
      ∃ r m, prepare (issues (.dsu x.2)) (0 : CoreId).val (at0 (dsuBase 0x6464) (immWord (0x288 + x.1) 0)) = .ready r ∧
        r.vs = [(m, some (word 0))] ∧ r.only m (.dsu x.2) (word 0)) ∧
    (let s := dsuBase 0x101
     (s.access 0 1 .read .dsu 0).toOption = some 0x1200040 ∧ wordFcode true true (s.peek 0x1200040) = 0 ∧
       wordFcode true true (s.peek 0x1200041) = 0 ∧ strWords 1 = 1 ∧ s.check = [] ∧ (s.core 0).buffer = [] ∧
       (s.core 0).retired = [] ∧ (s.core 0).flights = [] ∧ isBlock .dmovs = false ∧ s.resumable 0 .dmovs = false) :=
  ⟨triggers_of (by decide +kernel), triggers_of (by decide +kernel), by decide +kernel⟩

/-- A performance-mode core with JMP +5 in GR, predicted to go on at `next`. -/
def predicted (next : PAddr) : State :=
  let s := run (regs base [(coreMode 0, 8)])
  s.setCore 0 { s.core 0 with paStep := 20, front := [⟨0, 1, .word (immWord 0x38 5) 0x1200000, true, false, ⟨0, [], next, 1, true⟩⟩] }

/-- A transfer's operand is at +5; the long guard 1 (Z) fails; a prediction of +1 and of +5. -/
theorem witness_TransferWords :
    (∀ x ∈ (range 0 5).zip [CtlOp.jmp, .call, .jmpa, .calla, .ret],
      ∃ r m, prepare (issues (.ctl x.2)) (0 : CoreId).val (at0 base (immWord (0x38 + x.1) 5)) = .ready r ∧
        r.vs = [(m, some (word 5))] ∧ r.only m (.ctl x.2) (word 5)) ∧
    (∃ r m, prepare (issues (.ctl .jmp)) (0 : CoreId).val (at0 base (encodeWord (.imm 1 0x38 5))) = .ready r ∧
      r.vs = [(m, none)] ∧ (triggersIt (.ctl .jmp) m && !m.on) = true) ∧
    ∀ next ∈ [(1 : PAddr), 5], ∃ r m, prepare (issues (.ctl .jmp)) (0 : CoreId).val (predicted next) = .ready r ∧
      r.vs = [(m, some 5)] ∧ (triggersIt (.ctl .jmp) m && m.ck.en && decide (m.ck.next = next)) = true := by
  refine ⟨triggers_of (ops := [CtlOp.jmp, .call, .jmpa, .calla, .ret]) (op := .ctl) (tr := .ctl) (by decide +kernel),
    one_of (by decide +kernel), fun next hn => ?_⟩
  simp only [List.mem_cons, List.not_mem_nil, or_false] at hn
  rcases hn with rfl | rfl <;> exact one_of (p := fun m => triggersIt (.ctl .jmp) m && m.ck.en && decide (m.ck.next = _)) (by decide +kernel)

/-- A store is on its way to memory when the second fence issues; SVC with bit 15 clear and set. -/
theorem witness_ControlWords :
    (∀ x ∈ [(0x300, CtlOp.fence, 0), (0x301, .iflush, 0), (0x303, .svc, 0x7F), (0x303, .svc, 0x807F)],
      ∃ r m, prepare (issues (.ctl x.2.1)) (0 : CoreId).val (at0 base (immWord x.1 x.2.2)) = .ready r ∧
        r.vs = [(m, some (word x.2.2))] ∧ r.only m (.ctl x.2.1) (word x.2.2)) ∧
    (let s := base.setCore 0 { base.core 0 with retired := [⟨0x1200040, 1, 0xFFFFFFFFFF, false, 0, 0, 19⟩] }
     ∃ r, prepare (issues (.ctl .fence)) (0 : CoreId).val (at0 s (immWord 0x300 0)) = .ready r ∧
       decide (r.step < (r.written 0).lastPerform 0) = true) := by
  refine ⟨fun x hx => ?_, ready_of (by decide +kernel)⟩
  have : ([(0x300, CtlOp.fence, 0), (0x301, .iflush, 0), (0x303, .svc, 0x7F), (0x303, .svc, 0x807F)] : List (Nat × CtlOp × Nat)).all
      (fun x => readyIs (.ctl x.2.1) (at0 base (immWord x.1 x.2.2)) (oneIs (triggersIt (.ctl x.2.1)) (some (word x.2.2)))) = true := by
    decide +kernel
  exact only_of (List.all_eq_true.mp this x hx)

/-- Tenant 0 in a handler of depth 1 whose frame lies in segment 1: LVL 0, CPRI 16, RETPC 7. -/
def handler : State := (regs base [(evtTctx 0, 0x1011000000)]).poke 0x1200040 0x20000007

theorem witness_EretWordRestores :
    (∃ r m, prepare (issues (.ctl .eret)) (0 : CoreId).val (at0 handler (immWord 0x302 0)) = .ready r ∧ r.vs = [(m, some 0)] ∧
      r.only m (.ctl .eret) 0) ∧ (at0 handler (immWord 0x302 0)).check = [] ∧
    (at0 handler (immWord 0x302 0)).populated (0 : CoreId).val ((at0 handler (immWord 0x302 0)).tenant (0 : CoreId)) :=
  ⟨only_of (by decide +kernel), by decide +kernel, populated_of rfl ((inScratchpad_at0 _ _).trans (by decide +kernel))⟩

/-! ### Witnesses: completions -/

/-- The running core 0 with an operation in flight. -/
def flying (f : Flight) : State := (run base).setCore 0 { (run base).core 0 with flights := [f] }

/-- The only operation in flight may complete in its step, which is over. -/
def ripe (u : FU) (s : State) : Bool :=
  let k := s.core (0 : CoreId)
  match k.flights with
  | [f] => decide (f.unit = u ∧ f.due < k.now ∧ k.mayComplete u f.due = true ∧ k.gathers = [] ∧ k.dsu = none ∧ k.flgMove = none ∧
      k.retired = [] ∧ k.heldAt f.due < 4 ∧ s.bad 0x1200040 ≠ some .double ∧ s.check = []) && answers (exec (.unitCompletion ⟨0, 0⟩ u) s)
  | _ => false

theorem witness_UnitCompletionWrites :
    (∀ a ∈ [Act.result [(0x101, 5), (0x102, 6)] 3 1, .result [(0x41, 5)] 3 1, .fxu 0 (.fsts 1) 5 6, .fault 13 0],
      ripe .mul (flying ⟨.mul, 0x108, 0x1200000, 5, 7, false, a⟩) = true) ∧
    (let s := flying ⟨.mul, 0x10A, 0x1200000, 5, 46, false, .result [(0x101, 5), (0x102, 6)] 7 0⟩
     let s := s.setCore 0 { s.core 0 with hold := [.divide], flgMove := some (46, 0) }
     let k := s.core (0 : CoreId)
     k.flights.length = 1 ∧ k.hold = [.divide] ∧ k.gathers = [] ∧ k.dsu = none ∧ k.mayComplete .mul 46 = true ∧
       46 + 1 - k.now ≤ s.budgetLeft 0 ∧ answers (exec (.divideCompletion 0) s) = true) := by decide +kernel

theorem witness_LsuCompletes :
    ∀ a ∈ [Act.load 0 0x1200040 (.buffered 5), .load 1 0x1200040 .target, .cax 0 0x1200040 0 5, .faa 1 0x1200040 5],
      ripe .lsu0 (flying ⟨.lsu0, 0x88, 0x1200000, 5, 6, false, a⟩) = true := by decide +kernel

theorem witness_BluMemoryCompletes :
    ∀ op ∈ bluOps, ∀ seen ∈ [Seen.target, .buffered 5], ∀ x ∈ [(39, 1), (0, 40)],
      ripe .blu0 (flying ⟨.blu0, 0xD0, 0x1200000, 5, 6, false, .bit 0 op 0x1200040 x.1 x.2 7 seen⟩) = true := by decide +kernel

/-- A DSU operation in progress on core 0 with strings of one word and a count, triggered in step 2, whose outcome is known. -/
def striding (op : DsuOp) (fcode : Nat) : State :=
  let s := run (dsuBase 0x20101)
  s.setCore 0 { s.core 0 with
    hold := [.dsu], dsu := some ⟨op, 0, 5, 0x1200000, 2, 3, 0, 7, 1, ⟨[], [], 4, false, none, some ⟨[0x5C], some 0x5C, 3, 0, fcode, 0⟩⟩⟩ }

theorem witness_DsuEnds :
    (∀ op ∈ dsuOps, ∀ fcode ∈ [0, 4],
      let s := striding op fcode
      let k := s.core (0 : CoreId)
      (k.dsu.map fun d => (d.op, d.rd.res.map (·.fcode), d.rd.gone, d.resume)) = some (op, some fcode, none, 7) ∧ k.flgMove = none ∧
        k.hold = [.dsu] ∧ k.gathers = [] ∧ 7 - k.now ≤ s.budgetLeft 0 ∧ s.settled 0 7 = true ∧ s.dsuWaits 0 0 op = false ∧
        answers (exec (.dsuCompletion ⟨0, 0, 0⟩) s) = true) ∧
    (let s := striding .dadds 0
     let s := s.setCore 0 { s.core 0 with now := 3 }
     let k := s.core (0 : CoreId)
     k.tenant < 8 ∧ k.lastM1 = none ∧ k.gathers = [] ∧ k.hold = [.dsu] ∧ k.now + 3 < 7 ∧ 3 ≤ s.budgetLeft 0) ∧
    (∃ i, i < 2 ∧ (striding .bscan 0).own 0 (0x1200040 + i) ≠ (striding .bscan 0).sock 0 sockDA ∧
      bits ((striding .bscan 0).sock 0 sockDC) 20 0 = 0x101 + 0x20000) :=
  ⟨by decide +kernel, by decide +kernel, 0, by decide +kernel⟩

theorem witness_DsuStoresAreSeen :
    ∀ op ∈ [DsuOp.dadds, .bfill],
      let s := striding op 0
      let k := s.core (0 : CoreId)
      (k.dsu.map fun d => (d.rd.res.map (·.fcode), d.rd.gone, d.widx)) = some (some 0, none, 0) ∧
      (k.dsu.map fun d => (decide (d.trig + 1 + 1 ≤ d.resume), decide (k.lastRet ≤ d.trig), decide (d.resume ≤ k.now))) =
        some (true, true, true) ∧ s.check = [] ∧
      k.buffer = [] ∧ k.retired = [] ∧ k.flights = [] ∧ k.gathers = [] ∧ answers (exec (.dsuCompletion ⟨0, 0, 0⟩) s) = true := by
  decide +kernel

/-- Core 0 with stores on their way and a hold. -/
def storing (b r : List Store) (h : List Hold) : State :=
  (run base).setCore 0 { (run base).core 0 with buffer := b, retired := r, hold := h }

/-- A full and a partial store to one word. -/
def full : Store := ⟨0x1200040, 5, 0xFFFFFFFFFF, false, 1, 1, 5⟩
def part : Store := ⟨0x1200040, 1, 1, true, 2, 2, 6⟩

/-- Core 0 with a miss of line 0x40000 of the commons found in step 12, and a word behind it. -/
def missing : State :=
  let s := run (regs base [(coreMode 0, 8)])
  s.setCore 0 { s.core 0 with miss := some ⟨0x200000, 12, false⟩, front := [⟨1, 9, .gone 0, false, false, ⟨0, [], 0, 0, false⟩⟩] }

theorem witness_StoresDrainAndHoldsEnd :
    (let s := storing [full, part] [] []
     let k := s.core (0 : CoreId)
     k.buffer = full :: [part] ∧ k.gathers = [] ∧ k.dsu = none ∧ max (full.entered + 2) (k.lastRet + 1) < k.now ∧
       answers (exec (.storeRetirement 0) s) = true) ∧
    (∀ x ∈ [full, part],
      let s := storing [] [x] []
      (s.core (0 : CoreId)).retired = [] ++ x :: [] ∧ s.mayWait 0 x.addr = false ∧ x.due < (s.core (0 : CoreId)).now ∧
        s.bad x.addr ≠ some .double ∧ answers (exec (.storePerformed ⟨0, 0⟩ 0) s) = true) ∧
    ((storing [full] [] [.fence 9]).core (0 : CoreId)).buffer ≠ [] ∧
    (∀ x ∈ [(Hold.overlap ⟨.lsu0, 0x88, 0x1200000, 5, 6, false, .load 0 0x1200040 .target⟩ 0, 9), (.fence 9, 10)],
      let s := storing [] [] [x.1]
      (s.core (0 : CoreId)).hold = [x.1] ∧ s.det 0 = true ∧ x.2 - (s.core (0 : CoreId)).now ≤ s.budgetLeft 0 ∧
        (s.core (0 : CoreId)).buffer = [] ∧ (s.core (0 : CoreId)).flights = [] ∧ (s.core (0 : CoreId)).gathers = []) ∧
    ((missing.core (0 : CoreId)).miss.isSome = true ∧ missing.check = [] ∧ (missing.core (0 : CoreId)).front.length = 1 ∧
      answers (exec (.icacheRefill ⟨0, 3⟩) missing) = true) := by decide +kernel

/-! ### Witnesses: events and slots -/

/-- A device with a role. -/
def withRole (r : Role) (s : State) : State := { s with pair := { s.pair with role := r } }

/-- Frames have begun. -/
def started (s : State) : State := { s with frm := { s.frm with started := true } }

theorem witness_EventsBecomePending :
    (regs State.reset [(evtRoute 1023, 0x1000000)]).flag (evtRoute 1023) 24 = true ∧
    State.reset.flag (evtRoute 0) 24 = false ∧ State.reset.pair.role = .none ∧
    (∀ r, (withRole r State.reset).pair.role = r) ∧
    (let s := started (regs State.reset [(evtTmr 127, 0x100000), (frmCtl, 250)])
     s.frm.started = true ∧ s.flag (evtTmr (127 : CoreId)) 20 = true ∧ s.fld (evtTmr (127 : CoreId)) 19 0 < s.fld frmCtl 19 0) :=
  ⟨by decide +kernel, by decide +kernel, by decide +kernel, fun _ => rfl, by decide +kernel⟩

/-- Event 5 is routed to tenant 0 through entry 32 of core 0, whose frames lie in segment 1; entry 17 too. -/
def routed : State :=
  { at0 (regs base [(evtRoute 5, 0x101000000), (evtDesc 0 0 32, 0x8400000008), (evtDesc 0 0 17, 0x8400000008)])
      (immWord 0x10 5) with events := 32 }

/-- A trap waits on core 0. -/
def trapped (code : Nat) : State :=
  routed.setCore 0 { routed.core 0 with trap := some ⟨code, 0x303, 0x1200000, 5, false⟩ }

theorem witness_AcceptanceEnters :
    (let s := routed
     let k := s.core (0 : CoreId)
     k.phase = .running ∧ k.tenant < 8 ∧ s.fatal = false ∧ k.gathers = [] ∧ k.dsu = none ∧ 0 < s.budgetLeft 0 ∧
       s.canReach 0 (k.now + 0) = true ∧ s.settled 0 (k.now + 0) = true ∧ k.acceptancePoint (k.now + 0) = true ∧ k.trap = none ∧
       (s.passTo 0 (k.now + 0)).wouldTrap 0 = false ∧ s.eligible 0 0 5 = true ∧
       (∀ m, m < 1024 → s.eligible 0 0 m = true → 5 ≤ m) ∧ s.fld (evtTctx 0) 27 24 < 8 ∧
       bit (s.reg (evtDesc 0 0 32)) 39 = true ∧ stackOk 0 (s.seg 0 1) false = true ∧ s.check = [] ∧ k.front = []) ∧
    (∀ m, m < 1024 → (at0 base 0).eligible 0 0 m = false) ∧
    (∀ code ∈ [17, 9],
      let s := trapped code
      let k := s.core (0 : CoreId)
      k.trap = some ⟨code, 0x303, 0x1200000, 5, false⟩ ∧ k.phase = .running ∧ k.tenant < 8 ∧ s.fatal = false ∧ 0 < s.budgetLeft 0 ∧
        s.settled 0 k.now = true ∧ bit (s.reg (evtDesc 0 0 code)) 39 = (code == 17)) := by decide +kernel

/-- Core 0 has a tenant slot, the sentry and the housekeeping slot; tenant 0 is READY. -/
def scheduled : State :=
  started (regs base [(frmSlotA 0 0, 0x8000000000), (frmSlotA 0 8, 0x8000000000), (frmSlotA 0 9, 0x8000000000),
    (frmSlotC 0 8, 4400), (frmTstat 0, 0x20000FFFFF)])

theorem witness_SlotsOpenEndAndStop :
    (let s := scheduled
     s.frm.started = true ∧ s.fatal = false ∧ s.runsTenants = true ∧ s.offline 0 = false ∧ (s.core (0 : CoreId)).phase = .closed ∧
       s.hasOpened 0 0 = false ∧ bit (s.reg (frmSlotA 0 0)) 39 = true ∧ s.fld (frmTstat 0) 39 37 = 1 ∧ s.held 0 = false ∧
       bit (s.reg (frmSlotA 0 7)) 39 = false ∧ s.frm.boundary + bits (s.reg (frmSlotA 0 0)) 29 0 < 2 ^ 64) ∧
    (let s := run (regs base [(frmTend 0, 0)])
     let s := s.setCore 0 { s.core 0 with paStep := 9, front := [⟨0, 8, .gone 0, false, false, ⟨0, [], 0, 0, false⟩⟩] }
     let k := s.core (0 : CoreId)
     k.phase = .running ∧ k.hold = [] ∧ k.trap = none ∧ k.pc.toNat = s.fld (frmTend 0) 23 0 ∧ s.fld (evtTctx 0) 27 24 = 0 ∧
       k.tenant < 8 ∧ k.miss = none ∧ k.now ≤ k.paStep ∧ s.settled 0 k.now = true ∧ 8 + depth (s.det 0) ≤ k.now ∧
       answers (exec (.tenantEnd 0 5) s) = true) ∧
    (∀ used ∈ [999, 1000],
      let s := run (regs base [(coreScnt 0, word used)])
      let s := s.setCore 0 { s.core 0 with paStep := 20 }
      let k := s.core (0 : CoreId)
      k.phase = .running ∧ k.tenant < 8 ∧ k.pc.toNat ≠ s.fld (frmTend 0) 23 0 ∧ s.budgetLeft 0 = 1000 - used ∧
        s.canReach 0 (k.now + s.budgetLeft 0) = true ∧ s.settled 0 (k.now + s.budgetLeft 0) = true ∧
        s.canReach 0 (k.now + 0) = true ∧ s.guardPoint 0 k.slot < 2 ^ 64 ∧ answers (exec (.paceFault 0 0) s) = true) ∧
    ∀ p ∈ [SlotPhase.idle, .sentry, .housekeeping, .closed],
      let s := base.setCore 0 { base.core 0 with phase := p }
      (s.core (0 : CoreId)).phase = p ∧ (s.core (0 : CoreId)).running = [] := by decide +kernel

theorem witness_SelfTestsRun :
    (let s := scheduled
     s.frm.started = true ∧ s.fatal = false ∧ (s.core (0 : CoreId)).phase = .closed ∧ (s.core (0 : CoreId)).running = [] ∧
       s.hasOpened 0 8 = false ∧ s.flag (frmSlotA 0 8) 39 = true ∧ s.fld (frmSlotC 0 8) 31 0 = 4400) ∧
    (∀ b ∈ [true, false],
      let s := scheduled.setCore 0
        { scheduled.core 0 with phase := .sentry, retest := b, tests := [⟨2, .host 7⟩], running := [⟨4, .rotation⟩] }
      (s.core (0 : CoreId)).phase = .sentry ∧ (s.core (0 : CoreId)).tests = [⟨2, .host 7⟩] ∧ (s.core (0 : CoreId)).retest = b ∧
        (s.core (0 : CoreId)).running = [⟨4, .rotation⟩]) := by decide +kernel

theorem witness_HousekeepingResetsTenants :
    (let s := { scheduled with frm := { scheduled.frm with resets := [⟨0, 0, none⟩] } }
     s.frm.started = true ∧ s.fatal = false ∧ (s.core (0 : CoreId)).phase = .closed ∧ s.hasOpened 0 9 = false ∧
       s.flag (frmSlotA 0 9) 39 = true ∧ s.guardPoint 0 9 < 2 ^ 64 ∧ s.offline 0 = false ∧ (⟨0, 0, none⟩ : Request) ∈ s.frm.resets ∧ 0 ≤ s.frame ∧
       ∀ v, v < 8 → ∀ n, n < 4 → s.flag (frmTq v n) 39 = false) ∧
    (regs scheduled [(errCoreoff 0, 1)]).offline 0 = true ∧ State.reset.frm.started = false := by decide +kernel

/-! ### Witnesses: frames, images and ports -/

/-- A sealed part out of reset whose time base runs, with REFCLK. -/
def sealed : State :=
  let s := (State.reset.setFlag cfgStat 27 true).setFlag clkStat 0 true
  { s with clk := { s.clk with running := true }, pins := { s.pins with porstLow := false } }

theorem witness_FrameBoundaryActs :
    (let s := sealed
     s.sealed = true ∧ s.clk.running = true ∧ s.pairMode = false ∧ s.frm.started = false ∧ s.pair.held = []) ∧
    (let s := regs (started sealed) [(cfgSwapf, 1), (cfgSwstat, 16), (hstTick, 1)]
     s.frm.started = true ∧ s.fld cfgSwapf 39 0 = s.frame + 1 ∧ s.flag cfgSwstat 4 = true ∧ s.fld hstTick 19 0 ≠ 0 ∧
       (s.frame + 1) % s.fld hstTick 19 0 = 0) ∧
    (let s := regs (started sealed) [(cfgSwapf, 1), (cfgSwstat, 32)]
     s.fld cfgSwapf 39 0 = s.frame + 1 ∧ s.flag cfgSwstat 4 = false ∧ s.flag cfgSwstat 5 = true) ∧
    (let s := withRole .primary (started sealed)
     let s := { s with pair := { s.pair with handFrame := some 1 } }
     s.pair.role = .primary ∧ s.pair.joinFrame = none ∧ s.pair.handFrame = some (s.frame + 1)) ∧
    (withRole .secondary (started sealed)).pair.role = .secondary := by decide +kernel

/-- Frame 1 of a device. -/
def framed : State := regs (started sealed) [(frmCount, 1)]

/-- A digest of frame 0. -/
def digest0 (d : Nat) : DigestMsg := ⟨BitVec.ofNat 64 d, ~~~BitVec.ofNat 64 d, 0, 0⟩

theorem witness_DigestsAndVerdicts :
    (framed.frm.started = true ∧ framed.frame ≠ 0 ∧ framed.fatal = false ∧ framed.check = [] ∧ framed.frm.frozen = false ∧
      framed.frm.digested = false ∧ framed.frm.boundary + 1000 * framed.fld frmPhase0 39 20 < 2 ^ 64) ∧
    (∀ r ∈ [Role.primary, .secondary], ∀ d ∈ [5, 6], ∀ e ∈ [5, 6],
      let s := withRole r { framed with frm := { framed.frm with digested := true } }
      let s := { s with pair := { s.pair with
        link := .up, ownDig := some (digest0 5), partDig := some (digest0 d), ownDigB := some (digest0 5), partDigB := some (digest0 e) } }
      s.frm.digested = true ∧ s.frm.judged = false ∧ s.pair.partDig = some (digest0 d) ∧ (digest0 d).frame.toNat = s.frame - 1 ∧
        s.pair.role = r ∧ s.pair.unlike = false ∧ s.pair.notcmp = none ∧ s.pair.unacked.length < 64 ∧
        (s.pair.ownDigB = s.pair.partDigB ↔ e = 5)) ∧
    (let s := withRole .primary { framed with pair := { framed.pair with link := .up } }
     s.pair.unacked = [] ∧ s.pair.fwdNext = 0 ∧ (∀ a ∈ s.inputSet (s.frame + 1), s.writeDue (s.frame + 1) a = false)) ∧
    (regs framed [(frmCount, 1024)]).frame % 1024 = 0 ∧ State.reset.frm.started = false :=
  ⟨by decide +kernel, by decide +kernel, by decide +kernel, by decide +kernel, by decide +kernel⟩

/-- One exchange entry of port 0: segment 1 of tenant 0, one word of 4 bytes. -/
def entry (w0 : Word) : Map Word := [(1, 1), (0x200, w0), (0x201, 0x12340000FF), (0x204, 0x100), (0x205, 1)]

/-- Port 0 enabled and up. -/
def ported (m : Map Word) : State :=
  let s := regs framed [(xePcfg 0, 1)]
  { s with recto := m, ports := [(0, { Port.reset with up := true })] }

theorem witness_OutputFramesAreSent :
    (let s := ported (entry 0xC010000000)
     s.frm.started = true ∧ (s.port 0).begun = false ∧ s.frm.boundary + 1000 * s.fld frmPhase1 39 20 < 2 ^ 64 ∧ s.frame ≠ 0 ∧
       s.fatal = false ∧ s.pairMode = false ∧ s.pair.role = .none ∧ s.pair.barred ≠ some (s.frame - 1) ∧
       bit (s.assembly.get 1 0) 0 = true ∧ s.fld (xePcfg 0) 2 0 ≠ 0 ∧ (s.port 0).toSend = [] ∧ (s.port 0).sending = none ∧
       (s.port 0).up = true ∧ entries s.assembly 0 true = [0] ∧ s.frm.silent = [] ∧ s.frm.cancelled = [] ∧ s.check = [] ∧
       (exch s.assembly 0).koff = 0xFF) ∧
    (∀ n ∈ [0, 511],
      let s : State := { ported [] with ports := [(0, { Port.reset with up := true, sending := some ⟨n, true, false, []⟩ })] }
      (s.port (0 : PortId)).sending = some ⟨n, true, false, []⟩ ∧ (s.port (0 : PortId)).toSend = [] ∧ s.fatal = false ∧
        s.pairMode = false ∧ answers (exec (.outputFrameSent 0) s) = true) ∧
    (let s := (regs (ported (entry 0)) [(xePtxq 0, 0x8001000000)]).pokes 0x1000000 [0x10008, 1, 0]
     s.flag (xePtxq 0) 39 = true ∧ (s.port 0).up = true ∧ s.fatal = false ∧ s.pairMode = false ∧ bit (s.assembly.get 1 0) 0 = true ∧
       (s.port 0).sending = none ∧ (s.port 0).toSend = [] ∧
       bits (s.peek 0x1000001) 38 32 = bits (s.peek 0x1000002) 38 32 ∧ bits (s.peek 0x1000002) 31 0 ≠ bits (s.peek 0x1000001) 31 0 ∧
       s.check = [] ∧ 3 < bits (s.peek 0x1000000) 7 0 ∧ bits (s.peek 0x1000008) 13 0 ≤ 5 * 4 ∧ bit (s.peek 0x1000008) 16 = false ∧
       s.endsInTime 0 s.clk.tb.toNat 64 = false ∧
       (regs s [(frmPhase1, 0x3E800000), (xePcfg 0, 1), (frmCtl, 1000)]).endsInTime 0 0 64 = true) :=
  ⟨by decide +kernel, by decide +kernel, by decide +kernel⟩

/-- A received frame without its FCS: broadcast, EtherType 0x1234, `n` bytes of data. -/
def rxBytes (n : Nat) : List Byte := List.replicate 6 0xFF ++ List.replicate 6 0 ++ [0x12, 0x34] ++ List.replicate n 0

theorem witness_InputFramesAreParsed :
    (let s := ported (entry 0x8010000000)
     let r := rxOf (rxBytes 46)
     (s.port 0).up = true ∧ s.sealed = true ∧ (rxBytes 46).length + 4 = 64 ∧ (rxBytes 45).length + 4 < 64 ∧ r.dst = 2 ^ 48 - 1 ∧
       r.etype = 0x1234 ∧ s.frm.swapped = none ∧ rxEntry (s.rxTables 0 64) 0 r = some 0 ∧
       (exch s.active 0).poff + (exch s.active 0).nw * (exch s.active 0).bytes ≤ r.body.length) ∧
    (∀ t0 ∈ [0, 0xFFFFFFFF],
      let s := ported (entry 0x8010000000)
      let s : State := { s with frm := { s.frm with swapped := some (0xFFFFFFFF - t0, []) }, clk := { s.clk with tb := 0xFFFFFFFF } }
      (decide (64 * s.byteTime 0 ≤ 10 * (s.clk.tb.toNat - (0xFFFFFFFF - t0))) = (t0 != 0)) ∧ s.frm.swapped.isSome = true) ∧
    (let w : ParseWrite := ⟨0, 1, 7, [(0x1200040, 5)]⟩
     let s : State := { ported [] with ports := [(0, { Port.reset with writes := [w] })] }
     (s.port (0 : PortId)).writes = [w] ∧ s.pair.ownFrozen = none ∧ (w.ws.map (·.1)).Nodup ∧ s.frm.frozen = false ∧ w.seq < s.nextSeq) ∧
    (let s := { ported (entry 0x8010000000) with timers := [(0, some 5)] }
     s.timers.get (0 : Fin 512) none = some 5 ∧ (exch s.active 0).valid = true ∧ (exch s.active 0).tx = false ∧
       (exch s.active 0).tmo ≠ 0 ∧ 5 + 1000 * (exch s.active 0).tmo < 2 ^ 64) ∧
    (ported []).mayDrive = true ∧ (ported []).frm.silent = [] ∧ (ported []).frm.cancelled = [] ∧
    (regs framed [(clkStat, 2), (xePcfg 0, 2)]).flag clkStat 1 = true ∧ (regs framed [(xePcfg 0, 2)]).fld (xePcfg 0) 2 0 = 2 :=
  ⟨by decide +kernel, by decide +kernel, by decide +kernel, by decide +kernel, by decide +kernel⟩

/-! ### Witnesses: the pair -/

/-- A device in pair mode with a role and a link. -/
def paired (r : Role) (l : LinkState) : State :=
  let s := withRole r (framed.setFlag mirCtl 39 true)
  { s with pair := { s.pair with link := l } }

/-- The device with one packet not acknowledged. -/
def unacked (n : Nat) : State :=
  let s := paired .primary .up
  { s with pair := { s.pair with unacked := [⟨0, 1, .yield⟩], replays := n } }

theorem witness_PacketsAreAcknowledged :
    ((paired .primary .up).pairMode = true ∧ (paired .primary .up).pair.link = .up ∧ ack0.nak = false ∧ ack0.ackv = true ∧
      (paired .primary .up).pair.waitq = [] ∧ (paired .primary .up).fatal = false ∧ ackOf (.yield ack0) = some ack0 ∧
      State.reset.pairMode = false ∧ (paired .primary .ident).pair.link = .ident ∧ (paired .primary .up).pair.nakSent = false) ∧
    (∀ n ∈ [6, 7],
      let s := unacked n
      s.fatal = false ∧ s.pair.unacked = [] ++ ⟨0, 1, .yield⟩ :: [] ∧ s.pair.replays = n ∧ s.pair.waitq = []) ∧
    ∀ i ∈ [Instr.reservedPacket 12 ack0, .idleBlock ack0, .replayTimeout, .nakReceived 0, .blockError, .discardedPacket .crc],
      answers (exec i (unacked 6)) = true := by decide +kernel

/-- An identity like the device's own but for PAIR_ID. -/
def identOf (s : State) (role : Nat) : IdentMsg := { s.identMsg with pairId := !s.pair.ownId, role := role }

theorem witness_LinkTrainsAndDevicesMeet :
    (∀ l ∈ [LinkState.down, .lock, .align, .ident, .up], ∀ r ∈ [Role.solo, .primary, .secondary, .joining],
      (paired r l).pairMode = true ∧ (paired r l).pair.link = l ∧ (paired r l).pair.role = r ∧ (paired r l).sealed = true ∧
        (paired r l).fatal = false ∧ (paired r l).pair.unacked = [] ∧ (paired r l).pair.due Body.isIdent = false) ∧
    (∀ l ∈ [LinkState.ident, .up],
      let s := paired .none l
      let s := { s with pair := { s.pair with waiting := true } }
      let u := s.accept ack0
      let m := identOf s 0
      u.pair.role = .none ∧ u.pair.waiting = true ∧ u.pair.link = l ∧ u.sealed = true ∧ m.role = 0 ∧ m.pairId ≠ u.pair.ownId ∧
        bits m.frmCtl 19 0 = u.fld frmCtl 19 0 ∧ m.phase0 = u.reg frmPhase0 ∧ m.phase1 = u.reg frmPhase1 ∧
        m.layout = u.reg mirLayout ∧ m.digest = u.imageDigest) ∧
    (let s := (paired .joining .up).setFlag mirCtl 38 false
     let u := s.accept ack0
     let m := { identOf s 1 with layout := 5 }
     u.pair.role = .joining ∧ m.layout ≠ u.reg mirLayout ∧ u.flag mirCtl 38 = false) ∧
    (let s := paired .secondary .up
     s.pair.silent = true ∧ s.flag mirCtl 37 = false) ∧
    (let s := regs (paired .secondary .up) [(mirCtl, 0xA000000000)]
     s.flag mirCtl 37 = true ∧ s.pairMode = true ∧ s.pair.silent = true) ∧
    (let s := { paired .none .down with pair := { (paired .none .down).pair with waiting := true } }
     s.pair.waiting = true ∧ s.pair.role = .none) := by decide +kernel

theorem witness_ControlMessagesAct :
    (∀ r ∈ [Role.solo, .primary, .secondary, .joining], (paired r .up).pairMode = true ∧ (paired r .up).pair.link = .up ∧
      ((paired r .up).accept ack0).pair.role = r) ∧
    (let u := (paired .secondary .up).accept ack0
     u.fatal = false ∧ u.pair.unacked = [] ∧ u.tableOk u.shadow = true) ∧
    (∀ x ∈ [1, 2],
      let p : Packet := ⟨0, 1, .swapack x true⟩
      let s := paired .secondary .up
      let s := { s with pair := { s.pair with unacked := [p], swapRx := some (x, 100000) } }
      s.pair.link = .up ∧ s.pair.unacked = [p] ∧ s.pair.waitq = [] ∧ p.body = .swapack x true ∧ ack0.ackv = true ∧ ack0.nak = false ∧
        ack0.ack = p.seq ∧ s.pair.swapRx = some (x, 100000) ∧ s.clk.tb.toNat ≤ 100000 ∧ (s.frame < x ↔ x = 2)) ∧
    (regs (paired .primary .up) [(cfgSwstat, 32)]).flag cfgSwstat 5 = true ∧ 2 ≤ (5 : BitVec 40).toNat ∧
    (5 : BitVec 40).toNat + 256 < 2 ^ 40 :=
  ⟨by decide +kernel, by decide +kernel, by decide +kernel, by decide +kernel, by decide +kernel, by decide +kernel⟩

theorem witness_DataPacketsArrive :
    (let u := (paired .secondary .up).accept ack0
     u.pair.role = .secondary ∧ u.fatal = false ∧ u.pair.unacked = [] ∧ u.frameOf ack0.frame = u.frame) ∧
    (∀ j ∈ [0, 1],
      let s := paired .joining .up
      let u := ({ s with pair := { s.pair with joinFrame := some j } } : State).accept ack0
      u.pair.joinFrame = some j ∧ u.pair.role = .joining ∧ (j + 1 ≤ u.frameOf ack0.frame ↔ j = 0) ∧ (some j = some u.frame ↔ j = 1)) ∧
    (∀ n ∈ [(-1 : Int), 1],
      let s := paired .secondary .up
      let s := { s with pair := { s.pair with theta := n }, deliver := [⟨1023, 1, 0⟩] }
      s.pair.theta = n ∧ s.pair.theta ≠ 0 ∧ s.deliver = [] ++ ⟨1023, 1, 0⟩ :: []) ∧
    (let s := (paired .joining .up); s.pairMode = true ∧ s.pair.role ≠ .primary ∧ s.pair.role ≠ .solo) := by decide +kernel

/-! ### Witnesses: health, planner, resets, clocks -/

theorem witness_ScrubbersReport :
    (State.reset.inReset = true ∧ sealed.inReset = false ∧ sealed.bad 0x11FFFFF = none ∧ 0x11FFFFF % 0x40000 + 1 = 0x40000 ∧
      (0x12FFFFF + 1) % 0x2000 = 0) ∧
    damageOf frmCtl ≠ none ∧ damageOf errSum = none ∧ (sealed.core 127).tenant < 8 ∧ (sealed.core 127).dsu = none ∧
    (sealed.core 127).front = [] ∧ (sealed.core 0).lastM1 = none ∧
    16 * (sealed.fld errCtl 17 10 : Int) < signed 16 0x7FFF ∧ ¬ 16 * (sealed.fld errCtl 17 10 : Int) < signed 16 (sealed.fld devTemp 15 0)  ∧
    (∀ e ∈ sealed.patch.ram, e.2.parityOk = true) ∧
    (let s := { sealed with patch := { sealed.patch with ram := [(0xE00, 1)] } }
     s.inReset = false ∧ ∃ e ∈ s.patch.ram, e.2.parityOk = false) := by
  decide +kernel

/-- A planner with V at 800 mV, confirmed long ago, and bounds about it. -/
def planning (ceil : Nat) : State :=
  let s := regs sealed [(ageCtl, word (ceil * 2 ^ 28)), (ageVlim, putBits (putBits 0 29 20 900) 19 10 700)]
  { s with age := { s.age with v0 := 800, unconfirmed := false }, clk := { s.clk with tb := 1000000 } }

theorem witness_PlannerPlans :
    (let s := planning 1000
     s.clk.running = true ∧ s.age.roundAt + 16384 < 2 ^ 64 ∧ (∀ r ∈ List.replicate 136 (1024, 100), r.1 ≠ 0) ∧
       ceilDiv (ceilDiv 1024000 1024 * (256 + s.fld ageCtl 27 20)) 256 = 1000 ∧ s.fld ageCtl 39 28 = 1000 ∧
       s.fld agePolicy 13 12 ≠ 2 ∧ s.age.plan = none ∧ s.fld ageVlim 19 10 < s.age.v0 ∧ s.flag ageStat 14 = false ∧
       s.age.settle + 216384 ≤ s.clk.tb.toNat ∧ 5 ≤ s.age.v0 ∧ s.age.unconfirmed = false ∧ s.age.raising = false) ∧
    (planning 999).fld ageCtl 39 28 = 999 ∧ (List.replicate 136 ((1024 : Nat), (100 : Nat))).length = 136 ∧
    (let s := regs (planning 999) [(agePolicy, 0x2384)]
     s.fld agePolicy 13 12 = 2 ∧ max (s.fld ageVlim 19 10) (min (s.fld ageVlim 29 20) (s.fld agePolicy 11 0)) = 900 ∧
       (let s := { s with age := { s.age with v0 := 900 } }; 900 ≤ s.age.v0 ∧ s.age.v0 ≤ s.fld ageVlim 29 20)) ∧
    (sealed.inReset = false ∧ ∀ m, m < 136 → sealed.age.copies m = (0x20, 0x20, 0x20)) ∧
    (∀ w ∈ [PmbusWait.readVout, .readIout, .command 5], ∀ n ∈ [2, 3],
      let s := { sealed with age := { sealed.age with inFlight := some w, tries := n } }
      s.age.inFlight = some w ∧ s.age.tries = n ∧ s.age.waiting = none ∧ s.age.unconfirmed = true ∧ s.clk.running = true ∧
        s.age.changedAt + 1000000 < 2 ^ 64) := by
  decide +kernel

theorem witness_ResetsAndReferences :
    State.reset.pins.porstLow = true ∧ State.reset.pins.brown = [] ∧ sealed.pins.porstLow = false ∧ sealed.clk.running = true ∧
      (let s := { State.reset with pins := { State.reset.pins with porstLow := false, brown := [.vsdh] } }
       s.pins.porstLow = false ∧ s.pins.brown ≠ [] ∧ s.reg clkRstwhy = 0 ∧ .vsdh ∈ s.pins.brown) ∧
      (let s := { State.reset with pins := { State.reset.pins with porstLow := false } }
       s.pins.porstLow = false ∧ s.pins.brown = [] ∧ s.clk.running = false ∧ s.ldr.barred = false ∧ s.pins.viofl ≠ .outOfRange ∧
         (regs s [(clkRstwhy, 1)]).reg clkRstwhy ≠ 0) ∧
      (regs sealed [(clkStat, 7)]).flag clkStat 2 = true ∧ sealed.flag clkStat 0 = true ∧ sealed.flag clkStat 1 = false := by decide +kernel

theorem witness_ClocksAndPulses :
    (sealed.inReset = false ∧ sealed.host.d3 = false ∧ sealed.check = [] ∧ sealed.clk.running = true ∧ sealed.flag clkStat 0 = true ∧
      sealed.clk.ns < 1000000000 ∧ sealed.reg clkPtprate = 0 ∧ sealed.clk.pps = none ∧ sealed.clk.ptpCmds = [] ∧ sealed.clk.owed = 0 ∧
      sealed.pending = [] ∧ (∀ p, p < 4 → (sealed.port p).rxWait = []) ∧ sealed.clk.switching = false) ∧
    (∀ x ∈ [(⟨0, some (5, 999999999), 0⟩ : PtpCmd), ⟨0, none, -1⟩],
      let s := { sealed with clk := { sealed.clk with ptpCmds := [x] } }
      s.clk.ptpCmds = [x] ∧ x.count ≤ s.clk.tb.toNat ∧ (answers (step s) = true)) ∧
    (regs sealed [(clkPpsctl, 0x201)]).flag clkPpsctl 9 = true ∧ (regs sealed [(clkPpsctl, 0x201)]).fld clkPpsctl 8 0 ≠ 0 ∧
    (let s := { sealed with clk := { sealed.clk with pps := some 5, switching := true, nextSel := some 5 } }
     s.clk.pps = some 5 ∧ s.clk.switching = true ∧ s.clk.nextSel = some 5 ∧ 5 < s.clk.tb.toNat + s.untilWrap) ∧
    (let s := { sealed with clk := { sealed.clk with pps := some 2000000000 } }
     s.clk.tb.toNat + s.untilWrap < 2000000000) := by decide +kernel

/-! ### Witnesses: loader and host -/

/-- A part out of reset whose loader is in a phase. -/
def loading (n : Nat) : State := (regs sealed [(cfgStat, 0)]).setFld cfgStat 31 28 n

theorem witness_LoaderPhases :
    (∀ n ∈ range 1 6, (loading n).fld cfgStat 31 28 = n ∧ (loading n).ldr.fail = none ∧ (loading n).pins.porstLow = false ∧
      (loading n).pins.brown = [] ∧ (loading n).ldr.rejected = [] ∧ (loading n).ldr.relocs = [] ∧ (loading n).ldr.setUp = false) ∧
    (let s := { loading 6 with ldr := { Loader.reset with setUp := true } }
     s.ldr.setUp = true ∧ s.flag ageStat 12 = false ∧ s.ldr.fail = none ∧ (s.setFlag ageStat 12 true).flag ageStat 12 = true) ∧
    (let s := { loading 5 with ldr := { Loader.reset with relocs := [(0, ⟨0, 0, 1, 0, 0⟩)], regions := [⟨4, 0, 0x1200000⟩, ⟨4, 0, 0x1200040⟩] } }
     s.ldr.relocs.length = 1) ∧
    ({ loading 3 with ldr := { Loader.reset with fail := some ⟨2, 0xFF, 0⟩ } } : State).ldr.fail = some ⟨2, 0xFF, 0⟩ ∧
    (let s := { loading 3 with ldr := { Loader.reset with octal := true, retries := 3 } }
     s.ldr.octal = true ∧ s.fld cfgStat 31 28 = 3 ∧ s.ldr.retries + 1 = 4) ∧
    (loading 6).ldr.patch = none ∧ (loading 6).ordered = [] :=
  ⟨by decide +kernel, by decide +kernel, by decide +kernel, by decide +kernel, by decide +kernel, by decide +kernel⟩

theorem witness_HostReads :
    sealed.inReset = false ∧ sealed.flag clkStat 0 = true ∧ sealed.host.d3 = false ∧ sealed.check = [] ∧ layout 0x1FFFFF = [] ∧
      layout errSum ≠ [] ∧ layout (mgtCtl) ≠ [] ∧ State.reset.inReset = true ∧ .bar0 ∉ sealed.host.bars ∧ sealed.reg hstLink = 0 ∧
      .bar0 ∈ (sealed.assign .bar0).host.bars ∧ (∀ x ∈ sealed.host.rdLatch, x.1 ≠ .bar0) := by decide +kernel

theorem witness_HostWrites :
    (sealed.sealed = true ∧ sealed.inReset = false ∧ sealed.flag clkStat 0 = true ∧ sealed.host.d3 = false ∧ layout errCtl ≠ [] ∧
      (sealed.reg (segDescA 0 0) ^^^ 1) &&& accMask .sl (layout (segDescA 0 0)) ≠ 0 ∧ accMask .lv (layout agePolicy) ≠ 0) ∧
    (let s := regs sealed [(hstBwin 0, 0x40000)]
     8 * s.fld (hstBwin 0) 17 0 ≤ 7 ∧ 7 < 8 * s.fld (hstBwin 0) 17 0 + 8 * s.fld (hstBwin 0) 35 18 ∧
       s.pair.role = .none) ∧
    (let s := { sealed with host := { sealed.host with msix := [(255, 1)], pba := 0x8000000000000000 } }
     s.masked (63 : Fin 64) = true ∧ bit s.host.pba (63 : Fin 64) = true) ∧
    (∀ b ∈ [true, false],
      let s := regs sealed [(hstIstat 0, 1)]
      let s := { s with host := { s.host with sent := b.toNat } }
      bit s.host.sent (32 * 0 + 0) = b ∧ s.flag (hstIstat 0) 0 = true ∧ s.flag (hstIen 0) 0 = false ∧ s.masked 0 = false) ∧
    State.reset.inReset = true := by decide +kernel

/-- A flash device of 256 Mbit with blocks of 4096 and pages of 256 bytes; slot 0 holds a command. -/
def flashed (c : Cmd) (args : Map Word) : State :=
  let s := sealed.setFld cfgStat 31 28 7
  { s with ldr := { s.ldr with sfdp := some ⟨256, true, 200, 4096, 256⟩ },
           host := { s.host with slots := [(0, c)], flashQ := [0], bar4 := args } }

theorem witness_SlotCommandsRun :
    (let s := flashed .reset [(2, 0x1000), (3, 4)]
     s.inReset = false ∧ s.flag clkStat 0 = true ∧ s.host.d3 = false ∧ (s.cmd (0 : SlotId)).busy = false ∧ ¬ s.fld cfgStat 31 28 ≤ 6 ∧ s.ldr.sfdp ≠ none ∧
       0x1000 + 4 ≤ s.flashSize ∧ s.host.bar4.get (512 * (0 : SlotId) + 2) 0 = 0x1000 ∧ s.scheduled 1 = false) ∧
    (regs (flashed .reset [(2, 0x100)]) [(frmSlotC 0 8, 2400)]).fld (frmSlotC 0 8) 31 0 = 2400 ∧ scheduled.scheduled 0 = true ∧
    (∀ op ∈ [0x10, 0x11, 0x12],
      let s := flashed ⟨.running, op, 5, true, 0, 0, [0x1000, 4], List.replicate 496 0, true⟩ []
      (s.cmd (0 : SlotId)).st = .running ∧ s.host.flashQ.head? = some 0 ∧ (s.cmd (0 : SlotId)).op = op ∧
        (s.cmd (0 : SlotId)).data.length = 496 ∧ (s.cmd (0 : SlotId)).busy = true ∧ (s.cmd (0 : SlotId)).abort = true) := by
  decide +kernel

theorem witness_SwapMirrorAndSnapshotCommands :
    (let s := regs framed [(cfgSwapf, 2)]
     s.inReset = false ∧ s.flag clkStat 0 = true ∧ s.host.d3 = false ∧
       s.frame < s.fld cfgSwapf 39 0 ∧ s.flag cfgSwstat 4 = false ∧ s.pair.role = .none) ∧
    (∀ b ∈ [4, 5, 6, 7], (regs framed [(cfgSwstat, word (2 ^ b))]).flag cfgSwstat b = true) ∧
    (let s := paired .primary .up
     let s := { s.setFld mirHandf 39 0 3 with pair := { s.pair with partner := true } }
     s.pair.role = .primary ∧ s.pair.partner = true ∧ s.frame + 2 ≤ s.fld mirHandf 39 0 ∧ s.fatal = false ∧ s.pair.unacked = []) ∧
    (∀ p ∈ [true, false],
      let s := paired .dropped .up
      let s := { s with pair := { s.pair with identRx := some { identOf s 1 with pairId := p } } }
      s.pair.role = .dropped ∧ s.pair.link = .up ∧ s.pair.identRx.bind s.refusal = if p then none else some 1) ∧
    (paired .dropped .lock).pair.link ≠ .up ∧ State.reset.tableOk [] = true ∧
    (regs sealed [(mgtCtl, 0x80)]).flag mgtCtl 7 = true ∧ sealed.clk.running = true := by decide +kernel

/-- The state after the event of `routed` has been accepted, with an ERET as the handler's first word. -/
def entered : State :=
  match exec (.eventAcceptance 0 0) (routed.poke 0x1200008 (immWord 0x302 0)) with
  | .next t => t
  | _ => .reset

theorem witness_EretUndoesEntry :
    entered.fld (evtTctx 0) 27 24 = 1 ∧ entered.tenant 0 = 0 ∧ (entered.core 0).buffer = [] ∧ (entered.core 0).retired = [] ∧
      entered.check = [] ∧ (entered.core 0).gathers = [] ∧ (entered.core 0).dsu = none ∧ (routed.core 0).gathers = [] ∧
      (routed.core 0).dsu = none ∧ (routed.core 0).tenant < 8 ∧ routed.check = [] ∧ readyIs (.ctl .eret) entered (oneIs (triggersIt (.ctl .eret)) (some 0)) = true ∧
      answers (exec (.eret 0) entered) = true ∧ routed.flag (evtTctx 0) 38 = routed.flag (evtTctx 0) 39 := by decide +kernel

end Sys2Proof.Tests
end

section
/-!
The shift and extend operations of the ALU (R78): the flags an update names and gives, the bits of each result, and the
obligation assembled from them.
-/
namespace Sys2Proof.Machine

/-! ### Flag updates -/

theorem names_noFlags : noFlags.names [] := fun i => by
  rw [noFlags, bit_zero]
  exact ⟨fun h => absurd h Bool.false_ne_true, fun h => absurd h List.not_mem_nil⟩

/-- One more flag is named; the flags are listed in the order in which they were added. -/
theorem FlagUpd.names.with {u : FlagUpd} {l : List Nat} (h : u.names l) {f : Nat} (hf : f < 40) (b : Bool) :
    (u.with f b).names (l ++ [f]) := by
  intro i
  rw [List.mem_append, List.mem_singleton, ← h i]
  by_cases hi : i = f
  · subst hi
    exact iff_of_true (bit_putBit_self _ _ hf) (.inr rfl)
  · rw [FlagUpd.with, bit_putBit_ne _ _ hi]
    exact ⟨.inl, fun h => h.resolve_right hi⟩

theorem FlagUpd.gives_with (u : FlagUpd) {f : Nat} (hf : f < 40) (b : Bool) : (u.with f b).gives f b :=
  ⟨bit_putBit_self _ _ hf, bit_putBit_self _ _ hf⟩

theorem names_flagsZN (r : Word) : (flagsZN r).names [flagZ, flagN] :=
  (names_noFlags.with (by decide) _).with (by decide) _

/-- The flags of a shift: C is named, and given, exactly where the count is not zero. -/
theorem outShift_flags (k : Nat) (r : Word) (c : Bool) :
    ∃ fl, outShift k r c = some (r, fl) ∧ (k = 0 → fl.names [flagZ, flagN]) ∧
      (k ≠ 0 → fl.names [flagZ, flagN, flagC] ∧ fl.gives flagC c) := by
  refine ⟨_, rfl, fun h => ?_, fun h => ?_⟩
  · rw [if_pos h]
    exact names_flagsZN r
  · rw [if_neg h]
    exact ⟨(names_flagsZN r).with (by decide) c, FlagUpd.gives_with _ (by decide) c⟩

/-! ### The bits of the results -/

theorem bit_shiftLeft {n i : Nat} (o : BitVec n) (k : Nat) (hi : i < n) :
    bit (o <<< k) i = (decide (k ≤ i) && bit o (i - k)) := by
  rw [bit_eq, BitVec.getLsbD_shiftLeft, decide_eq_true hi, Bool.true_and, ← decide_not, bit_eq]
  simp only [Nat.not_lt]

theorem bit_ushiftRight {n : Nat} (o : BitVec n) (k i : Nat) : bit (o >>> k) i = bit o (i + k) := by
  rw [bit_eq, BitVec.getLsbD_ushiftRight, Nat.add_comm, bit_eq]

/-- A bit shifted in from above the word is a copy of its sign. -/
theorem bit_sshiftRight {i : Nat} (o : Word) (k : Nat) (hi : i < 40) :
    bit (o.sshiftRight k) i = bit o (min 39 (i + k)) := by
  rw [bit_eq, BitVec.getLsbD_sshiftRight, decide_eq_false (Nat.not_le.2 hi), Bool.not_false, Bool.true_and]
  by_cases h : k + i < 40
  · rw [if_pos h, Nat.add_comm, Nat.min_eq_right (by omega), bit_eq]
  · rw [if_neg h, BitVec.msb_eq_getLsbD_last, Nat.min_eq_left (by omega), bit_eq]

/-- The last bit that an arithmetic shift moves out. -/
theorem sar_carry (o : Word) (k : Nat) :
    (if k ≤ 40 then bit o (k - 1) else o.msb) = bit o (min 39 (k - 1)) := by
  by_cases h : k ≤ 40
  · rw [if_pos h, Nat.min_eq_right (by omega)]
  · rw [if_neg h, BitVec.msb_eq_getLsbD_last, Nat.min_eq_left (by omega), bit_eq]

/-- Bit i goes to bit i + k, modulo the width. -/
theorem bit_rotateLeft {i : Nat} (o : Word) (k : Nat) (hi : i < 40) :
    bit (o.rotateLeft (k % 40)) ((i + k) % 40) = bit o i := by
  have hk : k % 40 < 40 := Nat.mod_lt _ (by decide)
  rw [bit_eq, BitVec.getLsbD_rotateLeft_of_le hk, bit_eq]
  by_cases h : i + k % 40 < 40
  · have hj : (i + k) % 40 = i + k % 40 := by omega
    have hge : ¬ i + k % 40 < k % 40 := by omega
    rw [hj, decide_eq_false hge, cond_false, decide_eq_true h, Bool.true_and, Nat.add_sub_cancel]
  · have hj : (i + k) % 40 = i + k % 40 - 40 := by omega
    have hlt : i + k % 40 - 40 < k % 40 := by omega
    have hsrc : 40 - k % 40 + (i + k % 40 - 40) = i := by omega
    rw [hj, decide_eq_true hlt, cond_true, hsrc]

/-- `signed` is two's complement at the width it names. -/
theorem signed_eq_toInt (n v : Nat) : signed n v = (BitVec.ofNat n v).toInt := by
  rw [BitVec.toInt_eq_toNat_cond, BitVec.toNat_ofNat, signed]

/-- Below bit 39, the extension of O from bit k is the sign extension of its low k + 1 bits. -/
theorem sextFrom_eq_signExtend (o : Word) {k : Nat} (h : k < 39) :
    sextFrom o k = (BitVec.ofNat (k + 1) o.toNat).signExtend 40 := by
  rw [sextFrom, if_neg (Nat.not_le.2 h), signed_eq_toInt, wordI, BitVec.signExtend]

theorem sextFrom_of_le (o : Word) {k : Nat} (h : 39 ≤ k) : sextFrom o k = o := if_pos h

theorem bit_sextFrom {i : Nat} (o : Word) (k : Nat) (hi : i < 40) : bit (sextFrom o k) i = bit o (min i k) := by
  by_cases h : 39 ≤ k
  · rw [sextFrom_of_le o h, Nat.min_eq_left (by omega)]
  · rw [sextFrom_eq_signExtend o (by omega), bit_eq, BitVec.getLsbD_signExtend]
    by_cases hk : i < k + 1
    · rw [if_pos hk, BitVec.getLsbD_ofNat, Nat.min_eq_left (by omega)]
      rw [decide_eq_true hi, decide_eq_true hk, Bool.true_and, Bool.true_and]
      rfl
    · rw [if_neg hk, BitVec.msb_eq_getLsbD_last, BitVec.getLsbD_ofNat, Nat.min_eq_right (by omega)]
      rw [decide_eq_true hi, decide_eq_true (by omega : k + 1 - 1 < k + 1), Bool.true_and, Bool.true_and]
      rfl

/-! ### The obligation -/

/-- Settles O14, operation by operation: the flags by `outShift_flags` and `names_flagsZN`, the results bit by bit. -/
theorem aluShiftResults : Obligations.AluShiftResults := by
  intro o t c dc k
  refine ⟨?shl, ?shr, ?sar, ?rol, ?sext⟩
  case shl =>
    obtain ⟨fl, hout, hzero, hpos⟩ := outShift_flags k (o <<< k) (k ≤ 40 && bit o (40 - k))
    exact ⟨_, fl, hout, fun _ hi => bit_shiftLeft o k hi, fun h => BitVec.shiftLeft_eq_zero h,
      fun h => ⟨by rw [h, BitVec.shiftLeft_zero], hzero h⟩, hpos⟩
  case shr =>
    obtain ⟨fl, hout, hzero, hpos⟩ := outShift_flags k (o >>> k) (k ≤ 40 && bit o (k - 1))
    exact ⟨_, fl, hout, fun i _ => bit_ushiftRight o k i, fun h => BitVec.ushiftRight_eq_zero h,
      fun h => ⟨by rw [h, BitVec.ushiftRight_zero], hzero h⟩, hpos⟩
  case sar =>
    obtain ⟨fl, hout, hzero, hpos⟩ := outShift_flags k (o.sshiftRight k) (if k ≤ 40 then bit o (k - 1) else o.msb)
    rw [sar_carry] at hpos
    refine ⟨_, fl, hout, fun _ hi => bit_sshiftRight o k hi, fun h i hi => ?_,
      fun h => ⟨by rw [h, BitVec.sshiftRight_zero], hzero h⟩, hpos⟩
    rw [bit_sshiftRight o k hi, Nat.min_eq_left (by omega)]
  case rol => exact ⟨_, _, rfl, names_flagsZN _, fun _ hi => bit_rotateLeft o k hi⟩
  case sext => exact ⟨_, _, rfl, names_flagsZN _, fun h => sextFrom_of_le o h, fun _ hi => bit_sextFrom o k hi⟩

end Sys2Proof.Machine
end

section
/-!
The rules of the binding loader (file 12) that its commands share: when a command acts, which registers an interrupt, an
event and a rejection write, and what the loader's own state keeps.
-/
namespace Sys2Proof.Machine

/-! ### When a command of the loader acts -/

theorem State.inReset_iff (s : State) : s.inReset = true ↔ s.pins.porstLow = true ∨ s.pins.brown ≠ [] := by
  rw [State.inReset, Bool.or_eq_true, Bool.not_eq_true', List.isEmpty_eq_false_iff]

theorem State.loading_iff (s : State) (n : Nat) : s.loading n = true ↔
    ¬(s.pins.porstLow = true ∨ s.pins.brown ≠ []) ∧ s.fld cfgStat 31 28 = n ∧ s.ldr.fail = none := by
  rw [State.loading, Bool.and_eq_true, Bool.and_eq_true, Bool.not_eq_true', ← Bool.not_eq_true, s.inReset_iff, and_assoc,
    beq_iff_eq, Option.isNone_iff_eq_none, State.phase]

theorem State.sealable_iff (s : State) : s.sealable = true ↔
    (¬(s.pins.porstLow = true ∨ s.pins.brown ≠ []) ∧ s.fld cfgStat 31 28 = 6 ∧ s.ldr.fail = none) ∧ s.ldr.setUp = true := by
  rw [State.sealable, Bool.and_eq_true, State.loading_iff]

/-! ### Registers that an operation leaves -/

theorem Touches.reg {l : List Part} {s t : State} (h : Touches l s t) (hl : Part.regs ∉ l) (q : Nat) :
    t.reg q = s.reg q := by
  have e : t.regs = s.regs := h.1 .regs hl
  rw [State.reg, e, State.reg]

theorem Touches.ldr {l : List Part} {s t : State} (h : Touches l s t) (hl : Part.ldr ∉ l) : t.ldr = s.ldr := h.1 .ldr hl

theorem Touches.flash {l : List Part} {s t : State} (h : Touches l s t) (hl : Part.flash ∉ l) : t.flash = s.flash :=
  h.1 .flash hl

theorem Touches.pair {l : List Part} {s t : State} (h : Touches l s t) (hl : Part.pair ∉ l) : t.pair = s.pair :=
  h.1 .pair hl

theorem State.fld_of_reg {s t : State} {q : Nat} (h : t.reg q = s.reg q) (hi lo : Nat) : t.fld q hi lo = s.fld q hi lo :=
  congrArg (bits · hi lo) h

theorem State.flag_of_reg {s t : State} {q : Nat} (h : t.reg q = s.reg q) (i : Nat) : t.flag q i = s.flag q i :=
  congrArg (bit · i) h

/-- A cause writes one bit of one register (R329). -/
theorem State.reg_cause (s : State) (i q : Nat) :
    (s.cause i).reg q = if q = hstIstat (i / 32) then putBit (s.reg q) (i % 32) true else s.reg q := by
  have hm (u : State) : (u.message i).reg q = u.reg q := (u.message_touches i).reg (by decide) q
  have hs (u : State) (h : u.reg = s.reg) : (u.setFlag (hstIstat (i / 32)) (i % 32) true).reg q =
      if q = hstIstat (i / 32) then putBit (s.reg q) (i % 32) true else s.reg q := by
    rw [State.reg_setFlag, h]
    split
    · next e => rw [e]
    · rfl
  unfold State.cause
  dsimp only
  by_cases hw : s.flag (hstIstat (i / 32)) (i % 32) = true
  · rw [if_pos hw, hw, if_neg (by simp)]
    exact hs s rfl
  · rw [if_neg hw]
    split
    · exact (hm _).trans (hs _ rfl)
    · exact hs _ rfl

theorem State.reg_cause_ne (s : State) {i q : Nat} (h : q ≠ hstIstat (i / 32)) : (s.cause i).reg q = s.reg q := by
  rw [State.reg_cause, if_neg h]

theorem State.message_mem (s : State) (i : Nat) : (s.message i).mem = s.mem := by
  unfold State.message State.sendMsi
  split
  · rfl
  · split
    · rfl
    · split <;> rfl

theorem State.cause_mem (s : State) (i : Nat) : (s.cause i).mem = s.mem := by
  unfold State.cause
  dsimp only
  split <;> split
  · exact State.message_mem _ i
  · rfl
  · exact State.message_mem _ i
  · rfl

/-- The cause that the loader raises at its end (R329): the part is sealed, or the load has failed. -/
theorem State.flag_cause_loaded (s : State) : (s.cause 29).flag (hstIstat 0) 29 = true := by
  rw [State.flag, State.reg_cause, if_pos rfl]
  exact bit_putBit_self _ _ (by decide)

/-- An event leaves the CFG_, MIR_ and AGE_ registers (R202, R203). -/
theorem State.reg_occur (s : State) (n : Nat) {q : Nat} (h : 0xC0000 ≤ q) (h' : q < 0x120000) :
    (s.occur n).reg q = s.reg q := by
  have hc (u : State) (i : Nat) : (u.cause i).reg q = u.reg q := u.reg_cause_ne (by simp only [hstIstat]; omega)
  have hp (u : State) : (u.setPending n).reg q = u.reg q := by
    unfold State.setPending
    split
    · rfl
    · split
      · rw [State.reg_count, if_neg]
        have hb := bits_lt (u.reg (evtRoute n)) 23 17
        have hw := bits_lt (u.reg (evtRoute n)) 16 16
        simp only [evtPsum, State.fld]
        omega
      · rfl
  have hf (u : State) : (u.forward n).reg q = u.reg q := (u.forward_touches n).reg (by decide) q
  have hr (u : State) : (u.route n).reg q = u.reg q := by
    unfold State.route
    split
    · exact hf u
    · split
      · exact hf u
      · exact hp u
    · rfl
    · rfl
    · rfl
    · exact hp u
  have he (u : State) (b : Nat) : (u.setFlag errSum b true).reg q = u.reg q := by
    rw [State.reg_setFlag, if_neg (by simp only [errSum]; omega)]
  unfold State.occur
  dsimp only
  rw [hr]
  cases eventCause n with
  | none => cases sumBit n with
    | none => rfl
    | some b => exact he s b
  | some i => cases sumBit n with
    | none => exact hc s i
    | some b => exact (hc _ i).trans (he s b)

/-! ### Phases, rejections and the end of a load -/

theorem State.reg_toPhase (s : State) {n q : Nat} (h : q ≠ cfgStat) : (s.toPhase n).reg q = s.reg q :=
  (s.reg_setFld cfgStat q 31 28 n).trans (if_neg h)

theorem State.fld_toPhase (s : State) (n : Nat) : (s.toPhase n).fld cfgStat 31 28 = n % 16 :=
  s.fld_setFld_self cfgStat n (by decide)

/-- The flags of CFG_STAT below PHASE. -/
theorem State.flag_toPhase (s : State) (n : Nat) {i : Nat} (h : i < 28) : (s.toPhase n).flag cfgStat i = s.flag cfgStat i :=
  s.flag_setFld_disj cfgStat cfgStat n (.inr (.inl h))

theorem State.toPhase_mem (s : State) (n : Nat) : (s.toPhase n).mem = s.mem := rfl

theorem State.toPhase_peek (s : State) (n a : Nat) : (s.toPhase n).peek a = s.peek a := rfl

/-- What CFG_WHY shows of the bank rejected (R249). -/
theorem State.fld_rejectBank (s : State) (b : Bool) (w : Why) :
    let t := s.rejectBank b w
    let y := cfgWhy b.toNat
    t.fld y 39 32 = w.code % 256 ∧ t.fld y 31 24 = w.sect % 256 ∧ t.fld y 23 0 = w.detail % 2 ^ 24 := by
  have hr : (s.rejectBank b w).reg (cfgWhy b.toNat) =
      putBits (putBits (word (w.detail % 2 ^ 24)) 31 24 w.sect) 39 32 w.code := s.reg_setReg_self _ _
  simp only [State.fld, hr]
  refine ⟨bits_putBits_self _ _ (by decide), ?_, ?_⟩
  · exact (bits_putBits_disj _ _ (by decide)).trans (bits_putBits_self _ _ (by decide))
  · rw [bits_putBits_disj _ _ (by decide), bits_putBits_disj _ _ (by decide)]
    simp only [bits, word, BitVec.toNat_ofNat, Nat.shiftRight_zero]
    omega

theorem State.reg_rejectBank_ne (s : State) {b : Bool} {w : Why} {q : Nat} (h : q ≠ cfgWhy b.toNat) :
    (s.rejectBank b w).reg q = s.reg q := s.reg_setReg_ne _ h

theorem cfgWhy_ne_cfgStat (b : Bool) : cfgWhy b.toNat ≠ cfgStat := by cases b <;> decide

theorem cfgWhy_ne_hstIstat (b : Bool) : cfgWhy b.toNat ≠ hstIstat 0 := by cases b <;> decide

/-- Both banks are rejected: the loader stops FAILED (R255). -/
theorem State.giveUp_of_both {s : State} (h : ∀ b, b ∈ s.ldr.rejected) : s.giveUp = (s.toPhase 8).cause 29 :=
  if_pos (by simp [h])

/-- One bank is left: the loader goes on. -/
theorem State.giveUp_of_left {s : State} {b : Bool} (h : b ∉ s.ldr.rejected) : s.giveUp = s := by
  refine if_neg fun hb => h ?_
  simp only [Bool.and_eq_true, List.contains_iff_mem] at hb
  cases b
  · exact hb.1
  · exact hb.2

theorem State.giveUp_stops {s : State} (h : ∀ b, b ∈ s.ldr.rejected) :
    s.giveUp.fld cfgStat 31 28 = 8 ∧ s.giveUp.flag (hstIstat 0) 29 = true := by
  rw [State.giveUp_of_both h]
  refine ⟨?_, State.flag_cause_loaded _⟩
  rw [State.fld_of_reg (State.reg_cause_ne _ (by decide)), State.fld_toPhase]

theorem State.reg_giveUp (s : State) {q : Nat} (h : q ≠ cfgStat) (h' : q ≠ hstIstat 0) : s.giveUp.reg q = s.reg q := by
  unfold State.giveUp
  split
  · rw [State.reg_cause_ne _ h', State.reg_toPhase _ h]
  · rfl

/-- Giving up keeps the loader's state but for the count of failed reads. -/
theorem State.ldr_giveUp (s : State) : ∃ n, s.giveUp.ldr = { s.ldr with retries := n } := by
  unfold State.giveUp
  split
  · exact ⟨0, (State.cause_touches _ 29).ldr (by decide)⟩
  · exact ⟨s.ldr.retries, rfl⟩

theorem State.rejectBoth_stops (s : State) (code : Nat) :
    let t := s.rejectBoth code
    t.fld cfgStat 31 28 = 8 ∧ t.flag (hstIstat 0) 29 = true ∧ ∀ b : Bool, t.fld (cfgWhy b.toNat) 39 32 = code % 256 := by
  let u := s.rejectBank false ⟨code, 0xFF, 0⟩
  let v := u.rejectBank true ⟨code, 0xFF, 0⟩
  have hv : ∀ b, b ∈ v.ldr.rejected := by
    intro b
    cases b
    · exact .tail _ (.head _)
    · exact .head _
  obtain ⟨hphase, hcause⟩ := State.giveUp_stops hv
  refine ⟨hphase, hcause, fun b => ?_⟩
  have hg : v.giveUp.fld (cfgWhy b.toNat) 39 32 = v.fld (cfgWhy b.toNat) 39 32 :=
    State.fld_of_reg (State.reg_giveUp v (cfgWhy_ne_cfgStat b) (cfgWhy_ne_hstIstat b)) 39 32
  refine hg.trans ?_
  cases b
  · have hu : v.fld (cfgWhy 0) 39 32 = u.fld (cfgWhy 0) 39 32 := State.fld_of_reg (State.reg_rejectBank_ne u (by decide)) 39 32
    exact hu.trans (s.fld_rejectBank false _).1
  · exact (u.fld_rejectBank true _).1

/-! ### The bytes of the flash -/

theorem State.flashSize_congr {s t : State} (h : t.ldr.sfdp = s.ldr.sfdp) : t.flashSize = s.flashSize := by
  rw [State.flashSize, h, State.flashSize]

theorem State.flashBytes_congr {s t : State} (h : t.flash = s.flash) (a n : Nat) : t.flashBytes a n = s.flashBytes a n := by
  have e : t.flashByte = s.flashByte := by funext x; rw [State.flashByte, h, State.flashByte]
  rw [State.flashBytes, e, State.flashBytes]

theorem State.header_congr {s t : State} (h : t.flash = s.flash) (hs : t.ldr.sfdp = s.ldr.sfdp) (b : Bool) :
    t.header b = s.header b := by
  rw [State.header, State.flashBytes_congr h, State.bankStart, State.flashSize_congr hs]
  rfl

theorem State.isCandidate_congr {s t : State} (h : t.flash = s.flash) (hs : t.ldr.sfdp = s.ldr.sfdp) (b : Bool) :
    t.isCandidate b = s.isCandidate b := by
  rw [State.isCandidate, State.header_congr h hs, State.isCandidate]

end Sys2Proof.Machine
end

section
/-!
DISCOVERY, HEADER and FLASH_READ_RETRY: the mode of the flash, the choice of the bank (R240, R241, R247).
-/
namespace Sys2Proof.Machine

/-! ### Discovery -/

theorem State.discover_rejects (s : State) {d : Option Sfdp} (h : d = none ∨ ∃ x, d = some x ∧ x.densityMbit < 256) :
    s.discover d = s.rejectBoth 1 := by
  rcases h with rfl | ⟨x, rfl, hx⟩
  · rfl
  · exact if_pos hx

theorem State.discover_finds (s : State) {x : Sfdp} (h : 256 ≤ x.densityMbit) :
    let t := s.discover (some x)
    t.fld cfgStat 31 28 = 2 ∧ t.ldr.sfdp = some x ∧ t.ldr.octal = s.useOctal x ∧ t.flag cfgStat 23 = !t.ldr.octal := by
  rw [State.discover, if_neg (Nat.not_lt.2 h)]
  refine ⟨State.fld_toPhase _ 2, rfl, rfl, ?_⟩
  exact (State.flag_toPhase _ 2 (by decide)).trans (State.flag_setFlag_self _ _ _ (by decide))

theorem State.useOctal_iff (s : State) (x : Sfdp) : s.useOctal x = true ↔ x.octal = true ∧ 50 ≤ s.flashLimit x := by
  rw [State.useOctal, Bool.and_eq_true, decide_eq_true_iff]

/-! ### The choice of the bank -/

/-- What makes a bank a candidate (R247): MAGIC, HDRCRC and DEVID. -/
def State.goodHeader (s : State) (b : Bool) : Prop :=
  fieldAt (s.header b) 0 4 = 0x5A544249 ∧ fieldAt (s.header b) 0x18 4 = (crc32c ((s.header b).take 0x18)).toNat ∧
    fieldAt (s.header b) 0x1C 4 = 0x1024

theorem State.isCandidate_iff (s : State) (b : Bool) : s.isCandidate b = true ↔ s.goodHeader b := by
  simp only [State.isCandidate, State.goodHeader, Bool.and_eq_true, beq_iff_eq, and_assoc]

theorem State.isCandidate_eq_false {s : State} {b : Bool} (h : ¬s.goodHeader b) : s.isCandidate b = false :=
  Bool.eq_false_iff.2 (mt (s.isCandidate_iff b).1 h)

theorem State.sift_rejects {s : State} {b : Bool} (h : b ∉ s.ldr.rejected) (hc : s.isCandidate b = false) :
    s.sift b = s.rejectBank b ⟨2, 0xFF, 0⟩ := if_neg (by simp [h, hc])

theorem State.sift_candidate {s : State} {b : Bool} (hc : s.isCandidate b = true) : s.sift b = s := if_pos (by simp [hc])

theorem State.sift_flash (s : State) (b : Bool) : (s.sift b).flash = s.flash := (s.sift_touches b).flash (by decide)

theorem State.sift_sfdp (s : State) (b : Bool) : (s.sift b).ldr.sfdp = s.ldr.sfdp := by
  unfold State.sift
  split <;> rfl

theorem State.isCandidate_sift (s : State) (b c : Bool) : (s.sift b).isCandidate c = s.isCandidate c :=
  State.isCandidate_congr (s.sift_flash b) (s.sift_sfdp b) c

theorem State.reg_sift_ne (s : State) {b : Bool} {q : Nat} (h : q ≠ cfgWhy b.toNat) : (s.sift b).reg q = s.reg q := by
  unfold State.sift
  split
  · rfl
  · exact s.reg_rejectBank_ne h

theorem State.mem_rejected_sift (s : State) (b c : Bool) :
    c ∈ (s.sift b).ldr.rejected ↔ c ∈ s.ldr.rejected ∨ c = b ∧ s.isCandidate b = false := by
  by_cases hc : s.isCandidate b = true
  · simp [State.sift_candidate hc, hc]
  · rw [Bool.not_eq_true] at hc
    by_cases hb : b ∈ s.ldr.rejected
    · have : s.sift b = s := if_pos (by simp [hb])
      rw [this]
      refine ⟨.inl, fun h => h.elim id fun e => e.1 ▸ hb⟩
    · rw [State.sift_rejects hb hc]
      simp [State.rejectBank, State.onLdr, hc, or_comm]

/-- Both headers have been looked at. -/
def State.sifted (s : State) : State := (s.sift false).sift true

theorem State.choose_eq (s : State) : s.choose = if s.sifted.giveUp.phase = 8 then s.sifted.giveUp
    else (s.sifted.giveUp.onLdr fun l => { l with bank := s.sifted.giveUp.firstBank }).toPhase 3 := rfl

theorem State.mem_rejected_sifted {s : State} (h : s.ldr.rejected = []) (b : Bool) :
    b ∈ s.sifted.ldr.rejected ↔ s.isCandidate b = false := by
  rw [State.sifted, State.mem_rejected_sift, State.mem_rejected_sift, State.isCandidate_sift, h]
  cases b <;> simp

theorem State.header_sifted (s : State) (b : Bool) : s.sifted.header b = s.header b :=
  State.header_congr ((State.sift_flash _ _).trans (State.sift_flash _ _))
    ((State.sift_sfdp _ _).trans (State.sift_sfdp _ _)) b

/-- A bank that is no candidate shows reason 2 (R247). -/
theorem State.fld_sifted {s : State} (h : s.ldr.rejected = []) {b : Bool} (hc : s.isCandidate b = false) :
    s.sifted.fld (cfgWhy b.toNat) 39 32 = 2 ∧ s.sifted.fld (cfgWhy b.toNat) 31 24 = 0xFF := by
  have hw (u : State) : (u.rejectBank b ⟨2, 0xFF, 0⟩).fld (cfgWhy b.toNat) 39 32 = 2 ∧
      (u.rejectBank b ⟨2, 0xFF, 0⟩).fld (cfgWhy b.toNat) 31 24 = 0xFF :=
    ⟨(u.fld_rejectBank b _).1, (u.fld_rejectBank b _).2.1⟩
  cases b with
  | false =>
    have e : s.sifted.reg (cfgWhy 0) = (s.sift false).reg (cfgWhy 0) := State.reg_sift_ne _ (by decide)
    have r : s.sift false = s.rejectBank false ⟨2, 0xFF, 0⟩ := State.sift_rejects (by simp [h]) hc
    rw [r] at e
    exact ⟨(State.fld_of_reg e 39 32).trans (hw s).1, (State.fld_of_reg e 31 24).trans (hw s).2⟩
  | true =>
    have r : s.sifted = (s.sift false).rejectBank true ⟨2, 0xFF, 0⟩ := by
      refine State.sift_rejects ?_ ((s.isCandidate_sift false true).trans hc)
      rw [State.mem_rejected_sift, h]
      simp
    rw [r]
    exact hw _

theorem State.choose_rejects {s : State} (h : s.ldr.rejected = []) {b : Bool} (hc : s.isCandidate b = false) :
    s.choose.fld (cfgWhy b.toNat) 39 32 = 2 ∧ s.choose.fld (cfgWhy b.toNat) 31 24 = 0xFF := by
  have e : s.choose.reg (cfgWhy b.toNat) = s.sifted.reg (cfgWhy b.toNat) := by
    rw [← State.reg_giveUp s.sifted (cfgWhy_ne_cfgStat b) (cfgWhy_ne_hstIstat b), State.choose_eq]
    split
    · rfl
    · exact State.reg_toPhase _ (cfgWhy_ne_cfgStat b)
  obtain ⟨hcode, hsect⟩ := State.fld_sifted h hc
  exact ⟨(State.fld_of_reg e 39 32).trans hcode, (State.fld_of_reg e 31 24).trans hsect⟩

theorem State.choose_fails {s : State} (h : s.ldr.rejected = []) (hc : ∀ b, s.isCandidate b = false) :
    s.choose.fld cfgStat 31 28 = 8 ∧ s.choose.flag (hstIstat 0) 29 = true := by
  have hg := State.giveUp_stops (s := s.sifted) fun b => (State.mem_rejected_sifted h b).2 (hc b)
  have e : s.choose = s.sifted.giveUp := if_pos hg.1
  rw [e]
  exact hg

/-- The bank of the greater SEQ, Recto when equal, the only candidate where there is one (R247). -/
theorem State.choose_loads {s : State} (h : s.ldr.rejected = []) (hp : s.fld cfgStat 31 28 = 2) {b : Bool}
    (hc : s.isCandidate b = true) : s.choose.fld cfgStat 31 28 = 3 ∧ (s.choose.ldr.bank = true ↔ s.isCandidate true = true ∧
      (s.isCandidate false = true → fieldAt (s.header false) 8 4 < fieldAt (s.header true) 8 4)) := by
  have hg : s.sifted.giveUp = s.sifted :=
    State.giveUp_of_left (b := b) (by rw [State.mem_rejected_sifted h, hc]; decide)
  have hphase : s.sifted.phase = 2 := by
    have e : s.sifted.reg cfgStat = s.reg cfgStat := (State.reg_sift_ne _ (by decide)).trans (State.reg_sift_ne _ (by decide))
    exact (State.fld_of_reg e 31 28).trans hp
  rw [State.choose_eq, hg, if_neg (by rw [hphase]; decide)]
  refine ⟨State.fld_toPhase _ 3, ?_⟩
  show s.sifted.firstBank = true ↔ _
  have hm (c : Bool) : s.sifted.ldr.rejected.contains c = !s.isCandidate c := by
    rw [Bool.eq_iff_iff, List.contains_iff_mem, State.mem_rejected_sifted h, Bool.not_eq_true']
  rw [State.firstBank, hm, hm, s.header_sifted, s.header_sifted]
  cases b <;> simp [hc]
  cases s.isCandidate false <;> simp

/-- HEADER in its phase, with no bank rejected before (R247). -/
theorem State.choose_phase {s : State} (h : s.ldr.rejected = []) (hp : s.fld cfgStat 31 28 = 2) :
    (∀ b, ¬s.goodHeader b → s.choose.fld (cfgWhy b.toNat) 39 32 = 2 ∧ s.choose.fld (cfgWhy b.toNat) 31 24 = 0xFF) ∧
    (¬s.goodHeader false → ¬s.goodHeader true → s.choose.fld cfgStat 31 28 = 8 ∧ s.choose.flag (hstIstat 0) 29 = true) ∧
    (s.goodHeader false ∨ s.goodHeader true → s.choose.fld cfgStat 31 28 = 3 ∧ (s.choose.ldr.bank = true ↔
      s.goodHeader true ∧ (s.goodHeader false → fieldAt (s.header false) 8 4 < fieldAt (s.header true) 8 4))) := by
  refine ⟨fun b hb => State.choose_rejects h (State.isCandidate_eq_false hb), fun h0 h1 => ?_, fun hc => ?_⟩
  · exact State.choose_fails h (Bool.rec (State.isCandidate_eq_false h0) (State.isCandidate_eq_false h1))
  · simp only [← State.isCandidate_iff] at hc ⊢
    exact hc.elim (State.choose_loads h hp) (State.choose_loads h hp)

/-! ### Reads without a data strobe -/

theorem State.noStrobe_again {s : State} {a n : Nat} (hn : (if a = s.ldr.retryAt then s.ldr.retries + 1 else 1) = n)
    (h : n < 4) : s.noStrobe a = { s with ldr := { s.ldr with retryAt := a, retries := n } } := by
  rw [State.noStrobe, hn, if_pos h]
  rfl

/-- The fourth failure in phase 2 rejects the bank that holds the address (R241). -/
theorem State.noStrobe_header {s : State} {a : Nat} (h : 4 ≤ if a = s.ldr.retryAt then s.ldr.retries + 1 else 1)
    (hp : s.fld cfgStat 31 28 = 2) :
    let b := decide (s.flashSize / 2 ≤ a)
    b ∈ (s.noStrobe a).ldr.rejected ∧ (s.noStrobe a).fld (cfgWhy b.toNat) 39 32 = 14 := by
  let n := if a = s.ldr.retryAt then s.ldr.retries + 1 else 1
  let b := decide (s.flashSize / 2 ≤ a)
  let u := (s.onLdr fun l => { l with retryAt := a, retries := n }).rejectBank b ⟨14, 0xFF, a / 8⟩
  have e : s.noStrobe a = u.giveUp := by
    rw [State.noStrobe, if_neg (Nat.not_lt.2 h)]
    exact if_pos hp
  obtain ⟨k, hk⟩ := u.ldr_giveUp
  rw [e, hk]
  refine ⟨.head _, ?_⟩
  rw [State.fld_of_reg (u.reg_giveUp (cfgWhy_ne_cfgStat b) (cfgWhy_ne_hstIstat b))]
  exact (State.fld_rejectBank _ b _).1

/-- The fourth failure in phase 3 is a failure of the load. -/
theorem State.noStrobe_read {s : State} {a : Nat} (h : 4 ≤ if a = s.ldr.retryAt then s.ldr.retries + 1 else 1)
    (hp : s.fld cfgStat 31 28 = 3) :
    (s.noStrobe a).ldr.fail = some ⟨14, 0xFF, a / 8⟩ ∧ (s.noStrobe a).fld cfgStat 31 28 = 3 := by
  let n := if a = s.ldr.retryAt then s.ldr.retries + 1 else 1
  have hne : ¬ s.fld cfgStat 31 28 = 2 := by rw [hp]; decide
  have e : s.noStrobe a = (s.onLdr fun l => { l with retryAt := a, retries := n }).failLoad ⟨14, 0xFF, a / 8⟩ :=
    (if_neg (Nat.not_lt.2 h)).trans (if_neg hne)
  rw [e]
  exact ⟨rfl, hp⟩

end Sys2Proof.Machine
end

section
/-!
READ (R252 phase 3): the one pass over the sections, where it stops, and what it leaves when every section is good.
-/
namespace Sys2Proof.Machine

/-! ### The order of the sections -/

theorem insertSect_perm (x : Nat × Sect) (l : List (Nat × Sect)) : List.Perm (insertSect x l) (x :: l) := by
  induction l with
  | nil => exact .refl _
  | cons y l ih =>
    rw [insertSect]
    split
    · exact .refl _
    · exact (ih.cons y).trans (.swap x y l)

theorem sortSects_perm (l : List (Nat × Sect)) : List.Perm (sortSects l) l := by
  induction l with
  | nil => exact .refl _
  | cons x l ih => exact (insertSect_perm x _).trans (ih.cons x)

/-- The sections of a table with their indices, in the order in which they pass. -/
def passOf (l : List Sect) : List (Nat × Sect) := sortSects (l.mapIdx fun i x => (i, x))

/-- Every section passes, once. -/
theorem passOf_perm (l : List Sect) : List.Perm ((passOf l).map Prod.snd) l := by
  have h : (l.mapIdx fun i x => (i, x)).map Prod.snd = l := List.ext_getElem (by simp) (by simp)
  have p := (sortSects_perm (l.mapIdx fun i x => (i, x))).map Prod.snd
  rwa [h] at p

theorem mem_of_mem_passOf {l : List Sect} {z : Nat × Sect} (h : z ∈ passOf l) : z.2 ∈ l :=
  (passOf_perm l).mem_iff.1 (List.mem_map_of_mem h)

theorem exists_mem_passOf {l : List Sect} {x : Sect} (h : x ∈ l) : ∃ i, (i, x) ∈ passOf l := by
  obtain ⟨⟨i, y⟩, hi, rfl⟩ := List.mem_map.1 ((passOf_perm l).mem_iff.2 h)
  exact ⟨i, hi⟩

/-- A section stands at one place of the pass, and the other sections before and behind it. -/
theorem passOf_split (pre post : List Sect) (x : Sect) : ∃ i a b, passOf (pre ++ x :: post) = a ++ (i, x) :: b ∧
    ∀ z ∈ a ++ b, z.2 ∈ pre ++ post := by
  obtain ⟨i, hi⟩ := exists_mem_passOf (l := pre ++ x :: post) (x := x) (by simp)
  obtain ⟨a, b, hab⟩ := List.append_of_mem hi
  refine ⟨i, a, b, hab, fun z hz => ?_⟩
  have p := passOf_perm (pre ++ x :: post)
  rw [hab, List.map_append, List.map_cons] at p
  have q := (List.perm_middle.symm.trans (p.trans List.perm_middle)).cons_inv
  exact q.mem_iff.1 (by rw [← List.map_append]; exact List.mem_map_of_mem hz)

/-! ### What a pass leaves -/

/-- The loader's state but for what it takes from sections: the records, the relocation entries, the patch file. -/
def Loader.frame (l : Loader) : Loader := { l with recs := [], relocs := [], patch := none }

theorem Loader.fail_of_frame {k l : Loader} (h : k.frame = l.frame) : k.fail = l.fail :=
  (congrArg Loader.fail h :)

theorem Loader.regions_of_frame {k l : Loader} (h : k.frame = l.frame) : k.regions = l.regions :=
  (congrArg Loader.regions h :)

theorem State.readSection_flash (s : State) (start i : Nat) (x : Sect) : (s.readSection start i x).flash = s.flash :=
  (s.readSection_touches start i x).flash (by decide)

theorem State.readSections_of_fail {s : State} (h : s.ldr.fail ≠ none) (start : Nat) (xs : List (Nat × Sect)) :
    s.readSections start xs = s := by
  cases xs with
  | nil => rfl
  | cons x xs => exact if_pos (Option.isSome_iff_ne_none.2 h)

theorem State.readSections_cons {s : State} (h : s.ldr.fail = none) (start : Nat) (x : Nat × Sect)
    (xs : List (Nat × Sect)) :
    s.readSections start (x :: xs) = (s.readSection start x.1 x.2).readSections start xs :=
  if_neg (by rw [h]; decide)

theorem State.readSections_append (s : State) (start : Nat) (xs ys : List (Nat × Sect)) :
    s.readSections start (xs ++ ys) = (s.readSections start xs).readSections start ys := by
  induction xs generalizing s with
  | nil => rfl
  | cons x xs ih =>
    by_cases h : s.ldr.fail = none
    · rw [List.cons_append, State.readSections_cons h, State.readSections_cons h, ih]
    · rw [State.readSections_of_fail h, State.readSections_of_fail h, State.readSections_of_fail h]

/-- A section but a LOAD that keeps its CRC is taken. -/
theorem State.readSection_eq_take {s : State} {start i : Nat} {x : Sect} (hf : s.ldr.fail = none) (hty : x.ty ≠ 2)
    (hcrc : (crc32c (s.flashBytes (start + x.off) x.len)).toNat = x.crc) :
    s.readSection start i x = s.takeSection i x (s.flashBytes (start + x.off) x.len) := by
  unfold State.readSection
  dsimp only
  rw [if_neg hty, hf, if_neg (by decide), if_neg (Classical.not_not.2 hcrc)]

theorem State.readSection_bad_crc {s : State} {start i : Nat} {x : Sect} (hf : s.ldr.fail = none) (hty : x.ty ≠ 2)
    (hcrc : (crc32c (s.flashBytes (start + x.off) x.len)).toNat ≠ x.crc) :
    s.readSection start i x = s.failLoad ⟨5, i, i⟩ := by
  unfold State.readSection
  dsimp only
  rw [if_neg hty, hf, if_neg (by decide), if_pos hcrc]

theorem firstFalse_of_all {l : List Bool} (h : ∀ b ∈ l, b = true) (n : Nat) : firstFalse n l = none := by
  induction l generalizing n with
  | nil => rfl
  | cons b l ih => rw [firstFalse, if_pos (h b (.head _)), ih fun c hc => h c (.tail _ hc)]

/-- What is taken from a section goes into the records, the relocation entries or the patch file. -/
theorem State.takeSection_frame {s : State} (i : Nat) (x : Sect) (bs : List Byte)
    (hreg : x.ty = 1 → ∀ r ∈ s.ldr.regions, r.ends ≠ none) :
    (s.takeSection i x bs).ldr.frame = s.ldr.frame ∧ (s.takeSection i x bs).mem = s.mem := by
  unfold State.takeSection
  by_cases h1 : x.ty = 1
  · have hall : firstFalse 0 (s.ldr.regions.map fun r => r.ends.isSome) = none := by
      refine firstFalse_of_all (fun b hb => ?_) 0
      obtain ⟨r, hr, rfl⟩ := List.mem_map.1 hb
      exact Option.isSome_iff_ne_none.2 (hreg h1 r hr)
    rw [if_pos h1, hall]
    exact ⟨rfl, rfl⟩
  · rw [if_neg h1]
    split
    · exact ⟨rfl, rfl⟩
    · split
      · exact ⟨rfl, rfl⟩
      · split <;> exact ⟨rfl, rfl⟩

/-- Sections that keep their CRC, no LOAD among them, leave the loader without a failure and memory as it was. -/
theorem State.readSections_clean (start : Nat) (xs : List (Nat × Sect)) (s : State) (hf : s.ldr.fail = none)
    (hty : ∀ z ∈ xs, z.2.ty ≠ 2)
    (hcrc : ∀ z ∈ xs, (crc32c (s.flashBytes (start + z.2.off) z.2.len)).toNat = z.2.crc)
    (hreg : ∀ r ∈ s.ldr.regions, r.ends ≠ none) :
    (s.readSections start xs).ldr.frame = s.ldr.frame ∧ (s.readSections start xs).mem = s.mem := by
  induction xs generalizing s with
  | nil => exact ⟨rfl, rfl⟩
  | cons x xs ih =>
    let t := s.readSection start x.1 x.2
    obtain ⟨hframe, hmem⟩ : t.ldr.frame = s.ldr.frame ∧ t.mem = s.mem := by
      rw [show t = _ from State.readSection_eq_take hf (hty x (.head _)) (hcrc x (.head _))]
      exact State.takeSection_frame _ _ _ fun _ => hreg
    have hbytes := State.flashBytes_congr (s.readSection_flash start x.1 x.2)
    obtain ⟨iframe, imem⟩ := ih t ((Loader.fail_of_frame hframe).trans hf) (fun z hz => hty z (.tail _ hz))
      (fun z hz => by rw [hbytes]; exact hcrc z (.tail _ hz)) (by rw [Loader.regions_of_frame hframe]; exact hreg)
    rw [State.readSections_cons hf]
    exact ⟨iframe.trans hframe, imem.trans hmem⟩

/-- A section whose CRC is wrong fails the load, if nothing before it does. -/
theorem State.readSections_bad_crc {start : Nat} {xs : List (Nat × Sect)} {z : Nat × Sect} (s : State) (hz : z ∈ xs)
    (hty : z.2.ty ≠ 2) (hcrc : (crc32c (s.flashBytes (start + z.2.off) z.2.len)).toNat ≠ z.2.crc) :
    (s.readSections start xs).ldr.fail ≠ none := by
  induction xs generalizing s with
  | nil => cases hz
  | cons x xs ih =>
    by_cases hf : s.ldr.fail = none
    · rw [State.readSections_cons hf]
      rcases List.mem_cons.1 hz with rfl | hz
      · rw [State.readSection_bad_crc hf hty hcrc, State.readSections_of_fail]
        · exact Option.some_ne_none _
        · exact Option.some_ne_none _
      · exact ih _ hz (by rw [State.flashBytes_congr (s.readSection_flash start x.1 x.2)]; exact hcrc)
    · rw [State.readSections_of_fail hf]
      exact hf

/-! ### A LOAD section -/

/-- The words of a LOAD payload (R243, R245). -/
def loadPayload (bs : List Byte) : List Word := (range 0 (fieldAt bs 6 4)).map fun j => word (fieldAt bs (10 + 5 * j) 5)

theorem State.pokes_ldr (s : State) (a : Nat) (ws : List Word) : (s.pokes a ws).ldr = s.ldr :=
  (s.pokes_touches a ws).ldr (by decide)

/-- Words of memory after words were written from an address upward. -/
theorem State.peek_pokes (s : State) (a q : Nat) (ws : List Word) :
    (s.pokes a ws).peek q = if a ≤ q then ws.getD (q - a) (s.peek q) else s.peek q := by
  induction ws generalizing s a with
  | nil => simp [State.pokes]
  | cons w ws ih =>
    rw [State.pokes, ih, State.peek_poke]
    rcases Nat.lt_trichotomy q a with h | rfl | h
    · rw [if_neg (by omega), if_neg (by omega), if_neg (by omega)]
    · rw [if_neg (Nat.not_succ_le_self q), if_pos rfl, if_pos (Nat.le_refl q), Nat.sub_self, List.getD_cons_zero]
    · have e : q - a = (q - (a + 1)) + 1 := by omega
      rw [if_pos (Nat.succ_le_of_lt h), if_neg (Nat.ne_of_gt h), if_pos (Nat.le_of_lt h), e, List.getD_cons_succ]

theorem getElem?_range {a n j : Nat} (h : j < n) : (range a n)[j]? = some (a + j) := by
  have hl : j < (range a n).length := by rwa [length_range]
  have hd := getD_range a n j 0 h
  rw [List.getD_eq_getElem?_getD, List.getElem?_eq_getElem hl, Option.getD_some] at hd
  rw [List.getElem?_eq_getElem hl, hd]

theorem getD_loadPayload (bs : List Byte) {j : Nat} (h : j < fieldAt bs 6 4) (d : Word) :
    (loadPayload bs).getD j d = word (fieldAt bs (10 + 5 * j) 5) := by
  rw [loadPayload, List.getD_eq_getElem?_getD, List.getElem?_map, getElem?_range h, Option.map_some, Option.getD_some,
    Nat.zero_add]

theorem State.peek_pokes_loadPayload (s : State) (a : Nat) (bs : List Byte) :
    let t := s.pokes a (loadPayload bs)
    let n := fieldAt bs 6 4
    (∀ j, j < n → t.peek (a + j) = word (fieldAt bs (10 + 5 * j) 5)) ∧ ∀ q, q < a ∨ a + n ≤ q → t.peek q = s.peek q := by
  refine ⟨fun j hj => ?_, fun q hq => ?_⟩
  · rw [State.peek_pokes, if_pos (Nat.le_add_right a j), Nat.add_sub_cancel_left, getD_loadPayload bs hj]
  · rw [State.peek_pokes]
    split
    · have hl : (loadPayload bs).length = fieldAt bs 6 4 := by rw [loadPayload, List.length_map, length_range]
      rw [List.getD_eq_getElem?_getD, List.getElem?_eq_none (by omega), Option.getD_none]
    · rfl

/-- A good LOAD section is written to its region (R245). -/
theorem State.readSection_load {s : State} {start i e top : Nat} {x : Sect} {bs : List Byte} (hf : s.ldr.fail = none)
    (hty : x.ty = 2) (hbs : s.flashBytes (start + x.off) x.len = bs) (hcrc : (crc32c bs).toNat = x.crc)
    (hlen : bs.length = 10 + 5 * fieldAt bs 6 4) (hr : s.region (fieldAt bs 0 2) = some (e, top))
    (hfit : e + fieldAt bs 2 4 + fieldAt bs 6 4 ≤ top) :
    s.readSection start i x = s.pokes (e + fieldAt bs 2 4) (loadPayload bs) := by
  have hl : s.loadWords i bs = s.pokes (e + fieldAt bs 2 4) (loadPayload bs) := by
    unfold State.loadWords
    dsimp only
    rw [if_neg (Classical.not_not.2 hlen), hr]
    exact if_pos hfit
  have ht (u : State) : u.takeSection i x bs = u := by
    unfold State.takeSection
    rw [hty]
    rfl
  unfold State.readSection
  dsimp only
  rw [if_pos hty, hbs, hl, State.pokes_ldr, hf, if_neg (by decide), if_neg (Classical.not_not.2 hcrc), ht]

theorem State.peek_of_mem {s t : State} (h : t.mem = s.mem) (q : Nat) : t.peek q = s.peek q := by
  rw [State.peek, h, State.peek]

/-- A pass with one LOAD section among sections that keep their CRC writes that section's words. -/
theorem State.readSections_one_load {start : Nat} {s : State} {u v : List (Nat × Sect)} {z : Nat × Sect} {e top : Nat}
    (hf : s.ldr.fail = none) (hz : z.2.ty = 2) (hty : ∀ y ∈ u ++ v, y.2.ty ≠ 2)
    (hcrc : ∀ y ∈ u ++ z :: v, (crc32c (s.flashBytes (start + y.2.off) y.2.len)).toNat = y.2.crc)
    (hreg : ∀ r ∈ s.ldr.regions, r.ends ≠ none) {bs : List Byte} (hbs : s.flashBytes (start + z.2.off) z.2.len = bs)
    (hlen : bs.length = 10 + 5 * fieldAt bs 6 4) (hr : s.region (fieldAt bs 0 2) = some (e, top))
    (hfit : e + fieldAt bs 2 4 + fieldAt bs 6 4 ≤ top) :
    (s.readSections start (u ++ z :: v)).ldr.frame = s.ldr.frame ∧
      ∀ q, (s.readSections start (u ++ z :: v)).peek q = (s.pokes (e + fieldAt bs 2 4) (loadPayload bs)).peek q := by
  have hflash : (s.readSections start u).flash = s.flash := (State.readSections_touches ..).flash (by decide)
  obtain ⟨hframe1, hmem1⟩ := State.readSections_clean start u s hf (fun y hy => hty y (List.mem_append_left _ hy))
    (fun y hy => hcrc y (List.mem_append_left _ hy)) hreg
  rw [State.readSections_append]
  generalize s.readSections start u = t at hflash hframe1 hmem1
  have hfail1 : t.ldr.fail = none := (Loader.fail_of_frame hframe1).trans hf
  have hbytes := State.flashBytes_congr hflash
  have hregion : t.region = s.region := by
    funext i
    rw [State.region, Loader.regions_of_frame hframe1, State.region]
  have hload : t.readSection start z.1 z.2 = t.pokes (e + fieldAt bs 2 4) (loadPayload bs) := by
    refine State.readSection_load hfail1 hz ((hbytes _ _).trans hbs) ?_ hlen (by rw [hregion]; exact hr) hfit
    rw [← hbs]
    exact hcrc z (by simp)
  have hldr : (t.pokes (e + fieldAt bs 2 4) (loadPayload bs)).ldr = t.ldr := State.pokes_ldr ..
  have hflash2 : (t.pokes (e + fieldAt bs 2 4) (loadPayload bs)).flash = s.flash :=
    ((State.pokes_touches ..).flash (by decide) : _ = t.flash).trans hflash
  have hpeek (q : Nat) : (t.pokes (e + fieldAt bs 2 4) (loadPayload bs)).peek q =
      (s.pokes (e + fieldAt bs 2 4) (loadPayload bs)).peek q := by
    rw [State.peek_pokes, State.peek_pokes, State.peek_of_mem hmem1]
  rw [State.readSections_cons hfail1, hload]
  obtain ⟨hframe2, hmem2⟩ := State.readSections_clean start v _ (by rw [hldr]; exact hfail1)
    (fun y hy => hty y (List.mem_append_right _ hy))
    (fun y hy => by
      rw [State.flashBytes_congr hflash2]
      exact hcrc y (List.mem_append_right _ (.tail _ hy)))
    (by rw [hldr, Loader.regions_of_frame hframe1]; exact hreg)
  exact ⟨hframe2.trans ((congrArg Loader.frame hldr).trans hframe1), fun q => (State.peek_of_mem hmem2 q).trans (hpeek q)⟩

/-! ### The image -/

/-- The sections of the image named in its header. -/
def State.table (s : State) : List Sect :=
  sectsOf (s.header s.ldr.bank) (fieldAt (s.header s.ldr.bank) 0x14 4)

/-- The loader at the start of the pass, with what the header of the image says. -/
def State.startRead (s : State) : State :=
  let h := s.header s.ldr.bank
  s.onLdr fun r =>
    { r with
      imgLen := fieldAt h 0x10 4, signed := fieldAt h 0xE 2 % 2 == 1, svn := fieldAt h 0xC 1, seqNo := fieldAt h 8 4,
      sects := s.table, regions := s.regionTable (s.bankStart s.ldr.bank) s.table, recs := [], relocs := [],
      patch := none, digest := sha256 (s.flashBytes (s.bankStart s.ldr.bank) (fieldAt h 0x10 4 - 256)) }

theorem State.startRead_mem (s : State) : s.startRead.mem = s.mem := rfl

theorem State.startRead_flash (s : State) : s.startRead.flash = s.flash := rfl

theorem State.startRead_fail (s : State) : s.startRead.ldr.fail = s.ldr.fail := rfl

theorem State.startRead_regions (s : State) : s.startRead.ldr.regions = s.regionTable (s.bankStart s.ldr.bank) s.table := by
  simp only [State.startRead, State.onLdr]

/-- The state in which the pass ends. -/
def State.passed (s : State) : State := s.startRead.readSections (s.bankStart s.ldr.bank) (passOf s.table)

theorem State.readImage_refused {s : State} {w : Why} (h : s.headerWhy (s.header s.ldr.bank) = some w) :
    s.readImage = s.failLoad w := by
  unfold State.readImage
  dsimp only
  rw [h]

theorem State.readImage_eq {s : State} (h : s.headerWhy (s.header s.ldr.bank) = none) :
    s.readImage = if s.passed.ldr.fail.isSome then s.passed else s.passed.toPhase 4 := by
  simp only [State.readImage, h, State.passed, State.startRead, State.table, passOf]
  rfl

theorem State.readImage_fails {s : State} (h : s.headerWhy (s.header s.ldr.bank) = none) (hf : s.passed.ldr.fail ≠ none) :
    s.readImage.fld cfgStat 31 28 = s.fld cfgStat 31 28 ∧ s.readImage.ldr.fail ≠ none := by
  rw [State.readImage_eq h, if_pos (Option.isSome_iff_ne_none.2 hf)]
  refine ⟨State.fld_of_reg (s := s.startRead) ?_ 31 28, hf⟩
  rw [State.passed]
  exact Touches.reg (State.readSections_touches ..) (by decide) cfgStat

/-- A region table whose entries lie in their regions (R250), wherever it stands. -/
theorem State.regionTable_ends {s : State} {start : Nat} {l : List Sect}
    (h : ∀ x ∈ l, x.ty = 1 → ∀ r ∈ regionsOf (s.flashBytes (start + x.off) x.len), r.ends ≠ none) :
    ∀ r ∈ s.regionTable start l, r.ends ≠ none := by
  intro r hr
  unfold State.regionTable at hr
  split at hr
  · next x hx => exact h x (List.mem_of_find?_eq_some hx) (beq_iff_eq.1 (List.find?_some hx :)) r hr
  · cases hr

/-- What stands in the loader once an image has been read: what its header says. -/
def State.hasRead (s t : State) : Prop :=
  let h := s.header s.ldr.bank
  let len := fieldAt h 0x10 4
  t.fld cfgStat 31 28 = 4 ∧ t.ldr.fail = none ∧ t.ldr.imgLen = len ∧ (t.ldr.signed = true ↔ fieldAt h 0xE 2 % 2 = 1) ∧
    t.ldr.digest = sha256 (s.flashBytes (s.bankStart s.ldr.bank) (len - 256)) ∧ t.ldr.sects = s.table

theorem State.hasRead_of_frame {s u : State} (hf : s.ldr.fail = none) (h : u.ldr.frame = s.startRead.ldr.frame) :
    s.hasRead (u.toPhase 4) :=
  ⟨State.fld_toPhase u 4, (Loader.fail_of_frame h).trans hf, (congrArg Loader.imgLen h :),
    (iff_of_eq (congrArg (fun l : Loader => l.signed = true) h :)).trans beq_iff_eq, (congrArg Loader.digest h :),
    (congrArg Loader.sects h :)⟩

theorem State.readImage_passes {s : State} (h : s.headerWhy (s.header s.ldr.bank) = none) (hf : s.ldr.fail = none)
    (hframe : s.passed.ldr.frame = s.startRead.ldr.frame) : s.readImage = s.passed.toPhase 4 := by
  have hn : s.passed.ldr.fail = none := (Loader.fail_of_frame hframe).trans hf
  rw [State.readImage_eq h, if_neg]
  rw [hn]
  decide

section
variable {s : State} (hf : s.ldr.fail = none) (h : s.headerWhy (s.header s.ldr.bank) = none)
  (hcrc : ∀ x ∈ s.table, (crc32c (s.flashBytes (s.bankStart s.ldr.bank + x.off) x.len)).toNat = x.crc)
  (hreg : ∀ x ∈ s.table, x.ty = 1 →
    ∀ r ∈ regionsOf (s.flashBytes (s.bankStart s.ldr.bank + x.off) x.len), r.ends ≠ none)
include hf h hcrc hreg

/-- A sound image without a LOAD section is read, and memory stays. -/
theorem State.readImage_without_load (hty : ∀ x ∈ s.table, x.ty ≠ 2) :
    s.hasRead s.readImage ∧ s.readImage.mem = s.mem := by
  obtain ⟨hframe, hmem⟩ : s.passed.ldr.frame = s.startRead.ldr.frame ∧ s.passed.mem = s.startRead.mem :=
    State.readSections_clean (s.bankStart s.ldr.bank) (passOf s.table) s.startRead (s.startRead_fail.trans hf)
      (fun z hz => hty z.2 (mem_of_mem_passOf hz))
      (fun z hz => by rw [State.flashBytes_congr s.startRead_flash]; exact hcrc z.2 (mem_of_mem_passOf hz))
      (by rw [State.startRead_regions]; exact State.regionTable_ends hreg)
  rw [State.readImage_passes h hf hframe, State.toPhase_mem, hmem, State.startRead_mem]
  exact ⟨State.hasRead_of_frame hf hframe, rfl⟩

/-- A sound image with one LOAD section is read, and its words are placed. -/
theorem State.readImage_with_load {pre post : List Sect} {x y : Sect} {r : Region} {e top : Nat}
    (hl : s.table = pre ++ x :: post) (hx : x.ty = 2) (hty : ∀ z ∈ pre ++ post, z.ty ≠ 2)
    (hy : s.table.find? (fun z => z.ty == 1) = some y) :
    let sect (x : Sect) := s.flashBytes (s.bankStart s.ldr.bank + x.off) x.len
    let bs := sect x
    let n := fieldAt bs 6 4
    let a := e + fieldAt bs 2 4
    bs.length = 10 + 5 * n → (regionsOf (sect y))[fieldAt bs 0 2]? = some r → r.ends = some (e, top) → a + n ≤ top →
    s.hasRead s.readImage ∧ (∀ j, j < n → s.readImage.peek (a + j) = word (fieldAt bs (10 + 5 * j) 5)) ∧
      ∀ q, q < a ∨ a + n ≤ q → s.readImage.peek q = s.peek q := by
  intro sect bs n a hlen hr hends hfit
  obtain ⟨i, u, v, hpass, hothers⟩ := passOf_split pre post x
  rw [← hl] at hpass
  have hregion : s.startRead.region (fieldAt bs 0 2) = some (e, top) := by
    have htable : s.regionTable (s.bankStart s.ldr.bank) s.table = regionsOf (sect y) := by rw [State.regionTable, hy]
    rw [State.region, State.startRead_regions, htable, hr]
    exact hends
  obtain ⟨hframe, hpeek⟩ : s.passed.ldr.frame = s.startRead.ldr.frame ∧
      ∀ q, s.passed.peek q = (s.startRead.pokes a (loadPayload bs)).peek q := by
    rw [State.passed, hpass]
    have hbytes := State.flashBytes_congr s.startRead_flash
    refine State.readSections_one_load (s.startRead_fail.trans hf) hx (fun z hz => hty z.2 (hothers z hz))
      (fun z hz => ?_) ?_ (hbytes _ _) hlen hregion hfit
    · rw [hbytes]
      exact hcrc z.2 (mem_of_mem_passOf (hpass ▸ hz))
    · rw [State.startRead_regions]
      exact State.regionTable_ends hreg
  obtain ⟨hplaced, hkept⟩ := s.startRead.peek_pokes_loadPayload a bs
  rw [State.readImage_passes h hf hframe]
  refine ⟨State.hasRead_of_frame hf hframe, fun j hj => ?_, fun q hq => ?_⟩
  · rw [State.toPhase_peek, hpeek]
    exact hplaced j hj
  · rw [State.toPhase_peek, hpeek, hkept q hq, State.peek_of_mem s.startRead_mem]
end

/-- A section with a wrong CRC fails the load in phase 3 (R249 code 5). -/
theorem State.readImage_bad_crc {s : State} (h : s.headerWhy (s.header s.ldr.bank) = none) {x : Sect} (hx : x ∈ s.table)
    (hty : x.ty ≠ 2) (hcrc : (crc32c (s.flashBytes (s.bankStart s.ldr.bank + x.off) x.len)).toNat ≠ x.crc) :
    s.readImage.fld cfgStat 31 28 = s.fld cfgStat 31 28 ∧ s.readImage.ldr.fail ≠ none := by
  obtain ⟨i, hi⟩ := exists_mem_passOf hx
  refine State.readImage_fails h ?_
  rw [State.passed]
  refine State.readSections_bad_crc s.startRead hi hty ?_
  rw [State.flashBytes_congr s.startRead_flash]
  exact hcrc

end Sys2Proof.Machine
end

section
/-!
VERIFY and RELOCATE (R246, R251, R252 phases 4 and 5).
-/
namespace Sys2Proof.Machine

/-! ### Verifying -/

theorem State.verifyImage_fails {s : State} {w : Why} (h : s.verifyWhy = some w) : s.verifyImage = s.failLoad w := by
  rw [State.verifyImage, h]

/-- The image is verified (R252 phase 4), with or without a signature. -/
def State.verified (t : State) (signed : Bool) : Prop :=
  t.fld cfgStat 31 28 = 5 ∧ t.flag cfgStat 22 = signed ∧ t.ldr.fail = none

theorem State.verifyImage_passes {s : State} (h : s.verifyWhy = none) (hf : s.ldr.fail = none) :
    s.verifyImage.verified s.ldr.signed := by
  rw [State.verifyImage, h]
  exact ⟨State.fld_toPhase _ 5, (State.flag_toPhase _ 5 (by decide)).trans (State.flag_setFlag_self _ _ _ (by decide)), hf⟩

/-- Bytes `o` to `o + n` of the trailer as a big-endian number (R246). -/
def State.trailerPart (s : State) (o n : Nat) : Nat := beNat ((s.trailer.drop o).take n)

/-- The key is the one of the key-hash fuses, where there are any. -/
def State.keyFits (s : State) : Prop := s.flag cfgFuse 33 = true → sha256 ((s.trailer.drop 32).take 96) = Config.fuseKeyHash

/-- The signature of the trailer verifies. -/
def State.signatureFits (s : State) : Bool :=
  ecdsaP384 (s.trailerPart 32 48) (s.trailerPart 80 48) s.ldr.digest.toNat (s.trailerPart 128 48) (s.trailerPart 176 48)

theorem State.verifyWhy_digest {s : State} (h : s.trailerPart 0 32 ≠ s.ldr.digest.toNat) :
    s.verifyWhy = some ⟨6, 0xFF, 0⟩ := if_pos h

theorem State.verifyWhy_unsigned {s : State} (h : s.trailerPart 0 32 = s.ldr.digest.toNat) (hs : s.ldr.signed = false) :
    s.verifyWhy = if s.flag cfgFuse 32 then some ⟨7, 0xFF, 0⟩ else none :=
  (if_neg (Classical.not_not.2 h)).trans (if_pos (by rw [hs]; rfl))

theorem State.verifyWhy_signed {s : State} (h : s.trailerPart 0 32 = s.ldr.digest.toNat) (hs : s.ldr.signed = true) :
    s.verifyWhy = if s.flag cfgFuse 33 && sha256 ((s.trailer.drop 32).take 96) != Config.fuseKeyHash
      then some ⟨7, 0xFF, 0⟩ else if s.signatureFits then none else some ⟨8, 0xFF, 0⟩ :=
  (if_neg (Classical.not_not.2 h)).trans (if_neg (by rw [hs]; decide))

theorem State.keyFits_iff (s : State) : s.keyFits ↔
    ¬(s.flag cfgFuse 33 && sha256 ((s.trailer.drop 32).take 96) != Config.fuseKeyHash) = true := by
  rw [State.keyFits, Bool.and_eq_true, bne_iff_ne, not_and, Classical.not_not]

/-- VERIFY in its phase: an image without a signature. -/
theorem State.verifyImage_unsigned {s : State} (hf : s.ldr.fail = none) (h : s.trailerPart 0 32 = s.ldr.digest.toNat)
    (hs : s.ldr.signed = false) : (s.flag cfgFuse 32 = true → s.verifyImage = s.failLoad ⟨7, 0xFF, 0⟩) ∧
      (s.flag cfgFuse 32 = false → s.verifyImage.verified false) := by
  have hwhy := State.verifyWhy_unsigned h hs
  refine ⟨fun hq => State.verifyImage_fails (hwhy.trans (if_pos hq)), fun hq => ?_⟩
  rw [← hs]
  exact State.verifyImage_passes (hwhy.trans (if_neg (by rw [hq]; decide))) hf

/-- VERIFY in its phase: an image with a signature. -/
theorem State.verifyImage_signed {s : State} (hf : s.ldr.fail = none) (h : s.trailerPart 0 32 = s.ldr.digest.toNat)
    (hs : s.ldr.signed = true) : (¬s.keyFits → s.verifyImage = s.failLoad ⟨7, 0xFF, 0⟩) ∧
      (s.keyFits → ¬s.signatureFits = true → s.verifyImage = s.failLoad ⟨8, 0xFF, 0⟩) ∧
      (s.keyFits → s.signatureFits = true → s.verifyImage.verified true) := by
  have hwhy := State.verifyWhy_signed h hs
  refine ⟨fun hk => ?_, fun hk hsig => ?_, fun hk hsig => ?_⟩
  · exact State.verifyImage_fails (hwhy.trans (if_pos (Classical.not_not.1 (mt s.keyFits_iff.2 hk))))
  · exact State.verifyImage_fails ((hwhy.trans (if_neg (s.keyFits_iff.1 hk))).trans (if_neg hsig))
  · rw [← hs]
    exact State.verifyImage_passes ((hwhy.trans (if_neg (s.keyFits_iff.1 hk))).trans (if_pos hsig)) hf

/-! ### Relocating -/

/-- RELOCATE with nothing to relocate. -/
theorem State.relocateAll_nil (s : State) (j : Nat) : s.relocateAll j [] = s.toPhase 6 := rfl

theorem State.relocateAll_one_fails {s : State} {j i : Nat} {e : Reloc}
    (h : (s.relocTarget e).bind (s.relocated e) = none) : s.relocateAll j [(i, e)] = s.failLoad ⟨11, i, j⟩ := by
  rw [State.relocateAll, h]

theorem State.relocateAll_one {s : State} {j i : Nat} {e : Reloc} {v : Word}
    (h : (s.relocTarget e).bind (s.relocated e) = some v) :
    s.relocateAll j [(i, e)] = (s.relocWrite e v).toPhase 6 := by
  rw [State.relocateAll, h]
  rfl

/-- The highest bit of the field that an entry relocates. -/
def Reloc.hi (e : Reloc) : Nat := if e.field = 0 then 27 else 19

theorem Reloc.hi_lt (e : Reloc) : e.hi + 1 < 40 := by
  unfold Reloc.hi
  split <;> decide

section
variable {s : State} {e : Reloc} {tb te ab ae : Nat} (hk : e.tkind = 0) (ht : s.region e.tsel = some (tb, te))
  (hin : tb + e.tidx < te) (ha : s.region e.areg = some (ab, ae)) (hfield : e.field = 0 ∨ e.field = 1)
include hk ht hin ha hfield

/-- The relocated value of a word of memory, if the sum fits (R251). -/
theorem State.relocValue : (s.relocTarget e).bind (s.relocated e) =
    if bits (s.peek (tb + e.tidx)) e.hi 0 + ab < 2 ^ (e.hi + 1) ∧ bits (s.peek (tb + e.tidx)) e.hi 0 + ab < ae then
      some (putBits (s.peek (tb + e.tidx)) e.hi 0 (bits (s.peek (tb + e.tidx)) e.hi 0 + ab)) else none := by
  have htarget : s.relocTarget e = some (s.peek (tb + e.tidx)) := by
    unfold State.relocTarget
    rw [hk, ht]
    exact if_pos hin
  have hle : e.field ≤ 1 := by omega
  have hab : ab ≤ bits (s.peek (tb + e.tidx)) e.hi 0 + ab := Nat.le_add_left ..
  rw [htarget, Option.bind_some, State.relocated, ha]
  by_cases h : bits (s.peek (tb + e.tidx)) e.hi 0 + ab < 2 ^ (e.hi + 1) ∧ bits (s.peek (tb + e.tidx)) e.hi 0 + ab < ae
  · rw [if_pos h]
    exact if_pos ⟨hle, h.1, hab, h.2⟩
  · rw [if_neg h]
    exact if_neg fun k => h ⟨k.2.1, k.2.2.2⟩

theorem State.relocate_word_fails {j i : Nat}
    (h : ¬(bits (s.peek (tb + e.tidx)) e.hi 0 + ab < 2 ^ (e.hi + 1) ∧ bits (s.peek (tb + e.tidx)) e.hi 0 + ab < ae)) :
    s.relocateAll j [(i, e)] = s.failLoad ⟨11, i, j⟩ :=
  State.relocateAll_one_fails ((State.relocValue hk ht hin ha hfield).trans (if_neg h))

/-- The base is added to the field; the other bits and words stay (R251). -/
theorem State.relocate_word {j i : Nat} (h1 : bits (s.peek (tb + e.tidx)) e.hi 0 + ab < 2 ^ (e.hi + 1))
    (h2 : bits (s.peek (tb + e.tidx)) e.hi 0 + ab < ae) :
    let t := s.relocateAll j [(i, e)]
    let a := tb + e.tidx
    t.fld cfgStat 31 28 = 6 ∧ bits (t.peek a) e.hi 0 = bits (s.peek a) e.hi 0 + ab ∧
      bits (t.peek a) 39 (e.hi + 1) = bits (s.peek a) 39 (e.hi + 1) ∧ ∀ q, q ≠ a → t.peek q = s.peek q := by
  let a := tb + e.tidx
  let v := putBits (s.peek a) e.hi 0 (bits (s.peek a) e.hi 0 + ab)
  have hw : s.relocWrite e v = s.poke a v := by
    rw [State.relocWrite, if_pos hk, ht]
  have he : s.relocateAll j [(i, e)] = (s.poke a v).toPhase 6 := by
    rw [← hw]
    exact State.relocateAll_one ((State.relocValue hk ht hin ha hfield).trans (if_pos ⟨h1, h2⟩))
  have hpeek (q : Nat) : ((s.poke a v).toPhase 6).peek q = if q = a then v else s.peek q := s.peek_poke a q v
  rw [he]
  refine ⟨State.fld_toPhase _ 6, ?_, ?_, fun q hq => (hpeek q).trans (if_neg hq)⟩
  · rw [hpeek, if_pos rfl, bits_putBits_self _ _ (by have := e.hi_lt; omega)]
    exact Nat.mod_eq_of_lt h1
  · rw [hpeek, if_pos rfl, bits_putBits_disj _ _ (.inr (Nat.lt_succ_self _))]
end

end Sys2Proof.Machine
end

section
/-!
SET_UP (R252 phase 6): the records in order, each checked as it is written, and what follows when every setting can be read.
-/
namespace Sys2Proof.Machine

/-! ### Masks -/

theorem putBits_and_of_disj (w m : Word) {hi lo : Nat} (v : Nat) (h : ∀ i, lo ≤ i → i ≤ hi → m.getLsbD i = false) :
    putBits w hi lo v &&& m = w &&& m := by
  refine BitVec.eq_of_getLsbD_eq fun i hi' => ?_
  rw [BitVec.getLsbD_and, BitVec.getLsbD_and, putBits_getLsbD, decide_eq_true hi', Bool.true_and]
  split
  · next hr => rw [h i hr.1 (Nat.le_of_lt_succ hr.2), Bool.and_false, Bool.and_false]
  · rfl

/-- Writing under a mask sets the bits of every smaller mask. -/
theorem write_and_of_le (w v m k : Word) (h : k &&& m = m) : ((w &&& ~~~k) ||| (v &&& k)) &&& m = v &&& m := by
  refine BitVec.eq_of_getLsbD_eq fun i hi => ?_
  have hb : (k.getLsbD i && m.getLsbD i) = m.getLsbD i := by rw [← BitVec.getLsbD_and, h]
  simp only [BitVec.getLsbD_and, BitVec.getLsbD_or, BitVec.getLsbD_not, decide_eq_true hi, Bool.true_and]
  revert hb
  cases k.getLsbD i <;> cases m.getLsbD i <;> simp

theorem and_eq_and_of_zero (w v : Word) {m : Word} (h : m = 0) : w &&& m = v &&& m := by
  rw [h]
  exact BitVec.and_zero.trans BitVec.and_zero.symm

theorem recMask_and_sl (r : Nat) : recMask r &&& accMask .sl (layout r) = accMask .sl (layout r) := by
  refine BitVec.eq_of_getLsbD_eq fun i _ => ?_
  simp only [recMask, BitVec.getLsbD_and, BitVec.getLsbD_or]
  cases (accMask .sl (layout r)).getLsbD i <;> simp

/-! ### Writing the records -/

theorem State.putRecord_ldr (s : State) (x : Rec) : (s.putRecord x).ldr = s.ldr := (s.putRecord_touches x).ldr (by decide)

theorem State.putRecord_tb (s : State) (x : Rec) : (s.putRecord x).clk.tb = s.clk.tb := by
  have hsel (v : Word) : (s.selectOut v).clk.tb = s.clk.tb := by
    unfold State.selectOut
    dsimp only
    split
    · rfl
    · split <;> rfl
  unfold State.putRecord
  split
  · rfl
  · split
    · exact hsel _
    · rfl

theorem State.putRecords_cons (s : State) {x : Rec} (h : recOk x = true) (l : List Rec) :
    s.putRecords (x :: l) = (s.putRecord x).putRecords l := if_pos h

/-- The first record that may not be written ends set-up under code 10. -/
theorem State.putRecords_bad (s : State) {pre post : List Rec} {x : Rec} (hpre : ∀ y ∈ pre, recOk y = true)
    (hx : recOk x = false) :
    s.putRecords (pre ++ x :: post) = (s.putRecords pre).failLoad ⟨10, x.sect, 8 * x.idx⟩ := by
  induction pre generalizing s with
  | nil => exact if_neg (by rw [hx]; decide)
  | cons y pre ih =>
    have hy := hpre y (.head _)
    rw [List.cons_append, s.putRecords_cons hy, s.putRecords_cons hy]
    exact ih _ fun z hz => hpre z (.tail _ hz)

/-- Records that may be written leave the loader and the time base. -/
theorem State.putRecords_ldr (s : State) {l : List Rec} (h : ∀ y ∈ l, recOk y = true) :
    (s.putRecords l).ldr = s.ldr ∧ (s.putRecords l).clk.tb = s.clk.tb := by
  induction l generalizing s with
  | nil => exact ⟨rfl, rfl⟩
  | cons y l ih =>
    rw [s.putRecords_cons (h y (.head _))]
    obtain ⟨hldr, htb⟩ := ih (s.putRecord y) fun z hz => h z (.tail _ hz)
    exact ⟨hldr.trans (s.putRecord_ldr y), htb.trans (s.putRecord_tb y)⟩

theorem State.putRecords_append (s : State) {k l : List Rec} (h : ∀ y ∈ k, recOk y = true) :
    s.putRecords (k ++ l) = (s.putRecords k).putRecords l := by
  induction k generalizing s with
  | nil => rfl
  | cons y k ih =>
    have hy := h y (.head _)
    rw [List.cons_append, s.putRecords_cons hy, s.putRecords_cons hy]
    exact ih _ fun z hz => h z (.tail _ hz)

/-- CLK_OUTSEL and CLK_STAT, which a CLK_OUTSEL record writes (R361), have no SL field. -/
theorem State.selectOut_sl (s : State) (v : Word) (q : Nat) :
    (s.selectOut v).reg q &&& accMask .sl (layout q) = s.reg q &&& accMask .sl (layout q) := by
  have hstat : accMask .sl (layout clkStat) = 0 := by decide
  have hsel : accMask .sl (layout clkOutsel) = 0 := by decide
  unfold State.selectOut
  dsimp only
  split
  · rw [State.reg_setFlag]
    split
    · next e => exact and_eq_and_of_zero _ _ (e ▸ hstat)
    · rfl
  · split
    · rfl
    · rw [State.onClk_reg, State.reg_setReg]
      split
      · next e => exact and_eq_and_of_zero _ _ (e ▸ hsel)
      · rfl

/-- A record of another register, or of the swappable set, leaves the SL fields of a register. -/
theorem State.putRecord_sl_other (s : State) {y : Rec} {q : Nat} (h : y.idx ≠ q ∨ y.ty = 0xC) :
    (s.putRecord y).reg q &&& accMask .sl (layout q) = s.reg q &&& accMask .sl (layout q) := by
  unfold State.putRecord
  by_cases hy : y.ty = 0xC
  · rw [if_pos hy]
    rfl
  · rw [if_neg hy]
    split
    · exact s.selectOut_sl y.val q
    · dsimp only
      rw [State.reg_setReg_ne _ _ (Ne.symm (h.resolve_right hy))]

/-- A record sets the SL fields of its register. -/
theorem State.putRecord_sl_self (s : State) {x : Rec} (h : x.ty ≠ 0xC) :
    (s.putRecord x).reg x.idx &&& accMask .sl (layout x.idx) = x.val &&& accMask .sl (layout x.idx) := by
  unfold State.putRecord
  rw [if_neg h]
  split
  · next e => exact and_eq_and_of_zero _ _ (by rw [e]; decide)
  · dsimp only
    rw [State.reg_setReg_self]
    exact write_and_of_le _ _ _ _ (recMask_and_sl x.idx)

theorem State.putRecords_sl_other (s : State) {l : List Rec} {q : Nat} (hok : ∀ y ∈ l, recOk y = true)
    (h : ∀ y ∈ l, y.idx ≠ q ∨ y.ty = 0xC) :
    (s.putRecords l).reg q &&& accMask .sl (layout q) = s.reg q &&& accMask .sl (layout q) := by
  induction l generalizing s with
  | nil => rfl
  | cons y l ih =>
    rw [s.putRecords_cons (hok y (.head _)), ih _ (fun z hz => hok z (.tail _ hz)) fun z hz => h z (.tail _ hz)]
    exact s.putRecord_sl_other (h y (.head _))

/-- The last record of a register is the one whose value its SL fields hold. -/
theorem State.putRecords_sl (s : State) {pre post : List Rec} {x : Rec} (hok : ∀ y ∈ pre ++ x :: post, recOk y = true)
    (hx : x.ty ≠ 0xC) (hpost : ∀ y ∈ post, y.idx ≠ x.idx ∨ y.ty = 0xC) :
    (s.putRecords (pre ++ x :: post)).reg x.idx &&& accMask .sl (layout x.idx) =
      x.val &&& accMask .sl (layout x.idx) := by
  rw [s.putRecords_append fun y hy => hok y (List.mem_append_left _ hy), State.putRecords_cons _ (hok x (by simp)),
    State.putRecords_sl_other _ (fun y hy => hok y (List.mem_append_right _ (.tail _ hy))) hpost]
  exact State.putRecord_sl_self _ hx

/-! ### Starting the tenants -/

/-- An F-world tenant at the user level of its world (R199). -/
def State.toUserLevel (s : State) (t : Nat) : State := if s.fWorld t then s.setFld (evtTctx t) 38 37 2 else s

/-- One tenant at the user level of its world, and READY when it is scheduled (R199, R234, R238). -/
def State.startTenant (s : State) (t : Nat) : State :=
  if (s.toUserLevel t).scheduled t then (s.toUserLevel t).setFld (frmTstat t) 39 37 1 else s.toUserLevel t

theorem State.startTenants_eq (s : State) : s.startTenants = (range 0 1024).foldl State.startTenant s := rfl

theorem State.reg_toUserLevel_ne (s : State) {t q : Nat} (h : q ≠ evtTctx t) : (s.toUserLevel t).reg q = s.reg q := by
  unfold State.toUserLevel
  split
  · rw [State.reg_setFld, if_neg h]
  · rfl

theorem State.reg_startTenant_ne (s : State) {t q : Nat} (h1 : q ≠ evtTctx t) (h2 : q ≠ frmTstat t) :
    (s.startTenant t).reg q = s.reg q := by
  unfold State.startTenant
  split
  · rw [State.reg_setFld, if_neg h2, s.reg_toUserLevel_ne h1]
  · exact s.reg_toUserLevel_ne h1

theorem State.scheduled_congr {s u : State} {v : Nat} (h : ∀ k, k < 8 → u.reg (frmSlotA (v / 8) k) = s.reg (frmSlotA (v / 8) k)) :
    u.scheduled v = s.scheduled v := by
  unfold State.scheduled
  rw [Bool.eq_iff_iff, List.any_eq_true, List.any_eq_true]
  refine exists_congr fun k => and_congr_right fun hk => ?_
  have hr := h k (by have := mem_range.1 hk; omega)
  rw [State.flag_of_reg hr, State.fld_of_reg hr]

/-- Starting a tenant leaves the schedule. -/
theorem State.scheduled_startTenant (s : State) {t v : Nat} (ht : t < 1024) (hv : v < 1024) :
    (s.startTenant t).scheduled v = s.scheduled v := by
  refine State.scheduled_congr fun k hk => s.reg_startTenant_ne ?_ ?_
  · simp only [frmSlotA, evtTctx]
    omega
  · simp only [frmSlotA, frmTstat]
    omega

theorem State.startTenant_ready (s : State) {v : Nat} (h : s.scheduled v = true) (hv : v < 1024) :
    (s.startTenant v).fld (frmTstat v) 39 37 = 1 := by
  have hs : (s.toUserLevel v).scheduled v = true := by
    refine Eq.trans (State.scheduled_congr fun k hk => s.reg_toUserLevel_ne ?_) h
    simp only [frmSlotA, evtTctx]
    omega
  rw [State.startTenant, if_pos hs]
  exact State.fld_setFld_self _ _ _ (by decide)

/-- Every scheduled tenant of a list of tenants becomes READY. -/
theorem State.startTenants_ready_of_mem (l : List Nat) (s : State) {v : Nat} (hl : ∀ t ∈ l, t < 1024)
    (hv : v ∈ l ∨ s.fld (frmTstat v) 39 37 = 1) (hlt : v < 1024) (h : s.scheduled v = true) :
    (l.foldl State.startTenant s).scheduled v = true ∧ (l.foldl State.startTenant s).fld (frmTstat v) 39 37 = 1 := by
  induction l generalizing s with
  | nil => exact ⟨h, hv.resolve_left List.not_mem_nil⟩
  | cons t l ih =>
    have ht := hl t (.head _)
    refine ih _ (fun u hu => hl u (.tail _ hu)) ?_ ((s.scheduled_startTenant ht hlt).trans h)
    by_cases e : v = t
    · subst e
      exact .inr (s.startTenant_ready h hlt)
    · refine hv.imp (fun m => (List.mem_cons.1 m).resolve_left e) fun r => ?_
      rw [State.fld_of_reg (s.reg_startTenant_ne ?_ ?_)]
      · exact r
      · simp only [frmTstat, evtTctx]
        omega
      · simp only [frmTstat]
        omega

theorem State.scheduled_startTenants (l : List Nat) (s : State) {v : Nat} (hl : ∀ t ∈ l, t < 1024) (hv : v < 1024) :
    (l.foldl State.startTenant s).scheduled v = s.scheduled v := by
  induction l generalizing s with
  | nil => rfl
  | cons t l ih =>
    exact (ih _ fun u hu => hl u (.tail _ hu)).trans (s.scheduled_startTenant (hl t (.head _)) hv)

theorem layout_evtTctx {t : Nat} (h : t < 1024) : layout (evtTctx t) =
    [⟨39, 39, .sl, 0⟩, ⟨38, 37, .ro, 0⟩, ⟨36, 32, .ro, 16⟩, ⟨31, 28, .ro, 0⟩, ⟨27, 24, .ro, 0⟩, ⟨15, 0, .rw, 0⟩] := by
  unfold layout layoutLow evtTctx
  rw [if_pos (by omega), if_neg (by omega), if_neg (by omega), if_neg (by omega), if_neg (by omega), if_neg (by omega),
    if_neg (by omega), if_neg (by omega), if_neg (by omega), if_neg (by omega), if_neg (by omega), if_neg (by omega),
    if_neg (by omega), if_pos (by omega)]

theorem layout_frmTstat {t : Nat} (h : t < 1024) : layout (frmTstat t) =
    [⟨39, 37, .ro, 0⟩, ⟨36, 35, .ro, 0⟩, ⟨34, 34, .w1c, 0⟩, ⟨31, 24, .rw, 0⟩, ⟨19, 0, .rw, 0xFFFFF⟩] := by
  have h8 : (0xA4002 + 8 * t) % 8 = 2 := by omega
  unfold layout layoutFrm frmTstat
  rw [if_neg (by omega), if_pos (by omega), if_neg (by omega), if_neg (by omega), if_neg (by omega), if_pos (by omega), h8]
  rfl

/-- A write of bits outside the SL fields of a register leaves the protection set-up. -/
theorem State.setFld_sl (s : State) {r hi lo : Nat} (v q : Nat)
    (h : ∀ i, lo ≤ i → i ≤ hi → (accMask .sl (layout r)).getLsbD i = false) :
    (s.setFld r hi lo v).reg q &&& accMask .sl (layout q) = s.reg q &&& accMask .sl (layout q) := by
  rw [State.reg_setFld]
  split
  · next e =>
    subst e
    exact putBits_and_of_disj _ _ _ h
  · rfl

/-- LVL and STATE are no SL fields: starting a tenant leaves the protection set-up. -/
theorem State.startTenant_sl (s : State) {t : Nat} (ht : t < 1024) (q : Nat) :
    (s.startTenant t).reg q &&& accMask .sl (layout q) = s.reg q &&& accMask .sl (layout q) := by
  have hlevel : (s.toUserLevel t).reg q &&& accMask .sl (layout q) = s.reg q &&& accMask .sl (layout q) := by
    unfold State.toUserLevel
    split
    · refine s.setFld_sl 2 q fun i h1 h2 => ?_
      rw [layout_evtTctx ht]
      obtain rfl | rfl : i = 37 ∨ i = 38 := by omega
      · decide
      · decide
    · rfl
  unfold State.startTenant
  split
  · refine Eq.trans (State.setFld_sl _ 1 q fun i h1 h2 => ?_) hlevel
    rw [layout_frmTstat ht]
    obtain rfl | rfl | rfl : i = 37 ∨ i = 38 ∨ i = 39 := by omega
    · decide
    · decide
    · decide
  · exact hlevel

theorem State.startTenants_sl (l : List Nat) (s : State) (hl : ∀ t ∈ l, t < 1024) (q : Nat) :
    (l.foldl State.startTenant s).reg q &&& accMask .sl (layout q) = s.reg q &&& accMask .sl (layout q) := by
  induction l generalizing s with
  | nil => rfl
  | cons t l ih => exact (ih _ fun u hu => hl u (.tail _ hu)).trans (s.startTenant_sl (hl t (.head _)) q)

/-! ### The end of set-up -/

/-- The state in which the tenants are started: the shadow set is copied into the active set (R262). -/
def State.copySet (s : State) : State := { s with verso := s.recto }

/-- Set-up is marked as complete, and when (R311). -/
def State.markSetUp (s : State) : State :=
  (s.onLdr fun l => { l with setUp := true }).onAge fun a => { a with setUpAt := some s.clk.tb.toNat }

theorem State.endSetUp_eq (s : State) : s.endSetUp = s.copySet.startTenants.markSetUp := by
  unfold State.endSetUp State.markSetUp State.copySet
  rfl

theorem State.markSetUp_ldr (s : State) : s.markSetUp.ldr = { s.ldr with setUp := true } := rfl

theorem State.markSetUp_sets (s : State) : s.markSetUp.recto = s.recto ∧ s.markSetUp.verso = s.verso ∧
    s.markSetUp.age.setUpAt = some s.clk.tb.toNat := ⟨rfl, rfl, rfl⟩

theorem State.endSetUp_reg (s : State) (q : Nat) : s.endSetUp.reg q = s.copySet.startTenants.reg q := by
  rw [State.endSetUp_eq, State.markSetUp, State.onAge_reg, State.onLdr_reg]

theorem State.endSetUp_ldr (s : State) : s.endSetUp.ldr = { s.ldr with setUp := true } := by
  rw [State.endSetUp_eq, State.markSetUp_ldr, s.copySet.startTenants_touches.ldr (by decide), State.copySet]

theorem State.endSetUp_sets (s : State) : s.endSetUp.recto = s.recto ∧ s.endSetUp.verso = s.recto ∧
    s.endSetUp.age.setUpAt = some s.clk.tb.toNat := by
  have h := s.copySet.startTenants_touches.1
  have hrecto : s.copySet.startTenants.recto = s.copySet.recto := h .recto (by decide)
  have hverso : s.copySet.startTenants.verso = s.copySet.verso := h .verso (by decide)
  have hclk : s.copySet.startTenants.clk = s.copySet.clk := h .clk (by decide)
  obtain ⟨mrecto, mverso, mage⟩ := s.copySet.startTenants.markSetUp_sets
  rw [State.endSetUp_eq, mrecto, mverso, mage, hrecto, hverso, hclk]
  exact ⟨rfl, rfl, rfl⟩

theorem State.endSetUp_sl (s : State) (q : Nat) :
    s.endSetUp.reg q &&& accMask .sl (layout q) = s.reg q &&& accMask .sl (layout q) := by
  rw [State.endSetUp_reg, State.startTenants_eq]
  exact State.startTenants_sl (range 0 1024) s.copySet (fun _ h => by have := mem_range.1 h; omega) q

theorem State.endSetUp_ready (s : State) {v : Nat} (hv : v < 1024) (h : s.endSetUp.scheduled v = true) :
    s.endSetUp.fld (frmTstat v) 39 37 = 1 := by
  have hl : ∀ t ∈ range 0 1024, t < 1024 := fun t h => by have := mem_range.1 h; omega
  have hr : s.endSetUp.scheduled v = s.copySet.startTenants.scheduled v :=
    State.scheduled_congr fun k _ => s.endSetUp_reg _
  have hs : s.copySet.scheduled v = true := (State.scheduled_startTenants _ s.copySet hl hv).symm.trans (hr.symm.trans h)
  rw [State.fld_of_reg (s.endSetUp_reg _), State.startTenants_eq]
  exact (State.startTenants_ready_of_mem _ s.copySet hl (.inl (mem_range.2 (by omega))) hv hs).2

/-! ### Phase 6 -/

/-- SET_UP meets a record that may not be written (R249 code 10). -/
theorem State.doSetUp_bad_record {s : State} {pre post : List Rec} {x : Rec} (hs : s.ldr.setUp = false)
    (h : s.ordered = pre ++ x :: post) (hpre : ∀ y ∈ pre, recOk y = true) (hx : recOk x = false) :
    s.doSetUp.ldr.fail = some ⟨10, x.sect, 8 * x.idx⟩ ∧ s.doSetUp.ldr.setUp = false := by
  have e : s.doSetUp = (s.putRecords pre).failLoad ⟨10, x.sect, 8 * x.idx⟩ := by
    rw [State.doSetUp, h, s.putRecords_bad hpre hx]
    rfl
  rw [e]
  exact ⟨rfl, (congrArg Loader.setUp (s.putRecords_ldr hpre).1).trans hs⟩

section
variable {s : State} (hf : s.ldr.fail = none) (hok : ∀ y ∈ s.ordered, recOk y = true)
include hf hok

/-- SET_UP meets a setting that cannot be read (R249 code 12). -/
theorem State.doSetUp_unreadable {r : Nat} (hs : s.ldr.setUp = false)
    (hr : (s.putRecords s.ordered).unreadable = some r) :
    s.doSetUp.ldr.setUp = false ∧ ∃ i, s.doSetUp.ldr.fail = some ⟨12, i, 8 * r⟩ := by
  have hldr := (s.putRecords_ldr hok).1
  have e : s.doSetUp = (s.putRecords s.ordered).failLoad ⟨12, (s.putRecords s.ordered).sectOf r, 8 * r⟩ := by
    unfold State.doSetUp
    dsimp only
    rw [hldr, hf, if_neg (by decide), hr]
  rw [e]
  exact ⟨(congrArg Loader.setUp hldr).trans hs, _, rfl⟩

variable (hr : (s.putRecords s.ordered).unreadable = none) (hp : s.ldr.patch = none)
include hr hp

theorem State.doSetUp_eq : s.doSetUp = (s.putRecords s.ordered).endSetUp := by
  have hldr := (s.putRecords_ldr hok).1
  have hpatch : (s.putRecords s.ordered).putPatch = s.putRecords s.ordered := by rw [State.putPatch, hldr, hp]
  unfold State.doSetUp
  dsimp only
  rw [hldr, hf, if_neg (by decide), hr]
  dsimp only
  rw [hpatch, hldr, hf, if_neg (by decide)]

/-- SET_UP of an image without a patch whose settings can be read: the sets, the time and the tenants. -/
theorem State.doSetUp_done : s.doSetUp.ldr.setUp = true ∧ s.doSetUp.ldr.fail = none ∧
    s.doSetUp.recto = (s.putRecords s.ordered).recto ∧ s.doSetUp.verso = (s.putRecords s.ordered).recto ∧
    s.doSetUp.age.setUpAt = some s.clk.tb.toNat ∧
    ∀ v, v < 1024 → s.doSetUp.scheduled v = true → s.doSetUp.fld (frmTstat v) 39 37 = 1 := by
  obtain ⟨hldr, htb⟩ := s.putRecords_ldr hok
  obtain ⟨hrecto, hverso, htime⟩ := (s.putRecords s.ordered).endSetUp_sets
  rw [State.doSetUp_eq hf hok hr hp, State.endSetUp_ldr, hldr, hrecto, hverso, htime, htb]
  exact ⟨rfl, hf, rfl, rfl, rfl, fun v hv => State.endSetUp_ready _ hv⟩

/-- After SET_UP the SL fields of a register hold the value of its last record. -/
theorem State.doSetUp_sl {pre post : List Rec} {x : Rec} (hl : s.ordered = pre ++ x :: post) (hx : x.ty ≠ 0xC)
    (hpost : ∀ y ∈ post, y.idx ≠ x.idx ∨ y.ty = 0xC) :
    s.doSetUp.reg x.idx &&& accMask .sl (layout x.idx) = x.val &&& accMask .sl (layout x.idx) := by
  rw [State.doSetUp_eq hf hok hr hp, State.endSetUp_sl, hl]
  exact s.putRecords_sl (hl ▸ hok) hx hpost
end

end Sys2Proof.Machine
end

section
/-!
The seal, with and without a first plan, and the rejection of a bank (R254 to R256, R267, R311).
-/
namespace Sys2Proof.Machine

/-! ### The digest registers -/

/-- CFG_DIG`n` takes its bits of the digest (R267). -/
def State.putDigest (s : State) (n : Nat) : State := s.setReg (cfgDig n) (word (s.ldr.digest.toNat >>> (40 * n)))

theorem State.recordDigest_eq (s : State) : s.recordDigest = (range 0 7).foldl State.putDigest s := rfl

theorem State.reg_putDigests_ne (l : List Nat) (s : State) {q : Nat} (h : ∀ n ∈ l, q ≠ cfgDig n) :
    (l.foldl State.putDigest s).reg q = s.reg q := by
  induction l generalizing s with
  | nil => rfl
  | cons n l ih =>
    exact (ih _ fun m hm => h m (.tail _ hm)).trans (s.reg_setReg_ne _ (h n (.head _)))

theorem State.reg_putDigests (l : List Nat) (s : State) {n : Nat} (h : n ∈ l) :
    (l.foldl State.putDigest s).reg (cfgDig n) = word (s.ldr.digest.toNat >>> (40 * n)) := by
  induction l generalizing s with
  | nil => cases h
  | cons m l ih =>
    by_cases hl : n ∈ l
    · exact ih (s.putDigest m) hl
    · have e : n = m := (List.mem_cons.1 h).resolve_right hl
      subst e
      refine (State.reg_putDigests_ne l (s.putDigest n) fun k hk => ?_).trans (s.reg_setReg_self _ _)
      have : k ≠ n := fun e => hl (e ▸ hk)
      simp only [cfgDig]
      omega

theorem State.reg_recordDigest_ne (s : State) {q : Nat} (h : ∀ n, n < 7 → q ≠ cfgDig n) : s.recordDigest.reg q = s.reg q :=
  State.reg_putDigests_ne (range 0 7) s fun n hn => h n (by have := mem_range.1 hn; omega)

/-! ### The seal -/

/-- CFG_STAT once the part is sealed (R256). -/
def State.markSealed (s : State) : State := ((s.toPhase 7).setFlag cfgStat 27 true).setFlag cfgStat 25 s.ldr.bank

theorem State.markSealed_stat (s : State) : s.markSealed.flag cfgStat 27 = true ∧ s.markSealed.fld cfgStat 31 28 = 7 ∧
    s.markSealed.flag cfgStat 25 = s.ldr.bank := by
  refine ⟨?_, ?_, State.flag_setFlag_self _ _ _ (by decide)⟩
  · exact (State.flag_setFlag_ne _ _ (.inr (by decide))).trans (State.flag_setFlag_self _ _ _ (by decide))
  · refine (State.fld_setFlag_disj _ _ _ _ (.inr (.inr (by decide)))).trans ?_
    exact (State.fld_setFlag_disj _ _ _ _ (.inr (.inr (by decide)))).trans (State.fld_toPhase s 7)

theorem State.reg_markSealed_ne (s : State) {q : Nat} (h : q ≠ cfgStat) : s.markSealed.reg q = s.reg q := by
  rw [State.markSealed, State.reg_setFlag, if_neg h, State.reg_setFlag, if_neg h, State.reg_toPhase _ h]

/-- CFG_IMGID of the image (R267). -/
def State.putImgid (s : State) : State := s.setReg cfgImgid (putBits (word s.ldr.seqNo) 39 32 s.ldr.svn)

theorem State.sealRegs_eq (s : State) : s.sealRegs = s.markSealed.putImgid.recordDigest.cause 29 := rfl

theorem State.reg_sealRegs_ne (s : State) {q : Nat} (h : q ≠ hstIstat 0) (hd : ∀ n, n < 7 → q ≠ cfgDig n)
    (hi : q ≠ cfgImgid) : s.sealRegs.reg q = s.markSealed.reg q := by
  rw [State.sealRegs_eq, State.reg_cause_ne _ h, State.reg_recordDigest_ne _ hd]
  exact State.reg_setReg_ne _ _ hi

/-- Registers of other blocks (R267) are not the seal's. -/
theorem State.reg_sealRegs_other (s : State) {q : Nat} (h1 : 0xE0000 ≤ q) (h2 : q < 0x120000) :
    s.sealRegs.reg q = s.reg q := by
  rw [s.reg_sealRegs_ne, s.reg_markSealed_ne]
  · simp only [cfgStat]
    omega
  · simp only [hstIstat]
    omega
  · intro n hn
    simp only [cfgDig]
    omega
  · simp only [cfgImgid]
    omega

/-- What the registers show of the image that was sealed (R256, R267, R329). -/
def State.sealedIn (s t : State) : Prop :=
  t.sealed = true ∧ t.fld cfgStat 31 28 = 7 ∧ t.flag cfgStat 25 = s.ldr.bank ∧ t.fld cfgImgid 39 32 = s.ldr.svn % 256 ∧
    t.flag (hstIstat 0) 29 = true ∧ (∀ n, n < 7 → t.reg (cfgDig n) = word (s.ldr.digest.toNat / 2 ^ (40 * n))) ∧
    (s.pairMode = true → t.pair.waiting = true)

theorem State.sealedIn_congr {s u t : State} (hl : u.ldr = s.ldr) (hp : u.pairMode = s.pairMode) :
    u.sealedIn t ↔ s.sealedIn t := by
  rw [State.sealedIn, State.sealedIn, hl, hp]

theorem State.fld_sealRegs_svn (s : State) : s.sealRegs.fld cfgImgid 39 32 = s.ldr.svn % 256 := by
  have e : s.sealRegs.reg cfgImgid = putBits (word s.ldr.seqNo) 39 32 s.ldr.svn := by
    rw [State.sealRegs_eq, State.reg_cause_ne _ (by decide), State.reg_recordDigest_ne]
    · exact State.reg_setReg_self _ _ _
    · intro n _
      simp only [cfgImgid, cfgDig]
      omega
  rw [State.fld, e]
  exact bits_putBits_self _ _ (by decide)

theorem State.reg_sealRegs_digest (s : State) {n : Nat} (hn : n < 7) :
    s.sealRegs.reg (cfgDig n) = word (s.ldr.digest.toNat / 2 ^ (40 * n)) := by
  rw [State.sealRegs_eq, State.reg_cause_ne, State.recordDigest_eq]
  · rw [State.reg_putDigests _ _ (mem_range.2 (by omega)), Nat.shiftRight_eq_div_pow]
    rfl
  · simp only [cfgDig, hstIstat]
    omega

/-- Sending a packet leaves what the pair waits for, and its health word. -/
theorem State.send_pair (s : State) (b : Body) (fr : Byte) :
    (s.send b fr).pair.waiting = s.pair.waiting ∧ (s.send b fr).pair.health = s.pair.health := by
  unfold State.send
  split
  · exact ⟨rfl, rfl⟩
  · split <;> exact ⟨rfl, rfl⟩

theorem State.sendIdent_pair (s : State) :
    s.sendIdent.pair.waiting = s.pair.waiting ∧ s.sendIdent.pair.health = s.pair.health := by
  unfold State.sendIdent
  split
  · exact State.send_pair _ _ _
  · exact ⟨rfl, rfl⟩

theorem State.reg_sealPart (s : State) (q : Nat) : s.sealPart.reg q = s.sealRegs.reg q := by
  unfold State.sealPart
  dsimp only
  split
  · rfl
  · rw [(State.sendIdent_touches _).reg (by decide), State.onPair_reg]

theorem State.sealPart_pair (s : State) :
    (s.pairMode = true → s.sealPart.pair.waiting = true) ∧ s.sealPart.pair.health = s.pair.health := by
  have hmode : s.sealRegs.pairMode = s.pairMode := State.flag_of_reg (s.reg_sealRegs_other (by decide) (by decide)) 39
  have hpair : s.sealRegs.pair = s.pair := s.sealRegs_touches.pair (by decide)
  unfold State.sealPart
  dsimp only
  rw [hmode]
  cases s.pairMode with
  | false => exact ⟨fun h => absurd h Bool.false_ne_true, congrArg Pair.health hpair⟩
  | true =>
    obtain ⟨hwait, hhealth⟩ := State.sendIdent_pair (s.sealRegs.onPair fun p => { p with waiting := true })
    exact ⟨fun _ => hwait, hhealth.trans (congrArg Pair.health hpair :)⟩

theorem State.sealPart_seals (s : State) : s.sealedIn s.sealPart := by
  have hreg := s.reg_sealPart
  have hstat : s.sealPart.reg cfgStat = s.markSealed.reg cfgStat := by
    rw [hreg]
    refine s.reg_sealRegs_ne (by decide) (fun n _ => ?_) (by decide)
    simp only [cfgStat, cfgDig]
    omega
  obtain ⟨hsealed, hphase, hbank⟩ := s.markSealed_stat
  exact ⟨(State.flag_of_reg hstat 27).trans hsealed, (State.fld_of_reg hstat 31 28).trans hphase,
    (State.flag_of_reg hstat 25).trans hbank, (State.fld_of_reg (hreg _) 39 32).trans s.fld_sealRegs_svn,
    (State.flag_of_reg (hreg _) 29).trans (State.flag_cause_loaded _), fun n hn => (hreg _).trans (s.reg_sealRegs_digest hn),
    s.sealPart_pair.1⟩

/-! ### No first plan -/

theorem State.ageFlag_sets (s : State) {b : Nat} (n : Nat) (h : b < 40) : (s.ageFlag b n).flag ageStat b = true := by
  unfold State.ageFlag
  split
  · assumption
  · rw [State.flag_of_reg (State.reg_occur _ n (by decide) (by decide))]
    exact State.flag_setFlag_self _ _ _ h

theorem State.reg_ageFlag_ne (s : State) (b n : Nat) {q : Nat} (h : 0xC0000 ≤ q) (h' : q < 0x120000) (hq : q ≠ ageStat) :
    (s.ageFlag b n).reg q = s.reg q := by
  unfold State.ageFlag
  split
  · rfl
  · rw [State.reg_occur _ n h h', State.reg_setFlag, if_neg hq]

/-- HOLDFAIL, with the need of the newest candidate (R310). -/
def State.holdFail (s : State) : State :=
  match (s.ageFlag 19 970).age.cand with
  | some p => (s.ageFlag 19 970).setFld ageStat 39 28 p.need
  | none => s.ageFlag 19 970

theorem State.planFailed_eq (s : State) :
    s.planFailed = s.holdFail.onPair fun p => { p with health := putBit p.health 3 true } := by
  unfold State.planFailed State.holdFail
  rfl

theorem State.holdFail_flag (s : State) : s.holdFail.flag ageStat 19 = true := by
  unfold State.holdFail
  split
  · rw [State.flag_setFld_disj _ _ _ _ (.inr (.inl (by decide)))]
    exact s.ageFlag_sets 970 (by decide)
  · exact s.ageFlag_sets 970 (by decide)

theorem State.holdFail_pairMode (s : State) : s.holdFail.pairMode = s.pairMode := by
  have h : (s.ageFlag 19 970).reg mirCtl = s.reg mirCtl := s.reg_ageFlag_ne 19 970 (by decide) (by decide) (by decide)
  unfold State.holdFail
  split
  · exact (State.flag_setFld_disj _ _ _ _ (.inl (by decide))).trans (State.flag_of_reg h 39)
  · exact State.flag_of_reg h 39

/-- The seal after a first plan that did not come (R310, R311). -/
theorem State.sealPart_planFailed {s u : State} (h : Touches [.out, .clk] s u) :
    s.sealedIn u.planFailed.sealPart ∧ u.planFailed.sealPart.flag ageStat 19 = true ∧
      bit u.planFailed.sealPart.pair.health 3 = true := by
  have hldr : u.planFailed.ldr = s.ldr := (u.planFailed_touches.ldr (by decide)).trans (h.ldr (by decide))
  have hmode : u.planFailed.pairMode = s.pairMode := by
    rw [State.planFailed_eq, State.onPair_pairMode, State.holdFail_pairMode]
    exact State.flag_of_reg (h.reg (by decide) mirCtl) 39
  refine ⟨(State.sealedIn_congr hldr hmode).1 (State.sealPart_seals _), ?_, ?_⟩
  · rw [State.flag_of_reg (State.reg_sealPart _ _), State.flag_of_reg (State.reg_sealRegs_other _ (by decide) (by decide)),
      State.planFailed_eq, State.onPair_flag, State.holdFail_flag]
  · rw [(State.sealPart_pair _).2, State.planFailed_eq]
    exact bit_putBit_self _ _ (by decide)

/-! ### A bank is rejected -/

/-- Bits outside the masks written keep their value. -/
theorem State.bit_unsetReg (s : State) {r q i : Nat} {m : Word} (h : q = r → bit m i = false) :
    bit ((s.unsetReg r m).reg q) i = bit (s.reg q) i := by
  rw [State.unsetReg, State.reg_setReg]
  split
  · next e =>
    subst e
    have hm : m.getLsbD i = false := h rfl
    simp only [bit_eq, BitVec.getLsbD_or, BitVec.getLsbD_and, BitVec.getLsbD_not, hm, Bool.and_false, Bool.or_false,
      Bool.not_false, Bool.and_true]
    by_cases hi : i < 40
    · rw [decide_eq_true hi, Bool.and_true]
    · rw [decide_eq_false hi, Bool.and_false, BitVec.getLsbD_of_ge _ _ (Nat.not_lt.1 hi)]
  · rfl

theorem State.bit_unsetRegs {α : Type} (g : α → Nat) (m : Nat → Word) (l : List α) (s : State) {q i : Nat}
    (h : bit (m q) i = false) :
    bit ((l.foldl (fun (s : State) x => s.unsetReg (g x) (m (g x))) s).reg q) i = bit (s.reg q) i := by
  induction l generalizing s with
  | nil => rfl
  | cons x l ih => exact (ih _).trans (s.bit_unsetReg fun e => e ▸ h)

theorem State.reg_linkToDown (s : State) {q : Nat} (h : 0xC0000 ≤ q) (h' : q < 0xE0000) : s.linkToDown.reg q = s.reg q := by
  unfold State.linkToDown
  split
  · rfl
  · rw [State.reg_occur _ _ h (by omega), State.onPair_reg, State.reg_setFld, if_neg]
    simp only [mirLane]
    omega

theorem State.reg_clearOut (s : State) {q : Nat} (h : q < 0xE0000) : s.clearOut.reg q = s.reg q := by
  unfold State.clearOut
  split
  · rw [State.onClk_reg, State.reg_setFlag, if_neg]
    simp only [clkStat]
    omega
  · rfl

theorem sl_le_recMask {q i : Nat} (h : bit (recMask q) i = false) : bit (accMask .sl (layout q)) i = false := by
  rw [bit_eq] at h ⊢
  simp only [recMask, BitVec.getLsbD_or, Bool.or_eq_false_iff] at h
  exact h.1.1

/-- Clearing the load leaves the bits of the CFG_ registers that no record writes, but for CFG_STAT.SIGNED (R254). -/
theorem State.bit_clearLoad (s : State) {q i : Nat} (h : 0xC0000 ≤ q) (h' : q < 0xE0000) (hm : bit (recMask q) i = false)
    (hs : q ≠ cfgStat ∨ i ≠ 22) : bit (s.clearLoad.reg q) i = bit (s.reg q) i := by
  let t := (s.clearOut).linkToDown
  let u := (t.regs.map fun x => x.1).foldl (fun (s : State) r => s.unsetReg r (accMask .sl (layout r))) t
  let v := (u.ldr.recs.filter fun x => x.ty != 0xC).foldl (fun (s : State) x => s.unsetReg x.idx (recMask x.idx)) u
  have hv : bit (v.reg q) i = bit (u.reg q) i := State.bit_unsetRegs Rec.idx recMask _ u hm
  have hu : bit (u.reg q) i = bit (t.reg q) i :=
    State.bit_unsetRegs id (fun r => accMask .sl (layout r)) _ t (sl_le_recMask hm)
  have ht : t.reg q = s.reg q := (State.reg_linkToDown _ h h').trans (s.reg_clearOut h')
  have hclear : bit (s.clearLoad.reg q) i = bit (v.reg q) i := v.flag_setFlag_ne (r := cfgStat) (b := 22) false hs
  rw [hclear, hv, hu, ht]

theorem recMask_cfgWhy (b : Bool) : recMask (cfgWhy b.toNat) = 0 := by cases b <;> decide

/-- The reason of a rejection stays as the load is cleared. -/
theorem State.reg_clearLoad_why (s : State) (b : Bool) : s.clearLoad.reg (cfgWhy b.toNat) = s.reg (cfgWhy b.toNat) := by
  refine BitVec.eq_of_getLsbD_eq fun i _ => ?_
  refine s.bit_clearLoad (by cases b <;> decide) (by cases b <;> decide) ?_ (.inl (cfgWhy_ne_cfgStat b))
  rw [recMask_cfgWhy]
  exact bit_zero i

/-- A bank as it is rejected, before the other one is looked for. -/
def State.dropBank (s : State) (w : Why) : State :=
  (((s.rejectBank s.ldr.bank w).setFlag cfgStat 24 true).clearLoad).onLdr Loader.again

theorem State.fallBack_eq (s : State) (w : Why) : s.fallBack w =
    if (s.dropBank w).ldr.rejected.contains (s.dropBank w).ldr.bank then (s.dropBank w).giveUp else (s.dropBank w).toPhase 3 :=
  rfl

theorem State.dropBank_ldr (s : State) (w : Why) :
    (s.dropBank w).ldr = ((s.rejectBank s.ldr.bank w).setFlag cfgStat 24 true).ldr.again :=
  congrArg Loader.again ((State.clearLoad_touches _).ldr (by decide))

/-- What the registers show of the rejection (R249, R254). -/
theorem State.dropBank_shows (s : State) (w : Why) :
    let t := s.dropBank w
    let y := cfgWhy s.ldr.bank.toNat
    t.fld y 39 32 = w.code % 256 ∧ t.fld y 31 24 = w.sect % 256 ∧ t.fld y 23 0 = w.detail % 2 ^ 24 ∧
      t.flag cfgStat 24 = true := by
  have hwhy : (s.dropBank w).reg (cfgWhy s.ldr.bank.toNat) = (s.rejectBank s.ldr.bank w).reg (cfgWhy s.ldr.bank.toNat) := by
    rw [State.dropBank, State.onLdr_reg, State.reg_clearLoad_why, State.reg_setFlag, if_neg (cfgWhy_ne_cfgStat _)]
  obtain ⟨hcode, hsect, hdetail⟩ := s.fld_rejectBank s.ldr.bank w
  refine ⟨(State.fld_of_reg hwhy 39 32).trans hcode, (State.fld_of_reg hwhy 31 24).trans hsect,
    (State.fld_of_reg hwhy 23 0).trans hdetail, ?_⟩
  rw [State.dropBank, State.onLdr_flag]
  exact (State.bit_clearLoad _ (by decide) (by decide) (by decide) (.inr (by decide))).trans
    (State.flag_setFlag_self _ _ _ (by decide))

/-- Nothing of the rejected image stays (R254). -/
theorem State.dropBank_empty (s : State) (w : Why) : (s.dropBank w).ldr.fail = none ∧ (s.dropBank w).mem = [] ∧
    (s.dropBank w).recto = [] ∧ (s.dropBank w).verso = [] ∧ (s.dropBank w).patch = ⟨[], []⟩ := ⟨rfl, rfl, rfl, rfl, rfl⟩

theorem State.mem_rejected_dropBank (s : State) (w : Why) (b : Bool) :
    b ∈ (s.dropBank w).ldr.rejected ↔ b = s.ldr.bank ∨ b ∈ s.ldr.rejected := by
  rw [State.dropBank_ldr]
  exact List.mem_cons

theorem State.bank_dropBank (s : State) (w : Why) : (s.dropBank w).ldr.bank = !s.ldr.bank := by
  rw [State.dropBank_ldr]
  rfl

/-- With the other bank rejected before, the loader stops FAILED (R255). -/
theorem State.fallBack_stops {s : State} (w : Why) (h : (!s.ldr.bank) ∈ s.ldr.rejected) :
    s.fallBack w = (s.dropBank w).giveUp ∧ ∀ b, b ∈ (s.dropBank w).ldr.rejected := by
  have hall (b : Bool) : b ∈ (s.dropBank w).ldr.rejected := by
    rw [State.mem_rejected_dropBank]
    by_cases e : b = s.ldr.bank
    · exact .inl e
    · rw [Bool.eq_not.2 e]
      exact .inr h
  exact ⟨(s.fallBack_eq w).trans (if_pos (List.contains_iff_mem.2 (hall _))), hall⟩

/-- Else the other bank is loaded (R248). -/
theorem State.fallBack_other {s : State} (w : Why) (h : (!s.ldr.bank) ∉ s.ldr.rejected) :
    s.fallBack w = (s.dropBank w).toPhase 3 := by
  refine (s.fallBack_eq w).trans (if_neg ?_)
  rw [List.contains_iff_mem, State.bank_dropBank, State.mem_rejected_dropBank]
  exact fun hb => hb.elim (fun e => by cases hk : s.ldr.bank <;> simp [hk] at e) h

/-- What a rejection shows and empties, whatever comes after it (R249, R254). -/
def State.rejectedIn (s : State) (w : Why) (t : State) : Prop :=
  let y := cfgWhy s.ldr.bank.toNat
  t.fld y 39 32 = w.code % 256 ∧ t.fld y 31 24 = w.sect % 256 ∧ t.fld y 23 0 = w.detail % 2 ^ 24 ∧
    t.flag cfgStat 24 = true ∧ t.ldr.fail = none ∧ t.mem = [] ∧ t.recto = [] ∧ t.verso = [] ∧ t.patch = ⟨[], []⟩

theorem State.dropBank_rejected (s : State) (w : Why) : s.rejectedIn w (s.dropBank w) := by
  obtain ⟨hcode, hsect, hdetail, hfell⟩ := s.dropBank_shows w
  exact ⟨hcode, hsect, hdetail, hfell, s.dropBank_empty w⟩

theorem State.rejectedIn_toPhase {s t : State} {w : Why} (n : Nat) (h : s.rejectedIn w t) : s.rejectedIn w (t.toPhase n) := by
  obtain ⟨hcode, hsect, hdetail, hfell, hempty⟩ := h
  have hwhy : (t.toPhase n).reg (cfgWhy s.ldr.bank.toNat) = t.reg (cfgWhy s.ldr.bank.toNat) :=
    t.reg_toPhase (cfgWhy_ne_cfgStat _)
  exact ⟨(State.fld_of_reg hwhy 39 32).trans hcode, (State.fld_of_reg hwhy 31 24).trans hsect,
    (State.fld_of_reg hwhy 23 0).trans hdetail, (t.flag_toPhase n (by decide)).trans hfell, hempty⟩

theorem State.rejectedIn_cause {s t : State} {w : Why} (i : Nat) (h : s.rejectedIn w t) : s.rejectedIn w (t.cause i) := by
  obtain ⟨hcode, hsect, hdetail, hfell, hfail, hmem, hrecto, hverso, hpatch⟩ := h
  have hwhy : (t.cause i).reg (cfgWhy s.ldr.bank.toNat) = t.reg (cfgWhy s.ldr.bank.toNat) :=
    t.reg_cause_ne (by cases s.ldr.bank <;> simp [cfgWhy, hstIstat] <;> omega)
  have hstat : (t.cause i).reg cfgStat = t.reg cfgStat := t.reg_cause_ne (by simp only [cfgStat, hstIstat]; omega)
  have hk := (t.cause_touches i).1
  exact ⟨(State.fld_of_reg hwhy 39 32).trans hcode, (State.fld_of_reg hwhy 31 24).trans hsect,
    (State.fld_of_reg hwhy 23 0).trans hdetail, (State.flag_of_reg hstat 24).trans hfell,
    (congrArg Loader.fail (hk .ldr (by decide))).trans hfail, (t.cause_mem i).trans hmem,
    (hk .recto (by decide)).trans hrecto, (hk .verso (by decide)).trans hverso, (hk .patch (by decide)).trans hpatch⟩

/-- BANK_REJECT in reset, or with no failure found. -/
theorem execBankReject_idle {s : State} (h : s.inReset = true ∨ s.ldr.fail = none) : execBankReject s = .next s := by
  unfold execBankReject
  cases hf : s.ldr.fail with
  | none => rfl
  | some w => exact congrArg Host.Outcome.next (if_pos (h.resolve_right (by rw [hf]; exact Option.some_ne_none w)))

theorem execBankReject_fail {s : State} {w : Why} (h : ¬s.inReset = true) (hf : s.ldr.fail = some w) :
    execBankReject s = .next (s.fallBack w) := by
  rw [execBankReject, hf]
  exact congrArg Host.Outcome.next (if_neg h)

/-- BANK_REJECT with the other bank rejected before. -/
theorem State.fallBack_last {s : State} (w : Why) (h : (!s.ldr.bank) ∈ s.ldr.rejected) : s.rejectedIn w (s.fallBack w) ∧
    (s.fallBack w).fld cfgStat 31 28 = 8 ∧ (s.fallBack w).flag (hstIstat 0) 29 = true := by
  obtain ⟨e, hall⟩ := State.fallBack_stops w h
  rw [e]
  refine ⟨?_, State.giveUp_stops hall⟩
  rw [State.giveUp_of_both hall]
  exact State.rejectedIn_cause 29 (State.rejectedIn_toPhase 8 (s.dropBank_rejected w))

/-- BANK_REJECT with the other bank still to load. -/
theorem State.fallBack_first {s : State} (w : Why) (h : (!s.ldr.bank) ∉ s.ldr.rejected) : s.rejectedIn w (s.fallBack w) ∧
    (s.fallBack w).fld cfgStat 31 28 = 3 ∧ (s.fallBack w).ldr.bank = !s.ldr.bank := by
  rw [State.fallBack_other w h]
  exact ⟨State.rejectedIn_toPhase 3 (s.dropBank_rejected w), State.fld_toPhase _ 3, s.bank_dropBank w⟩

end Sys2Proof.Machine
end

section
/-!
The phases of the binding loader: the obligation, assembled command by command.
-/
namespace Sys2Proof.Machine

theorem next_if_pos {s t : State} {c : Prop} [Decidable c] (h : c) : (.next (if c then t else s) : Result) = .next t :=
  congrArg Host.Outcome.next (if_pos h)

theorem next_if_neg {s t : State} {c : Prop} [Decidable c] (h : ¬c) : (.next (if c then t else s) : Result) = .next s :=
  congrArg Host.Outcome.next (if_neg h)

/-- Settles O54, command by command: the gate of its phase, then the lemma on what the command does in it. -/
theorem loaderPhases : Obligations.LoaderPhases := by
  intro s held phase ready gaveUp fails start bytes at0
  have acts {t : State} {n : Nat} (h : ready n) : (.next (if s.loading n then t else s) : Result) = .next t :=
    next_if_pos ((s.loading_iff n).2 h)
  have idles {t : State} {n : Nat} (h : ¬ready n) : (.next (if s.loading n then t else s) : Result) = .next s :=
    next_if_neg (mt (s.loading_iff n).1 h)
  refine ⟨fun d h => idles h, fun d h => ?discovery, fun h => idles h, fun h hr => ?header, fun h => idles h,
    fun h => ?read, fun h => idles h, fun h => ?verify, fun h => idles h, fun h hnil => ?relocateNone,
    fun i e tb te ab ae h hone hk ht ha hin hfield => ?relocate, fun hn => ?notSetUp, fun h hs => ?setUp, ?sealing,
    fun hn => ?notRejected, fun w hh hf => ?reject, fun a => ?strobe⟩
  case discovery =>
    refine ⟨s.discover d, acts h, fun hd => ?_, fun x hd hx => ?_⟩
    · obtain ⟨hphase, hcause, hwhy⟩ := s.rejectBoth_stops 1
      rw [s.discover_rejects hd]
      exact ⟨⟨hphase, hcause⟩, hwhy false, hwhy true⟩
    · subst hd
      obtain ⟨hphase, hsfdp, hoctal, hslow⟩ := s.discover_finds hx
      exact ⟨hphase, hsfdp, hoctal ▸ s.useOctal_iff x, hslow⟩
  case header => exact ⟨s.choose, acts h, State.choose_phase hr h.2.1⟩
  case read =>
    have ⟨_, hphase, hf⟩ := h
    refine ⟨s.readImage, acts h, fun w hw => State.readImage_refused hw, fun hw hbad => ?_,
      fun hw hsound hty => State.readImage_without_load hf hw hsound.1 hsound.2 hty,
      fun pre x post y e hw hsound hl hx hty hy => ?_⟩
    · obtain ⟨x, hx, hty, hcrc⟩ := hbad
      obtain ⟨hstay, hfail⟩ := State.readImage_bad_crc hw hx hty hcrc
      exact ⟨hstay.trans hphase, hfail⟩
    · intro bs n a hlen hregion
      obtain ⟨r, top, hr, hends, hfit⟩ := hregion
      exact State.readImage_with_load hf hw hsound.1 hsound.2 hl hx hty hy hlen hr hends hfit
  case verify =>
    exact ⟨s.verifyImage, acts h, fun hd => State.verifyImage_fails (State.verifyWhy_digest hd),
      State.verifyImage_unsigned h.2.2, State.verifyImage_signed h.2.2⟩
  case relocateNone =>
    refine ⟨s.toPhase 6, ?_, State.fld_toPhase s 6, s.toPhase_mem 6, s.toPhase_touches 6⟩
    rw [← s.relocateAll_nil 0, ← hnil]
    exact acts h
  case relocate =>
    intro a hi sum
    refine ⟨s.relocateAll 0 s.ldr.relocs, acts h, fun h1 h2 => ?_, fun hn => ?_⟩
    · rw [hone]
      exact State.relocate_word hk ht hin ha hfield h1 h2
    · rw [hone]
      exact State.relocate_word_fails hk ht hin ha hfield hn
  case notSetUp =>
    exact next_if_neg fun hc => hn ⟨(s.loading_iff 6).1 hc.1, (Bool.not_eq_true' _).mp hc.2⟩
  case setUp =>
    have hf := h.2.2
    refine ⟨s.doSetUp, next_if_pos ⟨(s.loading_iff 6).2 h, (Bool.not_eq_true' _).mpr hs⟩,
      fun pre x post hl hpre hx => State.doSetUp_bad_record hs hl hpre hx,
      fun hok => ⟨fun r hr => State.doSetUp_unreadable hf hok hs hr, fun hr hp => ?_⟩⟩
    obtain ⟨hset, hfail, hrecto, hverso, htime, hready⟩ := State.doSetUp_done hf hok hr hp
    exact ⟨hset, hfail, hrecto, hverso, htime, hready,
      fun pre x post hl hx hpost => State.doSetUp_sl hf hok hr hp hl hx hpost⟩
  case sealing =>
    refine ⟨fun hn => ?_, fun hs hp => ?_, fun hn => ?_, fun hs hp => ?_⟩
    · exact next_if_neg fun hc => hn ⟨s.sealable_iff.1 hc.1, hc.2⟩
    · exact ⟨s.sealPart, next_if_pos ⟨s.sealable_iff.2 hs, hp⟩, s.sealPart_seals⟩
    · exact next_if_neg fun hc => hn ⟨s.sealable_iff.1 hc.1, (Bool.not_eq_true' _).mp hc.2⟩
    · exact ⟨_, next_if_pos ⟨s.sealable_iff.2 hs, (Bool.not_eq_true' _).mpr hp⟩, State.sealPart_planFailed (s.reach_touches _)⟩
  case notRejected => exact execBankReject_idle (hn.imp_left s.inReset_iff.2)
  case reject =>
    have hexec : exec .bankReject s = .next (s.fallBack w) := execBankReject_fail (mt s.inReset_iff.1 hh) hf
    by_cases hb : (!s.ldr.bank) ∈ s.ldr.rejected
    · obtain ⟨⟨hcode, hsect, hdetail, hfell, hfail, hmem, hrecto, hverso, hpatch⟩, hstops⟩ := State.fallBack_last w hb
      exact ⟨_, hexec, hcode, hsect, hdetail, hfell, hfail, hmem, hrecto, hverso, hpatch, fun _ => hstops,
        fun hn => absurd hb hn⟩
    · obtain ⟨⟨hcode, hsect, hdetail, hfell, hfail, hmem, hrecto, hverso, hpatch⟩, hother⟩ := State.fallBack_first w hb
      exact ⟨_, hexec, hcode, hsect, hdetail, hfell, hfail, hmem, hrecto, hverso, hpatch, fun hp => absurd hp hb,
        fun _ => hother⟩
  case strobe =>
    intro octal n
    have hgate : ((s.loading 2 = true ∨ s.loading 3 = true) ∧ s.ldr.octal = true) ↔ octal := by
      rw [s.loading_iff, s.loading_iff]
    refine ⟨fun hn => next_if_neg (mt hgate.1 hn), fun ho hlt => ?_, fun ho hle => ?_⟩
    · rw [← State.noStrobe_again rfl hlt]
      exact next_if_pos (hgate.2 ho)
    · exact ⟨_, next_if_pos (hgate.2 ho), fun hp => State.noStrobe_header hle hp, fun hp => State.noStrobe_read hle hp⟩

end Sys2Proof.Machine
end

section
/-!
PTP time and PPS_OUT (R355 to R358): what a number of counts adds to PTP time, an advance to the next instant at which the clock
block acts, and what happens there.
-/
namespace Sys2Proof.Machine

/-! ### PTP time as one number of nanoseconds (R356) -/

/-- PTP time in nanoseconds. -/
def Clock.time (k : Clock) : Int := k.sec.toNat * 1000000000 + k.ns

theorem Clock.time_ptpAdd (k : Clock) (d : Int) : (k.ptpAdd d).time = (k.time + d) % (2 ^ 48 * 1000000000) := by
  simp only [Clock.time, Clock.ptpAdd, second, BitVec.toNat_ofNat]
  omega

theorem Clock.ns_ptpAdd_lt (k : Clock) (d : Int) : (k.ptpAdd d).ns < 1000000000 := Nat.mod_lt _ (by decide)

/-- The nanoseconds carry into the seconds. -/
theorem Clock.ptpAdd_carry {k : Clock} {d : Int} {q r : Nat} (h : (k.ns : Int) + d = q * 1000000000 + r)
    (hr : r < 1000000000) : (k.ptpAdd d).sec = k.sec + BitVec.ofNat 48 q ∧ (k.ptpAdd d).ns = r := by
  constructor
  · apply BitVec.eq_of_toNat_eq
    simp only [Clock.ptpAdd, second, BitVec.toNat_ofNat, BitVec.toNat_add]
    omega
  · simp only [Clock.ptpAdd, second]
    omega

/-! ### The nanoseconds that PTP time gains in a number of counts (R356) -/

/-- The nanoseconds that PTP time gains in `n` counts. -/
def Clock.gain (k : Clock) (rate : Word) (n : Nat) : Int := n + (k.frac.toNat + n * rate.toInt) / 2 ^ 40

theorem Clock.ptpRun_eq (k : Clock) (rate : Word) (n : Nat) : k.ptpRun rate n =
    { k.ptpAdd (k.gain rate n) with frac := BitVec.ofInt 40 (k.frac.toNat + n * rate.toInt) } := rfl

theorem Clock.gain_rate_zero (k : Clock) (n : Nat) : k.gain 0 n = n := by
  have hfrac := k.frac.isLt
  have hrate : (0 : Word).toInt = 0 := rfl
  simp only [Clock.gain, hrate, Int.mul_zero]
  omega

theorem Clock.gain_zero (k : Clock) (rate : Word) : k.gain rate 0 = 0 := by
  have hfrac := k.frac.isLt
  simp only [Clock.gain]
  omega

/-- One more count gains at most two nanoseconds. -/
theorem Clock.gain_succ_le (k : Clock) (rate : Word) (n : Nat) : k.gain rate (n + 1) ≤ k.gain rate n + 2 := by
  have hlt := BitVec.toInt_lt (x := rate)
  simp only [Clock.gain, Int.natCast_add, Int.natCast_one, Int.add_mul, Int.one_mul]
  omega

theorem Clock.gain_nonneg (k : Clock) (rate : Word) (n : Nat) : 0 ≤ k.gain rate n := by
  have hle : -2 ^ 39 ≤ rate.toInt := BitVec.le_toInt rate
  have hmul : (n : Int) * -2 ^ 39 ≤ n * rate.toInt := Int.mul_le_mul_of_nonneg_left hle (Int.natCast_nonneg n)
  simp only [Clock.gain]
  omega

/-- `untilWrap` is the least number of counts that takes the nanoseconds to a second. -/
theorem State.lt_untilWrap_iff (s : State) (n : Nat) :
    n < s.untilWrap ↔ s.clk.ns + s.clk.gain (s.reg clkPtprate) n < 1000000000 := by
  have hle := BitVec.le_toInt (s.reg clkPtprate)
  have hrate : (0 : Int) < 2 ^ 40 + (s.reg clkPtprate).toInt := by omega
  simp only [State.untilWrap, second, Int.lt_toNat, ← Int.add_one_le_iff (a := (n : Int)), Int.le_ediv_iff_mul_le hrate,
    Clock.gain, Int.add_mul, Int.mul_add, Int.one_mul]
  omega

/-- The count in which the nanoseconds wrap. -/
theorem State.gain_untilWrap {s : State} (h : s.clk.ns < 1000000000) : ∃ r : Nat, r ≤ 1 ∧ 0 < s.untilWrap ∧
    s.clk.ns + s.clk.gain (s.reg clkPtprate) s.untilWrap = (1 : Nat) * 1000000000 + r := by
  have hpos : 0 < s.untilWrap := by
    rw [s.lt_untilWrap_iff, Clock.gain_zero]
    omega
  obtain ⟨n, hn⟩ := Nat.exists_eq_add_one_of_ne_zero (Nat.ne_of_gt hpos)
  have hbefore := (s.lt_untilWrap_iff n).1 (by omega)
  have hat := mt (s.lt_untilWrap_iff s.untilWrap).2 (Nat.lt_irrefl _)
  have hstep := s.clk.gain_succ_le (s.reg clkPtprate) n
  rw [← hn] at hstep
  exact ⟨(s.clk.ns + s.clk.gain (s.reg clkPtprate) s.untilWrap - 1000000000).toNat, by omega, hpos, by omega⟩

/-! ### Counts in which the clock block acts at their end only -/

theorem State.clk_plainCount (s : State) (n : Nat) : (s.plainCount (n + s.clk.owed)).clk =
    { s.clk.ptpRun (s.reg clkPtprate) n with tb := s.clk.tb + BitVec.ofNat 64 n, owed := 0 } := by
  simp only [State.plainCount, State.onClk, Nat.add_sub_cancel, Nat.sub_eq_zero_of_le (Nat.le_add_left s.clk.owed n)]

theorem Clock.ptpDue_of_no_cmds {k : Clock} (h : k.ptpCmds = []) : k.ptpDue = k := by
  obtain ⟨_, _, _, _, _, _, _, _, _, _, _, _, _⟩ := k
  subst h
  rfl

theorem State.onClk_ptpDue_of_no_cmds {s : State} (h : s.clk.ptpCmds = []) : s.onClk Clock.ptpDue = s := by
  rw [State.onClk, Clock.ptpDue_of_no_cmds h]

theorem State.wrapPulse_of_no_width {s : State} (h : s.fld clkPpsctl 8 0 = 0) : s.wrapPulse = s := if_pos (.inl h)

/-- PPS_OUT is high for its width from the wrap on (R358). -/
theorem State.wrapPulse_of_width {s : State} (h : s.fld clkPpsctl 8 0 ≠ 0) (hc : s.clk.ptpCmds = []) :
    s.wrapPulse.clk = { s.clk with pps := some (s.clk.tb.toNat + 1000000 * s.fld clkPpsctl 8 0) } ∧
      s.wrapPulse.out = if s.clk.pps.isSome then s.out else .ppsOut true :: s.out := by
  have hn : ¬(s.fld clkPpsctl 8 0 = 0 ∨ (s.clk.ptpCmds.any fun x => decide (x.count ≤ s.clk.tb.toNat)) = true) := by
    rw [hc]
    exact fun h' => h'.elim h Bool.false_ne_true
  unfold State.wrapPulse
  dsimp only
  rw [if_neg hn]
  cases s.clk.pps <;> exact ⟨rfl, rfl⟩

theorem State.pulseEnd_of_lt {s : State} (h : ∀ x, s.clk.pps = some x → s.clk.tb.toNat < x) : s.pulseEnd = s := by
  unfold State.pulseEnd
  split
  · next x hx => exact if_neg (Nat.not_le.2 (h x hx))
  · rfl

theorem State.pulseEnd_of_le {s : State} {x : Nat} (h : s.clk.pps = some x) (hx : x ≤ s.clk.tb.toNat) :
    s.pulseEnd = (s.onClk fun k => { k with pps := none }).emit (.ppsOut false) := by
  rw [State.pulseEnd, h]
  exact if_pos hx

/-- `n` counts in which nothing happens before the last one: PPS_OUT rises or falls at their end. -/
def State.lap (s : State) (n : Nat) : State :=
  (if (s.plainCount n).clk.sec ≠ s.clk.sec then (s.plainCount n).wrapPulse else s.plainCount n).pulseEnd

theorem State.lap_of_idle {s : State} (n : Nat) (hw : s.fld clkPpsctl 8 0 = 0) (hp : s.clk.pps = none) :
    s.lap n = s.plainCount n := by
  have hn : (s.plainCount n).pulseEnd = s.plainCount n :=
    State.pulseEnd_of_lt fun x hx => absurd (hp.symm.trans hx) (Option.some_ne_none x).symm
  rw [State.lap, State.wrapPulse_of_no_width (s := s.plainCount n) hw, ite_self, hn]

/-- The end of a lap changes nothing of the clock block but the pulse. -/
theorem State.clk_lap (s : State) (n : Nat) : ∃ p, (s.lap n).clk = { (s.plainCount n).clk with pps := p } := by
  have hfall (u : State) : ∃ p, u.pulseEnd.clk = { u.clk with pps := p } := by
    unfold State.pulseEnd
    split
    · split
      · exact ⟨none, rfl⟩
      · exact ⟨_, rfl⟩
    · exact ⟨_, rfl⟩
  have hrise (u : State) : ∃ p, u.wrapPulse.clk = { u.clk with pps := p } := by
    unfold State.wrapPulse
    dsimp only
    split
    · exact ⟨_, rfl⟩
    · split <;> exact ⟨_, rfl⟩
  unfold State.lap
  obtain ⟨p, hp⟩ := hfall (if (s.plainCount n).clk.sec ≠ s.clk.sec then (s.plainCount n).wrapPulse else s.plainCount n)
  refine ⟨p, hp.trans ?_⟩
  split
  · obtain ⟨p', hp'⟩ := hrise (s.plainCount n)
    rw [hp']
  · rfl

/-- The block acts no earlier than in `n` counts. -/
theorem State.untilAct_eq {s : State} {n : Nat} (hc : s.clk.ptpCmds = []) (hw : n ≤ s.clk.owed + max 1 s.untilWrap)
    (hp : ∀ x, s.clk.pps = some x → n ≤ s.clk.owed + max 1 (x - s.clk.tb.toNat)) : s.untilAct n = n := by
  unfold State.untilAct
  dsimp only
  rw [hc, List.foldl_nil]
  split
  · next x hx =>
    have hx := hp x hx
    omega
  · omega

/-- An advance to the next instant at which the block acts. -/
theorem State.advance_eq_lap {s : State} {n : Nat} (hn : n ≠ 0) (h : (s.onClk Clock.ptpDue).untilAct n = n) :
    s.advance n = (s.onClk Clock.ptpDue).lap n := by
  unfold State.advance
  split
  · next hidle =>
    obtain ⟨hw, hp, hc⟩ := hidle
    rw [State.onClk_ptpDue_of_no_cmds hc, State.lap_of_idle n hw (Option.isNone_iff_eq_none.1 hp)]
  · rw [show n / 100000000 + 8 + 2 * s.clk.ptpCmds.length = n / 100000000 + 6 + 2 * s.clk.ptpCmds.length + 1 + 1 by omega,
      State.counts, if_neg hn]
    dsimp only
    rw [h, Nat.sub_self, State.counts, if_pos rfl, State.lap]

/-- Where no command waits, an advance that goes no further than the wrap and the end of the pulse. -/
theorem State.advance_no_cmds {s : State} {n : Nat} (hn : n ≠ 0) (hc : s.clk.ptpCmds = [])
    (hw : n ≤ s.clk.owed + max 1 s.untilWrap)
    (hp : ∀ x, s.clk.pps = some x → n ≤ s.clk.owed + max 1 (x - s.clk.tb.toNat)) : s.advance n = s.lap n := by
  have hlap := State.advance_eq_lap hn (s := s)
  rw [State.onClk_ptpDue_of_no_cmds hc] at hlap
  exact hlap (State.untilAct_eq hc hw hp)

/-! ### The count in which the nanoseconds wrap, and the fall of PPS_OUT (R356, R358) -/

theorem State.clk_wrapCount {s : State} (h : s.clk.ns < 1000000000) :
    let k := (s.plainCount (s.untilWrap + s.clk.owed)).clk
    k.sec = s.clk.sec + 1 ∧ k.ns ≤ 1 ∧ k.tb = s.clk.tb + BitVec.ofNat 64 s.untilWrap ∧
      (s.reg clkPtprate = 0 → k.ns = 0 ∧ s.untilWrap = 1000000000 - s.clk.ns) := by
  obtain ⟨r, hr, hpos, hgain⟩ := State.gain_untilWrap h
  obtain ⟨hsec, hns⟩ := Clock.ptpAdd_carry hgain (by omega)
  dsimp only
  rw [State.clk_plainCount, Clock.ptpRun_eq]
  refine ⟨hsec, Nat.le_trans (Nat.le_of_eq hns) hr, rfl, fun hrate => ?_⟩
  have hlast := (s.lt_untilWrap_iff (s.untilWrap - 1)).1 (by omega)
  rw [hrate, Clock.gain_rate_zero] at hgain hlast
  exact ⟨hns.trans (by omega), by omega⟩

/-- The second wraps by counting, with PPS_OUT where it has a width. -/
theorem State.advance_untilWrap {s : State} (h : s.clk.ns < 1000000000) (hc : s.clk.ptpCmds = [])
    (hp : ∀ x, s.clk.pps = some x → s.clk.tb.toNat + s.untilWrap < x) :
    let t := s.advance (s.untilWrap + s.clk.owed)
    t.clk.sec = s.clk.sec + 1 ∧ t.clk.ns ≤ 1 ∧
      (s.reg clkPtprate = 0 → t.clk.ns = 0 ∧ t.clk.tb = s.clk.tb + BitVec.ofNat 64 (1000000000 - s.clk.ns)) ∧
      (s.fld clkPpsctl 8 0 ≠ 0 → t.clk.pps = some (t.clk.tb.toNat + 1000000 * s.fld clkPpsctl 8 0) ∧
        t.out = if s.clk.pps.isSome then s.out else .ppsOut true :: s.out) ∧
      (s.fld clkPpsctl 8 0 = 0 → t.clk.pps = s.clk.pps ∧ t.out = s.out) := by
  let n := s.untilWrap + s.clk.owed
  obtain ⟨_, _, hpos, _⟩ := State.gain_untilWrap h
  obtain ⟨hsec, hns, htb, hrate⟩ := State.clk_wrapCount h
  have hlap : s.advance n = s.lap n := State.advance_no_cmds (by omega) hc (by omega) fun x hx => by
    have := hp x hx
    omega
  have hrise : s.lap n = (s.plainCount n).wrapPulse.pulseEnd := by
    rw [State.lap, if_pos]
    rw [hsec]
    bv_omega
  have hcount : (s.plainCount n).clk.tb.toNat ≤ s.clk.tb.toNat + s.untilWrap := by
    rw [htb, BitVec.toNat_add, BitVec.toNat_ofNat]
    omega
  have hexact (h0 : s.reg clkPtprate = 0) : (s.plainCount n).clk.ns = 0 ∧
      (s.plainCount n).clk.tb = s.clk.tb + BitVec.ofNat 64 (1000000000 - s.clk.ns) := by
    obtain ⟨hzero, hcounts⟩ := hrate h0
    exact ⟨hzero, hcounts ▸ htb⟩
  intro t
  by_cases hw : s.fld clkPpsctl 8 0 = 0
  · have ht : t = s.plainCount n := by
      refine hlap.trans (hrise.trans ?_)
      rw [State.wrapPulse_of_no_width (s := s.plainCount n) hw]
      exact State.pulseEnd_of_lt fun x hx => Nat.lt_of_le_of_lt hcount (hp x hx)
    rw [ht]
    exact ⟨hsec, hns, hexact, fun hn => absurd hw hn, fun _ => ⟨rfl, rfl⟩⟩
  · obtain ⟨hclk, hout⟩ := State.wrapPulse_of_width (s := s.plainCount n) hw hc
    have ht : t = (s.plainCount n).wrapPulse := by
      refine hlap.trans (hrise.trans (State.pulseEnd_of_lt fun x hx => ?_))
      rw [hclk] at hx ⊢
      have hwidth : 0 < 1000000 * (s.plainCount n).fld clkPpsctl 8 0 := Nat.mul_pos (by decide) (Nat.pos_of_ne_zero hw)
      cases hx
      exact Nat.lt_add_of_pos_right hwidth
    rw [ht, hclk]
    exact ⟨hsec, hns, hexact, fun _ => ⟨rfl, hout⟩, fun hz => absurd hz hw⟩

/-- Time runs to the end of the pulse, which comes before the next wrap. -/
theorem State.ppsFall_falls {s : State} {x : Nat} (hp : s.clk.pps = some x) (hc : s.clk.ptpCmds = []) (hx : x < 2 ^ 64)
    (hw : x < s.clk.tb.toNat + s.untilWrap) :
    s.ppsFall.clk.pps = none ∧ s.ppsFall.clk.tb.toNat = max x s.clk.tb.toNat ∧ s.ppsFall.out = .ppsOut false :: s.out := by
  have hfall : s.ppsFall = (s.reach x).pulseEnd := by rw [State.ppsFall, hp]
  rw [hfall, State.reach]
  split
  · next hlt =>
    let m := x - s.clk.tb.toNat
    let p := s.plainCount (m + s.clk.owed)
    have hp' : p.clk.pps = some x := hp
    have hclk : p.clk = _ := s.clk_plainCount m
    have htb : p.clk.tb.toNat = x := by
      rw [hclk]
      simp only [BitVec.toNat_add, BitVec.toNat_ofNat, m]
      omega
    have hsame : p.clk.sec = s.clk.sec := by
      have hgain := (s.lt_untilWrap_iff m).1 (by omega)
      have hnonneg := s.clk.gain_nonneg (s.reg clkPtprate) m
      rw [hclk, Clock.ptpRun_eq]
      exact (Clock.ptpAdd_carry (q := 0) (r := (s.clk.ns + s.clk.gain (s.reg clkPtprate) m).toNat) (by omega) (by omega)).1.trans
        (BitVec.add_zero _)
    have hlap : s.advance (m + s.clk.owed) = s.lap (m + s.clk.owed) :=
      State.advance_no_cmds (by omega) hc (by omega) fun y hy => by
        cases hp.symm.trans hy
        omega
    have hend : s.lap (m + s.clk.owed) = (p.onClk fun k => { k with pps := none }).emit (.ppsOut false) := by
      rw [State.lap, if_neg fun h => h hsame]
      exact State.pulseEnd_of_le hp' (Nat.le_of_eq htb.symm)
    rw [hlap, hend]
    exact ⟨rfl, htb.trans (by omega), rfl⟩
  · next hge =>
    rw [State.pulseEnd_of_le hp (Nat.not_lt.1 hge)]
    exact ⟨rfl, by simp only [State.emit_clk, State.onClk]; omega, rfl⟩

/-! ### A command of CLK_PTPCMD takes effect (R357) -/

/-- The PTP time from which the step of a command goes on, in nanoseconds. -/
def PtpCmd.start (x : PtpCmd) (k : Clock) : Int :=
  match x.load with
  | some (sec, ns) => sec.toNat * 1000000000 + ns
  | none => k.time

/-- A command moves PTP time and the fraction alone: by its step, from the time loaded or the present one. -/
theorem Clock.ptpDo_eq (k : Clock) (x : PtpCmd) : ∃ sec ns frac,
    k.ptpDo x = { k with sec := sec, ns := ns, frac := frac } ∧
      (k.ptpDo x).time = (x.start k + x.step) % (2 ^ 48 * 1000000000) := by
  unfold Clock.ptpDo PtpCmd.start
  cases x.load with
  | none => exact ⟨_, _, _, rfl, Clock.time_ptpAdd k x.step⟩
  | some l => exact ⟨_, _, _, rfl, Clock.time_ptpAdd { k with sec := l.1, ns := l.2, frac := 0 } x.step⟩

theorem Clock.ptpDue_of_one {k : Clock} {x : PtpCmd} (h : k.ptpCmds = [x]) (hx : x.count ≤ k.tb.toNat) :
    k.ptpDue = { k.ptpDo x with ptpCmds := [] } := by
  have hn : ¬k.tb.toNat < x.count := by omega
  simp [Clock.ptpDue, h, hx, hn]

/-- The count in which a command of CLK_PTPCMD takes effect, at a rate of 0. -/
theorem State.tickBase_ptpDo {s : State} {x : PtpCmd} (hrun : s.clk.running = true) (howed : s.clk.owed = 0)
    (hc : s.clk.ptpCmds = [x]) (hx : x.count ≤ s.clk.tb.toNat) (hrate : s.reg clkPtprate = 0) :
    let k := s.tickBase.clk
    k.ptpCmds = [] ∧ k.tb = s.clk.tb + 1 ∧ k.time = (x.start s.clk + x.step + 1) % (2 ^ 48 * 1000000000) ∧
      k.ns < 1000000000 := by
  obtain ⟨sec, ns, frac, hdo, htime⟩ := s.clk.ptpDo_eq x
  let u := s.onClk Clock.ptpDue
  have hdue : u.clk = { s.clk.ptpDo x with ptpCmds := [] } := Clock.ptpDue_of_one hc hx
  have hu : u.clk.owed = 0 := by rw [hdue, hdo]; exact howed
  have hlap : s.tickBase = u.lap 1 := by
    rw [State.tickBase, if_pos hrun]
    exact State.advance_eq_lap Nat.one_ne_zero
      (State.untilAct_eq (by rw [hdue]) (by omega) fun _ _ => by omega)
  have hcount := u.clk_plainCount 1
  have hr : u.reg clkPtprate = 0 := hrate
  rw [hu, hr, Clock.ptpRun_eq, Clock.gain_rate_zero, Int.natCast_one] at hcount
  obtain ⟨p, hp⟩ := u.clk_lap 1
  have hclk := (congrArg State.clk hlap).trans (hp.trans (by rw [hcount]))
  have hcmds : s.tickBase.clk.ptpCmds = u.clk.ptpCmds := by rw [hclk]; rfl
  have htb : s.tickBase.clk.tb = u.clk.tb + 1 := by rw [hclk]; rfl
  have htime' : s.tickBase.clk.time = (u.clk.ptpAdd 1).time := by simp only [Clock.time, hclk]
  have hns : s.tickBase.clk.ns = (u.clk.ptpAdd 1).ns := by rw [hclk]
  have hu' : u.clk.time = (s.clk.ptpDo x).time := by simp only [Clock.time, hdue]
  refine ⟨?_, ?_, ?_, ?_⟩
  · rw [hcmds, hdue]
  · rw [htb, hdue, hdo]
  · rw [htime', Clock.time_ptpAdd, hu', htime]
    omega
  · rw [hns]
    exact Clock.ns_ptpAdd_lt u.clk 1

/-- With no received item waiting, an idle step is its count alone. -/
theorem State.retryAll_of_none_wait {s : State} (h : ∀ p, p < 4 → (s.port p).rxWait = []) : s.retryAll = s := by
  simp [State.retryAll, range, State.retryRx, h]

end Sys2Proof.Machine
end

section
/-!
What the host reads and writes of the clock block, captures and CLKOUT (R355, R357, R359 to R361).
-/
namespace Sys2Proof.Machine

/-! ### A host access whose BAR is open (R316; log entry 74) -/

theorem State.barsOpen_iff (s : State) :
    s.barsOpen = true ↔ s.inReset = false ∧ s.flag clkStat 0 = true ∧ s.host.d3 = false := by
  simp only [State.barsOpen, Bool.and_eq_true, Bool.not_eq_true', and_assoc]

theorem State.viaBar_of_open {s : State} (h : s.barsOpen = true) (b : Bar) (f : State → State) :
    s.viaBar b f = f (s.assign b) := if_pos h

theorem State.viaBar_of_closed {s : State} (h : ¬s.barsOpen = true) (b : Bar) (f : State → State) : s.viaBar b f = s :=
  if_neg h

theorem State.assign_clk (s : State) (b : Bar) : (s.assign b).clk = s.clk := (s.assign_touches b).1 .clk (by decide)

theorem State.assign_out (s : State) (b : Bar) : (s.assign b).out = s.out := (s.assign_touches b).1 .out (by decide)

theorem State.assign_check (s : State) (b : Bar) : (s.assign b).check = s.check := (s.assign_touches b).1 .check (by decide)

/-- The assignment of a BAR writes HST_LINK alone. -/
theorem State.reg_assign (s : State) (b : Bar) {q : Nat} (h : q ≠ hstLink) : (s.assign b).reg q = s.reg q := by
  have hneg (u : State) : u.negotiate.reg q = u.reg q := by
    unfold State.negotiate
    split
    · rfl
    · exact ((State.reg_setFld _ _ _ _ _ _).trans (if_neg h)).trans ((State.reg_setFld _ _ _ _ _ _).trans (if_neg h))
  unfold State.assign
  split
  · rfl
  · exact hneg _

/-! ### Commands of CLK_PTPCMD are queued (R357; log entry 49) -/

/-- The seconds that LOAD takes from CLK_PTPLD0 and CLK_PTPLD1. -/
theorem bits_loadSec {a : Nat} (ha : a < 2 ^ 8) (b : Word) :
    bits (BitVec.ofNat 48 (a * 2 ^ 40 + b.toNat)) 47 40 = a ∧
      bits (BitVec.ofNat 48 (a * 2 ^ 40 + b.toNat)) 39 0 = bits b 39 0 := by
  have hb := b.isLt
  simp only [bits, BitVec.toNat_ofNat, Nat.shiftRight_eq_div_pow]
  omega

theorem State.ptpCmd_load (s : State) : ∃ sec : BitVec 48, bits sec 47 40 = s.fld clkPtpld0 37 30 ∧
    bits sec 39 0 = s.fld clkPtpld1 39 0 ∧
    (s.ptpCmd true false).clk =
      { s.clk with ptpCmds := s.clk.ptpCmds ++ [⟨s.clk.tb.toNat + 1, some (sec, s.fld clkPtpld0 29 0), 0⟩] } := by
  obtain ⟨hhi, hlo⟩ := bits_loadSec (bits_lt (s.reg clkPtpld0) 37 30) (s.reg clkPtpld1)
  exact ⟨_, hhi, hlo, rfl⟩

theorem State.ptpCmd_step (s : State) : (s.ptpCmd false true).clk =
    { s.clk with ptpCmds := s.clk.ptpCmds ++ [⟨s.clk.tb.toNat + 1, none, (s.reg clkPtpstep).toInt⟩] } := rfl

/-! ### Latched reads (R355, R357) -/

/-- A read of both dwords of a register that BAR0 holds and that carries no error. -/
theorem State.readAt_bar0_whole {s : State} {r : Nat} (half : Nat) (hl : layout r ≠ []) (hc : s.check = []) :
    s.readAt .bar0 r half true = (s.readEffect r).complete (s.readReg r).toNat false := by
  have hword : s.hostWord .bar0 r = (s.readEffect r, some (s.readReg r, false)) := by
    unfold State.hostWord
    dsimp only
    rw [if_neg hl, hc, if_neg (by simp [Map.get])]
  unfold State.readAt State.readWord
  rw [hword]
  rfl

theorem State.barRead_clk {s : State} {r : Nat} (hr : r < barWords .bar0) (ho : s.barsOpen = true) (hl : layout r ≠ [])
    (hc : s.check = []) : s.barRead .bar0 (8 * r) true =
      ((s.assign .bar0).readEffect r).complete ((s.assign .bar0).readReg r).toNat false := by
  have hoff : 8 * r / 8 = r := Nat.mul_div_cancel_left r (by decide)
  rw [State.barRead, hoff, if_neg (Nat.not_le.2 hr), State.viaBar_of_open ho]
  exact State.readAt_bar0_whole _ hl ((s.assign_check .bar0).trans hc)

theorem State.barRead_closed {s : State} (h : ¬s.barsOpen = true) (b : Bar) (off : Nat) (whole : Bool) :
    s.barRead b off whole = s := by
  rw [State.barRead, State.viaBar_of_closed h, ite_self]

theorem State.readReg_clkTblo (s : State) : (s.readReg clkTblo).toNat = bits s.clk.tb 39 0 := by
  have h : s.readReg clkTblo = word (bits s.clk.tb 39 0) &&& fieldMask (layout clkTblo) &&& ~~~accMask .wo (layout clkTblo) := rfl
  have hm : fieldMask (layout clkTblo) = BitVec.allOnes 40 := by decide
  have hw : ~~~accMask .wo (layout clkTblo) = BitVec.allOnes 40 := by decide
  rw [h, hm, hw, BitVec.and_allOnes, BitVec.and_allOnes]
  exact Nat.mod_eq_of_lt (bits_lt s.clk.tb 39 0)

theorem State.readReg_clkPtp0 (s : State) : (s.readReg clkPtp0).toNat = s.clk.ptpHi.toNat % 2 ^ 38 := by
  have h : s.readReg clkPtp0 = s.clk.ptpHi &&& fieldMask (layout clkPtp0) &&& ~~~accMask .wo (layout clkPtp0) := rfl
  have hm : fieldMask (layout clkPtp0) = BitVec.ofNat 40 (2 ^ 38 - 1) := by decide
  have hw : ~~~accMask .wo (layout clkPtp0) = BitVec.allOnes 40 := by decide
  rw [h, hm, hw, BitVec.and_allOnes, BitVec.toNat_and]
  exact Nat.and_two_pow_sub_one_eq_mod _ 38

theorem bits_word (v : Nat) {hi : Nat} (h : hi < 40) : bits (word v) hi 0 = v % 2 ^ (hi + 1) := by
  simp only [bits, word, BitVec.toNat_ofNat, Nat.shiftRight_zero, Nat.sub_zero]
  exact Nat.mod_mod_of_dvd v (Nat.pow_dvd_pow 2 h)

theorem Clock.bits_ptpHi (k : Clock) : bits k.ptpHi 37 30 = bits k.sec 47 40 ∧ bits k.ptpHi 29 0 = k.ns % 2 ^ 30 := by
  refine ⟨(bits_putBits_self _ _ (by decide)).trans (Nat.mod_eq_of_lt (bits_lt k.sec 47 40)), ?_⟩
  rw [Clock.ptpHi, bits_putBits_disj _ _ (by decide), bits_word _ (by decide), Nat.mod_mod]

/-- What a completion shows of CLK_PTP0. -/
theorem State.bits_readReg_clkPtp0 (s : State) :
    let v := BitVec.ofNat 64 (s.readReg clkPtp0).toNat
    bits v 37 30 = bits s.clk.sec 47 40 ∧ bits v 29 0 = s.clk.ns % 2 ^ 30 := by
  obtain ⟨hsec, hns⟩ := s.clk.bits_ptpHi
  rw [← hsec, ← hns, State.readReg_clkPtp0]
  simp only [bits, BitVec.toNat_ofNat, Nat.shiftRight_eq_div_pow]
  omega

/-! ### Captures (R359) -/

theorem State.capture_of_disabled {s : State} (h : ¬(s.flag clkPpsctl 9 = true ∧ s.clk.running = true)) : s.capture = s := by
  refine if_pos ?_
  rw [Bool.or_eq_true, Bool.not_eq_true', Bool.not_eq_true', ← Bool.not_eq_true, ← Bool.not_eq_true]
  exact Decidable.not_and_iff_or_not.1 h

/-- The registers that hold both clocks, with VALID, before OVR is decided. -/
def State.captured (s : State) : State :=
  ((((s.setReg clkPpscap0 s.clk.ptpHi).setReg clkPpscap1 s.clk.ptpLo).setReg clkPpstb0 (word (bits s.clk.tb 39 0))).setReg
    clkPpstb1 (word (bits s.clk.tb 63 40))).setFlag clkPpsctl 11 true

theorem State.capture_of_enabled {s : State} (h : s.flag clkPpsctl 9 = true) (hr : s.clk.running = true) :
    s.capture = if s.flag clkPpsctl 11 then s.captured.setFlag clkPpsctl 10 true else s.captured := by
  refine if_neg ?_
  rw [h, hr]
  exact Bool.false_ne_true

theorem State.reg_captured (s : State) :
    s.captured.reg clkPpscap0 = s.clk.ptpHi ∧ s.captured.reg clkPpscap1 = s.clk.ptpLo ∧
      s.captured.reg clkPpstb0 = word (bits s.clk.tb 39 0) ∧ s.captured.reg clkPpstb1 = word (bits s.clk.tb 63 40) ∧
      s.captured.reg clkPpsctl = putBit (s.reg clkPpsctl) 11 true := by
  simp only [State.captured, State.reg_setFlag, State.reg_setReg, clkPpscap0, clkPpscap1, clkPpstb0, clkPpstb1, clkPpsctl]
  simp

/-- A capture where one is still VALID sets OVR; the clocks are captured in both cases. -/
theorem State.reg_capture {s : State} (h : s.flag clkPpsctl 9 = true) (hr : s.clk.running = true) :
    (∀ q, q ≠ clkPpsctl → s.capture.reg q = s.captured.reg q) ∧ s.capture.flag clkPpsctl 11 = true ∧
      s.capture.flag clkPpsctl 10 = (s.flag clkPpsctl 10 || s.flag clkPpsctl 11) := by
  obtain ⟨_, _, _, _, hctl⟩ := s.reg_captured
  have hvalid : s.captured.flag clkPpsctl 11 = true := by
    rw [State.flag, hctl]
    exact bit_putBit_self _ _ (by decide)
  have hovr : s.captured.flag clkPpsctl 10 = s.flag clkPpsctl 10 := by
    rw [State.flag, hctl]
    exact bit_putBit_ne _ _ (by decide)
  rw [State.capture_of_enabled h hr]
  cases hwas : s.flag clkPpsctl 11 with
  | true =>
    rw [if_pos rfl, Bool.or_true]
    exact ⟨fun q hq => (State.reg_setFlag ..).trans (if_neg hq),
      (State.flag_setFlag_ne _ _ (.inr (by decide))).trans hvalid, State.flag_setFlag_self _ _ _ (by decide)⟩
  | false =>
    rw [if_neg Bool.false_ne_true, Bool.or_false]
    exact ⟨fun _ _ => rfl, hvalid, hovr⟩

/-- Both clocks as the registers hold them after a capture. -/
theorem State.capture_shows {s : State} (h : s.flag clkPpsctl 9 = true) (hr : s.clk.running = true) :
    s.capture.fld clkPpscap0 37 30 = bits s.clk.sec 47 40 ∧ s.capture.fld clkPpscap0 29 0 = s.clk.ns % 2 ^ 30 ∧
      s.capture.fld clkPpscap1 39 0 = bits s.clk.sec 39 0 ∧ s.capture.fld clkPpstb0 39 0 = bits s.clk.tb 39 0 ∧
      s.capture.fld clkPpstb1 23 0 = bits s.clk.tb 63 40 := by
  obtain ⟨hcap0, hcap1, htb0, htb1, _⟩ := s.reg_captured
  obtain ⟨hkept, _⟩ := State.reg_capture h hr
  obtain ⟨hsec, hns⟩ := s.clk.bits_ptpHi
  simp only [State.fld]
  rw [hkept _ (by decide), hkept _ (by decide), hkept _ (by decide), hkept _ (by decide), hcap0, hcap1, htb0, htb1,
    Clock.ptpLo, bits_word _ (by decide), bits_word _ (by decide), bits_word _ (by decide)]
  exact ⟨hsec, hns, Nat.mod_eq_of_lt (bits_lt _ 39 0), Nat.mod_eq_of_lt (bits_lt _ 39 0), Nat.mod_eq_of_lt (bits_lt _ 63 40)⟩

/-! ### CLKOUT (R360, R361) -/

theorem and_putBits_zero (v m : Word) (hi lo : Nat) : v &&& putBits m hi lo 0 = putBits (v &&& m) hi lo 0 := by
  refine BitVec.eq_of_getLsbD_eq fun i hi' => ?_
  rw [BitVec.getLsbD_and, putBits_getLsbD, putBits_getLsbD, BitVec.getLsbD_and, decide_eq_true hi', Bool.true_and, Bool.true_and]
  split
  · rw [Nat.zero_testBit, Bool.and_false]
  · rfl

/-- The word that a write of CLK_OUTSEL keeps: reserved bits are 0. -/
theorem and_outMask (v : Word) : v &&& outMask = putBit (putBits v 39 22 0) 3 false := by
  have hm : outMask = putBits (putBits (BitVec.allOnes 40) 39 22 0) 3 3 0 := by decide
  rw [hm, and_putBits_zero, and_putBits_zero, BitVec.and_allOnes]
  rfl

theorem bits_and_outMask (v : Word) :
    bits (v &&& outMask) 2 0 = bits v 2 0 ∧ bits (v &&& outMask) 21 14 = bits v 21 14 := by
  rw [and_outMask]
  exact ⟨(bits_putBit_disj _ _ (.inl (by decide))).trans (bits_putBits_disj _ _ (.inl (by decide))),
    (bits_putBit_disj _ _ (.inr (by decide))).trans (bits_putBits_disj _ _ (.inl (by decide)))⟩

/-- The sources that CLKOUT may take, in terms of the locks of CLK_STAT (R360). -/
theorem State.outReady_iff (s : State) {src : Nat} (h : src < 8) : s.outReady src = true ↔
    ¬((src = 1 ∨ src = 4 ∨ src = 6 ∨ src = 7) ∧ s.flag clkStat 0 = false) ∧ ¬(src = 2 ∧ s.flag clkStat 1 = false) ∧
      ¬(src = 3 ∧ s.flag clkStat 2 = false) := by
  unfold State.outReady
  split
  · exact iff_of_true rfl ⟨fun h => absurd h.1 (by decide), fun h => absurd h.1 (by decide), fun h => absurd h.1 (by decide)⟩
  · simp
  · simp
  · exact iff_of_true rfl ⟨fun h => absurd h.1 (by decide), fun h => absurd h.1 (by decide), fun h => absurd h.1 (by decide)⟩
  · next h0 h2 h3 h5 =>
    obtain ⟨h0, h2, h3, h5⟩ : src ≠ 0 ∧ src ≠ 2 ∧ src ≠ 3 ∧ src ≠ 5 := ⟨h0, h2, h3, h5⟩
    have hsrc : src = 1 ∨ src = 4 ∨ src = 6 ∨ src = 7 := by omega
    rw [← Bool.not_eq_false]
    exact ⟨fun hlock => ⟨fun h => hlock h.2, fun h => h2 h.1, fun h => h3 h.1⟩, fun h hoff => h.1 ⟨hsrc, hoff⟩⟩

theorem argOk_iff (src arg : Nat) : argOk src arg = true ↔ (src = 5 → arg ≤ 135) ∧ (src = 7 → arg ≤ 127) := by
  unfold argOk
  split
  · simp
  · simp
  · next h5 h7 => exact iff_of_true rfl ⟨fun e => absurd e h5, fun e => absurd e h7⟩

theorem State.selectOut_eq (s : State) (v : Word) : s.selectOut v =
    if s.outReady (bits v 2 0) = true ∧ argOk (bits v 2 0) (bits v 21 14) = true then
      if s.clk.switching then s.onClk fun k => { k with nextSel := some (v &&& outMask) }
      else (s.setReg clkOutsel (v &&& outMask)).onClk fun k => { k with switching := true }
    else s.setFlag clkStat 7 true := by
  obtain ⟨hsrc, harg⟩ := bits_and_outMask v
  unfold State.selectOut
  dsimp only
  rw [hsrc, harg]
  cases s.outReady (bits v 2 0) <;> cases argOk (bits v 2 0) (bits v 21 14) <;> rfl

theorem State.switchDone_of_none {s : State} (h : s.clk.nextSel = none) :
    s.switchDone = s.onClk fun k => { k with switching := false } := by
  rw [State.switchDone, h]

theorem State.switchDone_of_some {s : State} {v : Word} (h : s.clk.nextSel = some v) :
    s.switchDone = (s.setReg clkOutsel v).onClk fun k => { k with switching := true, nextSel := none } := by
  rw [State.switchDone, h]

theorem State.clkOut_of_switching {s : State} (h : s.clk.switching = true) : s.clkOut = .low :=
  if_pos (.inr (.inl h))

end Sys2Proof.Machine
end

section
/-!
PTP time, captures, pulses, CLKOUT and latched clock reads: the obligation, assembled command by command.
-/
namespace Sys2Proof.Machine

/-- Settles O53, command by command: host accesses by whether the BARs are open, counts by `State.advance_eq_lap`, and the
captures and CLKOUT by the registers that they write. -/
theorem clocksAndPulses : Obligations.ClocksAndPulses := by
  intro s isOpen u queued whole
  have hclk : u.clk = s.clk := s.assign_clk .bar0
  have hout : u.out = s.out := s.assign_out .bar0
  have hreg {q : Nat} (h : q ≠ hstLink) : u.reg q = s.reg q := s.reg_assign .bar0 h
  have acts (ho : isOpen) (f : State → State) : (.next (s.viaBar .bar0 f) : Result) = .next (f u) :=
    next_if_pos (s.barsOpen_iff.2 ho)
  have reads {r : Nat} (ho : isOpen) (hc : s.check = []) (hr : r < barWords .bar0) (hl : layout r ≠ []) :
      (.next (s.barRead .bar0 (8 * r) true) : Result) = .next ((u.readEffect r).complete (u.readReg r).toNat false) :=
    congrArg Host.Outcome.next (State.barRead_clk hr (s.barsOpen_iff.2 ho) hl hc)
  refine ⟨fun hn => ?closed, fun ho => ⟨?load, ?step, fun hc => ⟨?tblo, ?ptp0⟩, fun v => ?outsel⟩,
    fun x hpend hrun howed hcmds hx hrate hrx => ?command, fun hr => next_if_neg (ne_true_of_eq_false hr),
    fun hr hns hcmds hp => ?wrap, fun hn => ?noFall, fun x hr hp hns hcmds hx hw => ?fall,
    fun hn => congrArg Host.Outcome.next (State.capture_of_disabled hn), fun hen hr => ?capture,
    fun hs => next_if_neg (ne_true_of_eq_false hs), fun hs => ?switch⟩
  case closed =>
    have hb : ¬s.barsOpen = true := mt s.barsOpen_iff.1 hn
    have idles (f : State → State) : (.next (s.viaBar .bar0 f) : Result) = .next s := next_if_neg hb
    have readsNothing (off : Nat) : (.next (s.barRead .bar0 off true) : Result) = .next s :=
      congrArg Host.Outcome.next (State.barRead_closed hb .bar0 off true)
    exact ⟨idles _, idles _, readsNothing _, readsNothing _, fun _ => idles _⟩
  case load =>
    obtain ⟨sec, hhi, hlo, hq⟩ := u.ptpCmd_load
    rw [hclk, State.fld_of_reg (hreg (by decide))] at hq
    rw [State.fld_of_reg (hreg (by decide))] at hhi hlo
    exact ⟨_, acts ho _, sec, hhi, hlo, hq, u.ptpCmd_touches true false⟩
  case step =>
    have hq := u.ptpCmd_step
    rw [hclk, hreg (by decide)] at hq
    exact ⟨_, acts ho _, hq, u.ptpCmd_touches false true⟩
  case tblo =>
    refine ⟨_, reads ho hc (by decide) (by decide), ?_, ?_,
      ((u.readEffect_touches clkTblo).mono (by decide)).step (State.complete_touches ..) (by decide)⟩
    · show .completion (BitVec.ofNat 64 (u.readReg clkTblo).toNat) false :: u.out = _
      rw [State.readReg_clkTblo, hclk, hout]
    · show { u.clk with tbHi := BitVec.ofNat 24 (bits u.clk.tb 63 40) } = _
      rw [hclk]
  case ptp0 =>
    obtain ⟨hsec, hns⟩ := u.bits_readReg_clkPtp0
    rw [hclk] at hsec hns
    refine ⟨_, _, reads ho hc (by decide) (by decide), ?_, hsec, hns,
      ?_, ((u.readEffect_touches clkPtp0).mono (by decide)).step (State.complete_touches ..) (by decide)⟩
    · exact congrArg _ hout
    · show { u.clk with ptp1 := u.clk.ptpLo } = _
      rw [hclk]
      rfl
  case outsel =>
    intro src arg ok kept
    have hok : (u.outReady src = true ∧ argOk src arg = true) ↔ ok := by
      rw [u.outReady_iff (bits_lt v 2 0), argOk_iff, State.flag_of_reg (hreg (by decide)),
        State.flag_of_reg (hreg (by decide)), State.flag_of_reg (hreg (by decide)), and_assoc, and_assoc]
    refine ⟨u.selectOut v, acts ho _, ?_⟩
    rw [State.selectOut_eq, and_outMask, hclk]
    refine ⟨fun hn => ?_, fun h hs => ?_, fun h hs => ?_⟩
    · rw [if_neg (mt hok.1 hn)]
      exact ⟨State.flag_setFlag_self _ _ _ (by decide),
        (State.reg_setFlag ..).trans ((if_neg (by decide)).trans (hreg (by decide))), hclk⟩
    · rw [if_pos (hok.2 h), if_pos hs]
      exact ⟨rfl, rfl⟩
    · rw [if_pos (hok.2 h), if_neg (ne_true_of_eq_false hs)]
      exact ⟨State.reg_setReg_self _ _ _, rfl, State.clkOut_of_switching rfl⟩
  case command =>
    intro base
    obtain ⟨hnone, htb, htime, hlt⟩ := State.tickBase_ptpDo hrun howed hcmds hx hrate
    have hports : s.tickBase.ports = s.ports := s.tickBase_touches.1 .ports (by decide)
    have hwait : ∀ p, p < 4 → (s.tickBase.port p).rxWait = [] := fun p hp => by
      rw [State.port, hports]
      exact hrx p hp
    refine ⟨s.tickBase, ?_, hnone, htb, htime, hlt⟩
    rw [step, hpend]
    exact congrArg Host.Outcome.next (State.retryAll_of_none_wait hwait)
  case wrap =>
    obtain ⟨hsec, hle, hrate, hwidth, hnowidth⟩ := State.advance_untilWrap hns hcmds hp
    exact ⟨_, next_if_pos hr, hsec, hle, hrate, hwidth, hnowidth, s.advance_touches _⟩
  case noFall =>
    refine congrArg Host.Outcome.next ?_
    split
    · next hr =>
      rw [State.ppsFall, hn.resolve_left (ne_false_of_eq_true hr)]
    · rfl
  case fall =>
    obtain ⟨hnone, htb, hfall⟩ := State.ppsFall_falls hp hcmds hx hw
    exact ⟨_, next_if_pos hr, hnone, htb, hfall, s.ppsFall_touches⟩
  case capture =>
    obtain ⟨hsec, hns, hlo, htb0, htb1⟩ := State.capture_shows hen hr
    obtain ⟨_, hvalid, hovr⟩ := State.reg_capture hen hr
    exact ⟨_, rfl, hsec, hns, hlo, htb0, htb1, hvalid, hovr, s.capture_touches⟩
  case switch =>
    refine ⟨_, next_if_pos hs, ?_, fun hnone => ?_, fun v hv => ?_, s.switchDone_touches⟩
    · cases hnext : s.clk.nextSel with
      | none => rw [State.switchDone_of_none hnext]; exact hnext
      | some v => rw [State.switchDone_of_some hnext]; rfl
    · rw [State.switchDone_of_none hnone]
      exact ⟨rfl, rfl⟩
    · rw [State.switchDone_of_some hv]
      exact ⟨rfl, State.reg_setReg_self _ _ _⟩

end Sys2Proof.Machine
end
